-- ==== Sys2Proof/Word.lean ====
section
/-! DEFINITION. The machine's words: registers and addresses of 64 bits, bytes, and the small fields that
name registers, predicates, tiles and handles (R4, R10, R11, R27). -/
namespace Sys2Proof

/-- A 64-bit register, address or control word (R10, R27). -/
abbrev Word := BitVec 64

/-- One byte of memory. -/
abbrev Byte := BitVec 8

/-- A general register number, g0 to g15 (R10). -/
abbrev Reg := BitVec 4

/-- A predicate number, p0 to p7 (R11). -/
abbrev Pred := BitVec 3

/-- An 8-bit handle field: a tile t0 to t255, or a deckle or channel number still to be checked (R75). -/
abbrev Handle := BitVec 8

end Sys2Proof
end

