-- ==== Sys2Proof/Syntax/Event.lean ====
section
/-! DEFINITION. What the machine's events carry (opcode-table rows 139 to 236): fabric packets, coherent
requests, host accesses, and the registers that a host write names. -/
namespace Sys2Proof

/-- A fabric packet: the header fields of R341 and the payload, decrypted. -/
structure Packet where
  pkey : BitVec 16
  src : BitVec 10
  dst : BitVec 10
  via : BitVec 10
  cls : BitVec 2
  gen : Bool
  hlim : BitVec 2
  hop : Bool
  credit : BitVec 12
  seq : BitVec 32
  ack : BitVec 32
  kph : Bool
  typ : BitVec 4
  nonce : BitVec 96
  arg : BitVec 96
  tag : BitVec 128
  payload : List Byte
  deriving DecidableEq, Repr

/-- A packet as it arrives: on which plane, from which device (the source, or the relay of the last hop),
and whether its CRC, its reserved bits and its GCM tag pass (R340, R342, R348). `own` marks a packet to
the device's own rank, which travels over the die links and meets no fabric check (R263, R275). `fmt` and `count` are the
format code and the element count of the slice that a BDATA's COPYR sends: R264 compares them, and the packet's layout has no
field for them (log 55). -/
structure Arrival where
  pkt : Packet
  plane : Nat
  sender : BitVec 10
  crcOk : Bool
  rsvOk : Bool
  tagOk : Bool
  own : Bool
  fmt : Nat
  count : Nat
  deriving DecidableEq, Repr

/-- The kind of a coherent request (R310, R312, R315, R362). -/
inductive CohKind where
  | read        -- load miss, fill or engine read
  | own         -- write, atomic or ownership
  | writeBack   -- an eviction's write-back
  | release     -- a lessee's release after its Commit
  | hostSnoop   -- a snoop of the host for one of its lines
  deriving DecidableEq, Repr

/-- A request of a die's sequence: the line, the requester's die and core, its partition, its kind, and whether the
core's L1D takes the line (an engine's request and one with policy NA leave no line there: R179, R310). -/
structure CohReq where
  line : Nat
  die : Nat
  core : Nat
  part : Option Nat
  kind : CohKind
  fill : Bool
  deriving DecidableEq, Repr

/-- A scoped copy: of a quire's Write Queue or of a die's Copy Store, and its line (R154, R155). -/
structure CopyRef where
  ofDie : Bool
  unit : Nat
  line : Nat
  deriving DecidableEq, Repr

/-- A host access through CXL.mem (R359). -/
inductive HostAcc where
  | read (pa len : Nat)
  | write (pa : Nat) (data : List Byte)
  deriving DecidableEq, Repr

def HostAcc.pa : HostAcc → Nat
  | .read pa _ | .write pa _ => pa

/-- What a scrub or an access finds wrong (R318): nothing; an error that the code corrects; one that it cannot, in a granule
of a memory, in a granule of a scoped copy, in a line's tag or directory or lease entry, or in a context's registers; a
parity error in a quire's instruction cache, at the block of `pa`. -/
inductive MemErr where
  | none
  | corrected
  | granule
  | copy (c : CopyRef) (i : Nat)
  | line
  | registers (pos : Nat)
  | fetch (q : Nat)
  deriving DecidableEq, Repr

/-- Who asks for a measurement (R372): the management interface, or the DOE mailbox of a function. -/
inductive Requester where
  | mgmt
  | doe (fn : Nat)
  deriving DecidableEq, Repr

/-- A GET_MEASUREMENTS request (R372): who asks, the certificate slot whose key signs, and the nonce where the response is to
be signed. -/
structure MeasReq where
  who : Requester
  slot : BitVec 4
  nonce : Option (List Byte)
  deriving DecidableEq, Repr

/-- Who writes a fabric register (R358): the physical function's driver over the host link, or the management interface. -/
inductive Writer where
  | host | mgmt
  deriving DecidableEq, Repr

/-- Why an arriving packet is discarded (R340, R342, R343, R347). -/
inductive DiscardWhy where
  | badCrc | badTag | badType | badPairing | unknownKey | unknownSrc | relayRefuses | outOfWindow
  deriving DecidableEq, Repr

/-- A register whose write has no opcode-table row of its own, or a place of a function's BAR0 (R358, R360, R361, R365,
R377). `fstate` is a write of the whole of FSTATE. -/
inductive RegName where
  | fid
  | cal (e : Nat)
  | pkeyt (n : Nat)
  | rcells (n : Nat)
  | rtab (g : Bool) (d : Nat)
  | fqbase (n : Nat)
  | fqlog (n : Nat)
  | fseq (n : Nat)
  | fst (n : Nat)
  | svc (n : Nat)
  | age (n : Nat)
  | quantum (n : Nat)
  | migasid (n : Nat)
  | perm (n q : Nat)
  | vdt (v : Nat)
  | root (asid : Nat)
  | stageOff
  | stage (off : Nat)
  | stageCmd
  | atomicOpEnable (fn : Nat)
  | fstate
  | bar (fn off : Nat)
  | readOnly (off : Nat)
  | reserved (off : Nat)
  deriving DecidableEq, Repr

end Sys2Proof
end

