-- ==== Sys2Proof/Syntax/Operand.lean ====
section
/-! DEFINITION. The operand types of the instructions: guards, types and formats, sources, memory operands
and selectors (R64 to R74, R114, R174, R200, R231, R253). -/
namespace Sys2Proof

/-- The guard of an instruction: predicate `gp` with sense `gs` (R61, R64). -/
structure Guard where
  gp : Pred
  gs : Bool
  deriving DecidableEq, Repr

/-- The element formats of R19 and R74, code 0x00 left out. -/
inductive Fmt where
  | f64 | f32 | bf16 | f16 | e4m3 | e5m2 | e3m2 | e2m3 | e2m1 | bs8 | bs4 | e8m0
  | s8 | s16 | s32 | s64 | n8 | n16 | n32 | n64 | s4
  deriving DecidableEq, Repr

/-- The type field of an integer entry: 0x00 or one of 0x10 to 0x17 (R112, R114). -/
inductive ITy where
  | dflt | s8 | s16 | s32 | s64 | n8 | n16 | n32 | n64
  deriving DecidableEq, Repr

/-- The type field of BFX: 0x00, S64 or N64 (R114). -/
inductive BfxTy where
  | dflt | s64 | n64
  deriving DecidableEq, Repr

/-- The type field of SEXT and ZEXT: 0x10 to 0x12, 0x14 to 0x16 (R114). -/
inductive ExtTy where
  | s8 | s16 | s32 | n8 | n16 | n32
  deriving DecidableEq, Repr

/-- An immediate with the length of its form: 28, 60 or 64 bits in 64, 96 or 128 (R66). -/
inductive Imm where
  | i28 (v : BitVec 28)
  | i60 (v : BitVec 60)
  | i64 (v : BitVec 64)
  deriving DecidableEq, Repr

/-- The second source of an integer entry: a register (Format A) or an immediate (Format I). -/
inductive Src where
  | reg (r : Reg)
  | imm (i : Imm)
  deriving DecidableEq, Repr

/-- Integer comparison conditions (R121). -/
inductive ICond where
  | eq | ne | lt | le | gt | ge | tst
  deriving DecidableEq, Repr

/-- Floating and vector comparison conditions (R129, R218). -/
inductive FCond where
  | eq | ne | lt | le | gt | ge | un
  deriving DecidableEq, Repr

/-- Access size (R74). -/
inductive Sz where
  | b8 | b16 | b32 | b64
  deriving DecidableEq, Repr

/-- Scope (R74). -/
inductive Scope where
  | q | d | v | s
  deriving DecidableEq, Repr

/-- Cache policy (R179). -/
inductive Pol where
  | dflt | na | strm | keep
  deriving DecidableEq, Repr

/-- A memory operand with its view override `vw`: base + displacement in the 64-bit or the 96-bit form,
base + scaled index, or absolute (R67, R68). -/
inductive Addr where
  | base8 (ra : Reg) (disp : BitVec 8) (vw : BitVec 8)
  | base40 (ra : Reg) (disp : BitVec 40) (vw : BitVec 8)
  | index (ra rb : Reg) (scl : BitVec 3) (vw : BitVec 8)
  | abs (a : Word) (vw : BitVec 8)
  deriving DecidableEq, Repr

/-- The operation of ATOM and RED, by the minor of R83 and R187. -/
inductive AtomOp where
  | add | and | or | xor | minS | maxS | minN | maxN | swap | addF
  deriving DecidableEq, Repr

/-- A two-source integer instruction (R115). -/
structure IntBin where
  ty : ITy
  rd : Reg
  ra : Reg
  b : Src
  sf : Bool
  deriving DecidableEq, Repr

/-- A one-source integer instruction (R118). -/
structure IntUn where
  ty : ITy
  rd : Reg
  ra : Reg
  deriving DecidableEq, Repr

/-- A two-source scalar floating instruction (R127). -/
structure FltBin where
  ty : Fmt
  rd : Reg
  ra : Reg
  rb : Reg
  deriving DecidableEq, Repr

/-- The FMT payload of R73, reserved bit left out. -/
structure FmtPay where
  rmo : BitVec 3
  sf : Bool
  psc : Bool
  fb : BitVec 5
  fa : BitVec 5
  deriving DecidableEq, Repr

/-- The view value of VSET: a register or an immediate (R125). -/
inductive VwSrc where
  | reg (r : Reg)
  | imm (v : BitVec 8)
  deriving DecidableEq, Repr

/-- A vector operand: a tile or a scalar register (R200). -/
inductive TSrc where
  | tile (t : Handle)
  | reg (r : Reg)
  deriving DecidableEq, Repr

/-- The B and C operands of VFMA: at most one is the scalar register (R200, R201). -/
inductive FmaSrc where
  | tt (tb tc : Handle)
  | rt (rx : Reg) (tc : Handle)
  | tr (tb : Handle) (rx : Reg)
  deriving DecidableEq, Repr

/-- A two-source vector instruction (R200). -/
structure VecBin where
  td : Handle
  ta : Handle
  b : TSrc
  sf : Bool
  deriving DecidableEq, Repr

/-- A one-source vector instruction; `sf` is 0 where the row shows no SF (R200, R201). -/
structure VecUn where
  td : Handle
  ta : Handle
  sf : Bool
  deriving DecidableEq, Repr

/-- The operation of VRED and VSCAN (R222). -/
inductive RedOp where
  | add | min | max | and | or | xor
  deriving DecidableEq, Repr

/-- VRED and VSCAN operands. -/
structure VecRed where
  op : RedOp
  td : Handle
  ta : Handle
  axis : BitVec 3
  sf : Bool
  deriving DecidableEq, Repr

/-- The element index of VEXT and VINS: 9 bits in the 64-bit form, 32 in the 96-bit form (R200). -/
inductive VIdx where
  | short (i : BitVec 9)
  | long (i : BitVec 32)
  deriving DecidableEq, Repr

/-- The amount of VSHIFT: 5 bits or 32 bits, two's complement (R200). -/
inductive VAmt where
  | short (i : BitVec 5)
  | long (i : BitVec 32)
  deriving DecidableEq, Repr

/-- The field that DKSET writes (R209). -/
inductive DkField where
  | base | ext0 | ext1 | ext2 | ext3 | ext4 | str0 | str1 | str2 | str3 | str4 | ctl | part
  deriving DecidableEq, Repr

/-- The source of DKSET: a register or a 32-bit immediate (R209). -/
inductive DkSrc where
  | reg (r : Reg)
  | imm (i : BitVec 32)
  deriving DecidableEq, Repr

/-- The B operand of MMA and MMAS: a vat tile or a memory-streamed deckle (R231, R238). -/
inductive MatB where
  | tile (t : Handle)
  | dk (d : Handle)
  deriving DecidableEq, Repr

/-- The kept count of MMAS: 4, 8 or 16 of 32 (R109, R231). -/
inductive Keep where
  | k4 | k8 | k16
  deriving DecidableEq, Repr

end Sys2Proof
end

