-- ==== Sys2Proof/Syntax.lean ====
section
/-! DEFINITION. The steps of the machine: one constructor per row of spec/opcode_table.json, in the table's
order. The first 139 are the instructions, each with its guard (R64); the others are the machine's own
events (spec/95_what_each_step_holds.md), which no encoding names. -/
namespace Sys2Proof

/-- An instruction or an event of the Volzan V4. Positions `pos` are POS[13:0] (R8); `core` is a core number
0 to 1,023 of the device, `q` a quire, `die` a die, `n` a partition, `fn` a PCIe function. -/
inductive Instr where
  -- control (R132 to R137), fetch and counters (R139 to R142), FMT (R79)
  | nop (g : Guard)
  | br (g : Guard) (off : BitVec 34)
  | brTile (g : Guard) (t : Handle) (cv : BitVec 3) (cn : Bool) (off : BitVec 34)
  | brChan (g : Guard) (ch : BitVec 3) (cv : BitVec 3) (cn : Bool) (off : BitVec 34)
  | jmp (g : Guard) (n : Reg)
  | call (g : Guard) (off : BitVec 34)
  | callReg (g : Guard) (n : Reg)
  | ret (g : Guard)
  | align (g : Guard) (limit : BitVec 20)
  | gchunk (g : Guard) (pd : Pred) (rd : Reg) (n : BitVec 2)
  | gchunkInit (g : Guard) (n : BitVec 2) (ra rb rc : Reg)
  | fmt (p : FmtPay)
  -- integer (R115 to R122)
  | add (g : Guard) (o : IntBin)
  | sub (g : Guard) (o : IntBin)
  | mul (g : Guard) (o : IntBin)
  | mulh (g : Guard) (o : IntBin)
  | div (g : Guard) (o : IntBin)
  | rem (g : Guard) (o : IntBin)
  | and (g : Guard) (o : IntBin)
  | or (g : Guard) (o : IntBin)
  | xor (g : Guard) (o : IntBin)
  | andn (g : Guard) (o : IntBin)
  | shl (g : Guard) (o : IntBin)
  | shr (g : Guard) (o : IntBin)
  | sha (g : Guard) (o : IntBin)
  | rot (g : Guard) (o : IntBin)
  | min (g : Guard) (o : IntBin)
  | max (g : Guard) (o : IntBin)
  | clz (g : Guard) (o : IntUn)
  | ctz (g : Guard) (o : IntUn)
  | popc (g : Guard) (o : IntUn)
  | bfx (g : Guard) (ty : BfxTy) (rd ra : Reg) (pos : BitVec 6) (len : BitVec 7)
  | bfi (g : Guard) (rd ra : Reg) (pos : BitVec 6) (len : BitVec 7)
  | sext (g : Guard) (ty : ExtTy) (rd ra : Reg)
  | zext (g : Guard) (ty : ExtTy) (rd ra : Reg)
  | mov (g : Guard) (rd ra : Reg)
  | movi (g : Guard) (rd : Reg) (i : Imm)
  | cmp (g : Guard) (c : ICond) (ty : ITy) (pd : Pred) (ra : Reg) (b : Src)
  | sel (g : Guard) (rd : Reg) (pn : Pred) (ra rb : Reg)
  -- addresses and views (R123 to R126)
  | lea (g : Guard) (rd : Reg) (a : Addr)
  | vqual (g : Guard) (rd ra : Reg) (die : Bool)
  | vset (g : Guard) (rd ra : Reg) (v : VwSrc)
  | vget (g : Guard) (rd ra : Reg)
  | vclr (g : Guard) (rd ra : Reg)
  -- scalar floating point (R127 to R131)
  | fadd (g : Guard) (o : FltBin)
  | fsub (g : Guard) (o : FltBin)
  | fmul (g : Guard) (o : FltBin)
  | fma (g : Guard) (ty : Fmt) (rd ra rb rc : Reg)
  | fdiv (g : Guard) (o : FltBin)
  | fsqrt (g : Guard) (ty : Fmt) (rd ra : Reg)
  | fmin (g : Guard) (o : FltBin)
  | fmax (g : Guard) (o : FltBin)
  | fcmp (g : Guard) (c : FCond) (ty : Fmt) (pd : Pred) (ra rb : Reg)
  | fcvt (g : Guard) (dst src : Fmt) (sf : Bool) (rd ra : Reg)
  | fclass (g : Guard) (ty : Fmt) (rd ra : Reg)
  -- memory, atomics, leases and synchronisation (R174 to R199)
  | ld (g : Guard) (sz : Sz) (po : Pol) (rd : Reg) (a : Addr)
  | ldx (g : Guard) (sz : Sz) (po : Pol) (rd : Reg) (a : Addr)
  | st (g : Guard) (sz : Sz) (po : Pol) (rd : Reg) (a : Addr)
  | ldp (g : Guard) (po : Pol) (rd : Reg) (a : Addr)
  | stp (g : Guard) (po : Pol) (rd : Reg) (a : Addr)
  | pref (g : Guard) (po : Pol) (a : Addr)
  | waitline (g : Guard) (sz : Sz) (po : Pol) (rd : Reg) (pd : Pred) (rc : Reg) (a : Addr)
  | atom (g : Guard) (op : AtomOp) (sz : Sz) (sc : Scope) (po : Pol) (rd rc : Reg) (a : Addr)
  | cas (g : Guard) (sz : Sz) (sc : Scope) (po : Pol) (rd : Reg) (pd : Pred) (rc rb : Reg) (a : Addr)
  | cas2 (g : Guard) (sc : Scope) (po : Pol) (rd : Reg) (pd : Pred) (rc rb : Reg) (a : Addr)
  | red (g : Guard) (op : AtomOp) (sz : Sz) (sc : Scope) (po : Pol) (rc : Reg) (a : Addr)
  | lease (g : Guard) (pd : Pred) (n : BitVec 4) (a : Addr)
  | lend (g : Guard) (pd : Pred)
  | fence (g : Guard) (sc : Scope)
  | barArrive (g : Guard) (rd : Reg) (a : Addr)
  | barWait (g : Guard) (rd : Reg) (a : Addr)
  -- threads (R269 to R275)
  | spawn (g : Guard) (rd : Reg) (n : BitVec 4) (ra rb : Reg)
  | reap (g : Guard) (rd : Reg) (n : BitVec 4) (wait : Bool)
  | halt (g : Guard)
  | wfw (g : Guard) (rd : Reg)
  | migr (g : Guard) (rd ra : Reg) (quire : BitVec 7) (named : Bool)
  -- tiles and deckles (R202 to R209)
  | talloc (g : Guard) (ready : Bool) (td dk : Handle) (voff len : BitVec 16)
  | tallocProd (g : Guard) (td : Handle) (slot : BitVec 2) (rx : Reg)
  | tfree (g : Guard) (t : Handle)
  | tstate (g : Guard) (rx : Reg) (pd : Pred) (t : Handle)
  | twait (g : Guard) (t : Handle) (st : BitVec 3)
  | dkld (g : Guard) (dn : Handle) (ra : Reg) (disp : BitVec 32)
  | dkset (g : Guard) (dn : Handle) (f : DkField) (src : DkSrc)
  -- copy (R255 to R268)
  | copyIn (g : Guard) (td dk ch : Handle)
  | copyOut (g : Guard) (ts dk ch : Handle)
  | copyr (g : Guard) (ch : Handle) (ra : Reg) (quire : BitVec 7) (td ts : Handle)
  | copym (g : Guard) (ts dk ch : Handle)
  | wmark (g : Guard) (ch : Handle) (ra rb : Reg)
  | wmarkGet (g : Guard) (gd : Reg) (ch : Handle)
  | chwait (g : Guard) (ch : Handle)
  -- vector (R210 to R228)
  | vadd (g : Guard) (o : VecBin)
  | vsub (g : Guard) (o : VecBin)
  | vmul (g : Guard) (o : VecBin)
  | vfma (g : Guard) (td ta : Handle) (bc : FmaSrc)
  | vdiv (g : Guard) (o : VecBin)
  | vsqrt (g : Guard) (o : VecUn)
  | vrsqrt (g : Guard) (o : VecUn)
  | vexp2 (g : Guard) (o : VecUn)
  | vlog2 (g : Guard) (o : VecUn)
  | vmin (g : Guard) (o : VecBin)
  | vmax (g : Guard) (o : VecBin)
  | vabs (g : Guard) (o : VecUn)
  | vneg (g : Guard) (o : VecUn)
  | vcmp (g : Guard) (c : FCond) (td ta : Handle) (b : TSrc)
  | vsel (g : Guard) (td ta tb : Handle) (c : TSrc)
  | vcvt (g : Guard) (o : VecUn)
  | vquant (g : Guard) (o : VecUn)
  | vred (g : Guard) (o : VecRed)
  | vscan (g : Guard) (o : VecRed)
  | vtrans (g : Guard) (td ta : Handle) (axa axb : BitVec 3)
  | vperm (g : Guard) (td ta tb : Handle) (axis : BitVec 3)
  | vgath (g : Guard) (td ta : Handle) (rx : Reg) (scale : BitVec 3)
  | vscat (g : Guard) (ta tb : Handle) (rx : Reg) (scale : BitVec 3)
  | vbcast (g : Guard) (td : Handle) (a : TSrc)
  | vext (g : Guard) (rx : Reg) (ta : Handle) (i : VIdx)
  | vins (g : Guard) (td : Handle) (rx : Reg) (i : VIdx)
  | vshift (g : Guard) (td ta : Handle) (axis : BitVec 3) (amt : VAmt) (fill : Option Reg)
  -- matrix (R229 to R252)
  | mma (g : Guard) (acc : Bool) (ta : Handle) (b : MatB) (tsa tsw : Handle) (row0 col0 : BitVec 16)
  | mmas (g : Guard) (keep : Keep) (acc : Bool) (ta : Handle) (b : MatB) (tm : Handle) (row0 col0 : BitVec 16)
  | mmg (g : Guard) (mem : Bool) (acc : Bool) (ta tg : Handle) (row0 col0 : BitVec 16)
  | mzero (g : Guard) (acc : Bool)
  | mst (g : Guard) (s32 sf : Bool) (acc : Bool) (td : Handle) (row0 col0 : BitVec 16)
  | mwait (g : Guard)
  -- system (R276 to R283)
  | srd (g : Guard) (rd : Reg) (spec : BitVec 12)
  | swr (g : Guard) (spec : BitVec 12) (ra : Reg)
  | trap (g : Guard) (imm : BitVec 20)
  | eret (g : Guard) (ra : Reg)
  | eretSt (g : Guard) (ra rb : Reg)
  | eretAbort (g : Guard) (ra : Reg) (st : Option Reg)
  | tlbiAsid (g : Guard) (ra : Reg)
  | tlbiAddr (g : Guard) (ra rb : Reg)
  | tlbiRange (g : Guard) (ra rb : Reg) (n : BitVec 20)
  | tlbiKind (g : Guard) (ra : Reg) (k : BitVec 3)
  | tlbiAll (g : Guard)
  | cwb (g : Guard) (ra rb : Reg)
  | cinv (g : Guard) (ra rb : Reg)
  | flushtag (g : Guard) (quire : BitVec 7) (ra : Reg)
  | mread (g : Guard) (rd : Reg) (idx : BitVec 6)
  | idle (g : Guard) (n : BitVec 20)
  -- events of the cores, the ordering machine and the engines
  | fetchBlockDelivery (q : Nat)
  | waitRetest (pos : Nat)
  | granuleEventPerform (pos : Nat)
  | writeBack (c : CopyRef)
  | drop (c : CopyRef)
  | writeQueueDrain (q line : Nat)
  | orderPointTake (die : Nat) (r : CohReq)
  | notificationDelivery (die : Nat)
  | recallResponse (die line : Nat)
  | remoteWriteBack (die line : Nat)
  | hostPortSend
  | pcieCompletion (req : Nat) (status : BitVec 3)
  | leaseExpiry (pos : Nat)
  | waitlineReread (pos : Nat)
  | barWaitWake (pos : Nat)
  | alignRelease (q : Nat) (pc : BitVec 56)
  | idleExpiry (pos : Nat)
  | recordDelivery (n : Nat)
  | vectorOpComplete (core : Nat) (at_ : Option Nat)
  | engineElementEvent (q job : Nat) (wr : Bool) (at_ : Nat)
  | watermarkAdvance (q ch w : Nat)
  | publish (q job : Nat)
  | matrixOperandRead (core : Nat) (vat : Bool) (va : Word)
  | stepGrant (q : Nat)
  | tileStep (q : Nat)
  | mzeroEntryRun (core : Nat)
  | mstEntryRun (core : Nat) (at_ : Option Nat)
  | pageWalk (core asid : Nat) (va : BitVec 56)
  -- events of the fabric
  | slotStart
  | receipt (port : Nat) (bitmap : List Bool)
  | pairFailure (dst : BitVec 10)
  | relayForward (i : Nat)
  | bdata (a : Arrival)
  | bend (a : Arrival)
  | migrate (a : Arrival)
  | accept (a : Arrival)
  | refuse (a : Arrival)
  | racc (a : Arrival)
  | rreply (a : Arrival)
  | acks (a : Arrival)
  | spdm (a : Arrival)
  -- events of the front end and of scheduling
  | kick (fn q : Nat) (v : Word)
  | graphCommit (fn : Nat) (a : Word)
  | schedule (fn : Nat)
  | deschedule (fn : Nat)
  | teamPlace (n : Nat)
  | itemDispatch (tag : BitVec 16)
  | taskEnd (tag : BitVec 16)
  | quantumExpiry (tag : BitVec 16)
  | slotHandover (pos : Nat)
  | headHandover (core : Nat)
  | taskMove (tag : BitVec 16) (q : Nat)
  | flushtagAck (q : Nat) (tag : BitVec 16)
  | dieLinkFailure (d e : Nat)
  -- events of the host's registers
  | partitionCreate (n : Nat)
  | partitionDestroy (n : Nat)
  | assign (n q : Nat)
  | release (n q : Nat)
  | drainScrubComplete (n : Nat)
  | fqconsWrite (n : Nat) (v : BitVec 32)
  | fopResume (n : Nat)
  | fopResumeSt (n : Nat)
  | fopAbort (n : Nat)
  | rdcmaskWrite (n : Nat) (v : Word)
  | scopedwWrite (n : Nat) (v : BitVec 4)
  | queueRegisterWrite (fn q : Nat) (isLog : Bool) (v : Word)
  | granWrite (d g : Nat) (v : BitVec 16)
  | granuleZeroDone (d g : Nat)
  | idereqSet (v : Bool)
  | ideStreamSecure (fn : Nat)
  | pwrcapWrite (v : BitVec 7)
  | powerWindow (watts : BitVec 16) (tj : BitVec 10)
  | thermalCap (tj : BitVec 10)
  | thermalTrip (tj : BitVec 10)
  | stagecmdGo (len : BitVec 25) (sigOk : Bool)
  | coldReset
  | bringupComplete (hbmOk : Bool)
  | fabricOff (w : Writer)
  | fabricConfig (w : Writer)
  | fabricRun (w : Writer)
  | generationCommit (w : Writer) (g : Bool)
  | errClear (w : Writer)
  | rankMapWrite (w : Writer) (n k : Nat) (v : BitVec 16)
  | registerWrite (w : Writer) (r : RegName) (v : BitVec 128)
  | getMeasurementsCount (r : MeasReq)
  | getMeasurementsBoot (r : MeasReq) (param2 : Byte)
  | getMeasurementsSnapshot (r : MeasReq) (n : Nat)
  | keyExchange (pkey : BitVec 16) (dev : BitVec 10)
  | keyUpdate (pkey : BitVec 16) (dev : BitVec 10)
  | hostCxlMemAccess (a : HostAcc)
  | hostSnoop (pa : Nat) (data : List Byte)
  | patrolScrub (pa : Nat) (row : Nat) (err : MemErr)
  | discardedPacket (a : Arrival) (why : DiscardWhy)
  | relayReceive (a : Arrival)
  | barWaitRemoteReread (pos : Nat)
  | hotCapEnd (tj : BitVec 10)
  | accumulatorExchangeEnd (core : Nat)
  | getMeasurementsInvalid (r : MeasReq) (param2 : Byte)
  deriving DecidableEq, Repr

end Sys2Proof
end

