-- ==== Sys2Proof/WellFormed.lean ====
section
/-! DEFINITION. Which instruction terms are well formed: the selector values that R64, R67, R69, R73, R75,
R83, R114, R116, R175, R201 and R231 accept, and the ranges of the events' arguments. -/
namespace Sys2Proof

/-- R64: every guard but (!p0). -/
def Guard.wf (g : Guard) : Bool := !(g.gp == 0 && g.gs)

/-- R67: the view override holds 0x00, 0x40 to 0x43 or 0x80 to 0xFF. -/
def vwOk (v : BitVec 8) : Bool := v == 0 || (0x40 ≤ v.toNat && v.toNat ≤ 0x43) || 0x80 ≤ v.toNat

/-- R67: SCL is 0 to 5 and the view override is accepted. -/
def Addr.wf : Addr → Bool
  | .base8 _ _ vw => vwOk vw
  | .base40 _ _ vw => vwOk vw
  | .index _ _ scl vw => scl.toNat ≤ 5 && vwOk vw
  | .abs _ vw => vwOk vw

/-- R175: CAS and CAS2 do not accept XM = 0b01. -/
def Addr.noIndex : Addr → Bool
  | .index .. => false
  | _ => true

/-- R19: a 5-bit format code that is 0x00 or assigned. -/
def fmtCodeOk (c : BitVec 5) : Bool := c.toNat ≤ 0x0C || (0x10 ≤ c.toNat && c.toNat ≤ 0x18)

/-- R73, R75: RMO is 0 to 5, and FA and FB are no reserved codes. -/
def FmtPay.wf (p : FmtPay) : Bool := p.rmo.toNat ≤ 5 && fmtCodeOk p.fa && fmtCodeOk p.fb

/-- R175: minor 9 takes sizes .32 and .64 only. -/
def atomSzOk (op : AtomOp) (sz : Sz) : Bool :=
  match op with
  | .addF => sz == .b32 || sz == .b64
  | _ => true

/-- R201: an axis field is 0 to 4. -/
def axisOk (a : BitVec 3) : Bool := a.toNat ≤ 4

/-- Positions, cores, quires and dies of one device (R1, R8). -/
def posOk (p : Nat) : Bool := p < 16384
def coreOk (c : Nat) : Bool := c < 1024
def quireOk (q : Nat) : Bool := q < 128
def dieOk (d : Nat) : Bool := d < 4
def partOk (n : Nat) : Bool := n < 128
def fnOk (f : Nat) : Bool := f < 256

/-- The well-formed terms. -/
def Instr.wf : Instr → Bool
  | .nop g | .br g _ | .jmp g _ | .call g _ | .callReg g _ | .ret g | .align g _
  | .gchunk g _ _ _ | .gchunkInit g _ _ _ _ => g.wf
  | .brTile g _ cv _ _ => g.wf && cv.toNat ≤ 4
  | .brChan g _ cv _ _ => g.wf && cv.toNat ≤ 3
  | .fmt p => p.wf
  | .add g _ | .sub g _ | .mul g _ | .div g _ => g.wf
  | .mulh g o | .rem g o | .and g o | .or g o | .xor g o | .andn g o | .shl g o | .shr g o
  | .sha g o | .rot g o | .min g o | .max g o => g.wf && !o.sf
  | .clz g _ | .ctz g _ | .popc g _ | .bfx g _ _ _ _ _ | .bfi g _ _ _ _ | .sext g _ _ _ | .zext g _ _ _
  | .mov g _ _ | .movi g _ _ | .cmp g _ _ _ _ _ | .sel g _ _ _ _ => g.wf
  | .lea g _ a => g.wf && a.wf
  | .vqual g _ _ _ | .vset g _ _ _ | .vget g _ _ | .vclr g _ _ => g.wf
  | .fadd g _ | .fsub g _ | .fmul g _ | .fma g _ _ _ _ _ | .fdiv g _ | .fsqrt g _ _ _ | .fmin g _ | .fmax g _
  | .fcmp g _ _ _ _ _ | .fcvt g _ _ _ _ _ | .fclass g _ _ _ => g.wf
  | .ld g _ _ _ a | .ldx g _ _ _ a | .st g _ _ _ a | .ldp g _ _ a | .stp g _ _ a | .pref g _ a
  | .waitline g _ _ _ _ _ a => g.wf && a.wf
  | .atom g op sz _ _ _ _ a => g.wf && a.wf && atomSzOk op sz
  | .cas g _ _ _ _ _ _ _ a | .cas2 g _ _ _ _ _ _ a => g.wf && a.wf && a.noIndex
  | .red g op sz _ _ _ a => g.wf && a.wf && atomSzOk op sz && op != .swap
  | .lease g _ _ a => g.wf && a.wf
  | .lend g _ | .fence g _ => g.wf
  | .barArrive g _ a | .barWait g _ a => g.wf && a.wf
  | .spawn g _ _ _ _ | .reap g _ _ _ | .halt g | .wfw g _ | .migr g _ _ _ _ => g.wf
  | .talloc g _ _ _ _ _ | .tallocProd g _ _ _ | .tfree g _ | .tstate g _ _ _ => g.wf
  | .twait g _ s => g.wf && s.toNat ≤ 4
  | .dkld g _ _ _ | .dkset g _ _ _ => g.wf
  | .copyIn g _ _ _ | .copyOut g _ _ _ | .copyr g _ _ _ _ _ | .copym g _ _ _ | .wmark g _ _ _
  | .wmarkGet g _ _ | .chwait g _ => g.wf
  | .vadd g _ | .vsub g _ | .vmul g _ | .vfma g _ _ _ | .vdiv g _ | .vmin g _ | .vmax g _ => g.wf
  | .vsqrt g o | .vrsqrt g o | .vexp2 g o | .vlog2 g o => g.wf && !o.sf
  | .vabs g _ | .vneg g _ | .vcmp g _ _ _ _ | .vsel g _ _ _ _ | .vcvt g _ | .vquant g _ => g.wf
  | .vred g o | .vscan g o => g.wf && axisOk o.axis
  | .vtrans g _ _ a b => g.wf && axisOk a && axisOk b
  | .vperm g _ _ _ a => g.wf && axisOk a
  | .vgath g _ _ _ s | .vscat g _ _ _ s => g.wf && s.toNat ≤ 5
  | .vbcast g _ _ | .vext g _ _ _ | .vins g _ _ _ => g.wf
  | .vshift g _ _ a _ _ => g.wf && axisOk a
  | .mma g _ _ _ _ _ _ _ | .mmas g _ _ _ _ _ _ _ | .mmg g _ _ _ _ _ _ | .mzero g _
  | .mst g _ _ _ _ _ _ | .mwait g => g.wf
  | .srd g _ _ | .swr g _ _ | .trap g _ | .eret g _ | .eretSt g _ _ | .eretAbort g _ _ | .tlbiAsid g _
  | .tlbiAddr g _ _ | .tlbiRange g _ _ _ | .tlbiKind g _ _ | .tlbiAll g | .cwb g _ _ | .cinv g _ _
  | .flushtag g _ _ | .mread g _ _ | .idle g _ => g.wf
  | .fetchBlockDelivery q => quireOk q
  | .waitRetest p | .granuleEventPerform p | .leaseExpiry p | .waitlineReread p | .barWaitWake p
  | .idleExpiry p | .slotHandover p | .barWaitRemoteReread p => posOk p
  | .writeBack c | .drop c => if c.ofDie then dieOk c.unit else quireOk c.unit
  | .writeQueueDrain q _ | .alignRelease q _ => quireOk q
  | .orderPointTake d r => dieOk d && dieOk r.die && coreOk r.core
  | .notificationDelivery d | .recallResponse d _ | .remoteWriteBack d _ => dieOk d
  | .hostPortSend | .pcieCompletion _ _ => true
  | .recordDelivery n => partOk n
  | .vectorOpComplete c _ | .matrixOperandRead c _ _ | .mzeroEntryRun c | .mstEntryRun c _ | .headHandover c
  | .accumulatorExchangeEnd c => coreOk c
  | .engineElementEvent q _ _ _ | .publish q _ | .stepGrant q | .tileStep q | .flushtagAck q _
  | .taskMove _ q => quireOk q
  | .watermarkAdvance q ch _ => quireOk q && ch < 8
  | .pageWalk c a _ => coreOk c && a < 1024
  | .slotStart | .pairFailure _ | .relayForward _ | .bdata _ | .bend _ | .migrate _ | .accept _ | .refuse _
  | .racc _ | .rreply _ | .acks _ | .spdm _ | .discardedPacket _ _ | .relayReceive _ => true
  | .receipt p _ => p < 16
  | .kick f q _ => fnOk f && q < 16
  | .graphCommit f _ | .schedule f | .deschedule f | .ideStreamSecure f => fnOk f
  | .teamPlace n => partOk n
  | .itemDispatch _ | .taskEnd _ | .quantumExpiry _ => true
  | .dieLinkFailure d e => dieOk d && dieOk e && d != e
  | .partitionCreate n | .partitionDestroy n | .drainScrubComplete n | .fqconsWrite n _ | .fopResume n
  | .fopResumeSt n | .fopAbort n | .rdcmaskWrite n _ | .scopedwWrite n _ => partOk n
  | .assign n q | .release n q => partOk n && quireOk q
  | .queueRegisterWrite f q _ _ => fnOk f && q < 16
  | .granWrite d g _ | .granuleZeroDone d g => dieOk d && g < 178
  | .idereqSet _ | .pwrcapWrite _ | .powerWindow _ _ | .thermalCap _ | .thermalTrip _ | .hotCapEnd _
  | .stagecmdGo _ _ | .coldReset | .bringupComplete _ | .fabricOff _ | .fabricConfig _ | .fabricRun _
  | .generationCommit _ _ | .errClear _ | .registerWrite _ _ _ => true
  | .rankMapWrite _ n k _ => partOk n && k < 1024
  | .getMeasurementsCount _ | .getMeasurementsBoot _ _ | .getMeasurementsInvalid _ _ => true
  | .getMeasurementsSnapshot _ n => partOk n
  | .keyExchange _ _ | .keyUpdate _ _ | .hostCxlMemAccess _ | .hostSnoop _ _ | .patrolScrub _ _ _ => true

/-- Whether a term is an event of the machine (rows 139 to 236), which no encoding names. -/
def Instr.isEvent : Instr → Bool
  | .fetchBlockDelivery .. | .waitRetest .. | .granuleEventPerform .. | .writeBack .. | .drop ..
  | .writeQueueDrain .. | .orderPointTake .. | .notificationDelivery .. | .recallResponse ..
  | .remoteWriteBack .. | .hostPortSend | .pcieCompletion .. | .leaseExpiry .. | .waitlineReread ..
  | .barWaitWake .. | .alignRelease .. | .idleExpiry .. | .recordDelivery .. | .vectorOpComplete ..
  | .engineElementEvent .. | .watermarkAdvance .. | .publish .. | .matrixOperandRead .. | .stepGrant ..
  | .tileStep .. | .mzeroEntryRun .. | .mstEntryRun .. | .pageWalk .. | .slotStart | .receipt ..
  | .pairFailure .. | .relayForward .. | .bdata .. | .bend .. | .migrate .. | .accept .. | .refuse ..
  | .racc .. | .rreply .. | .acks .. | .spdm .. | .kick .. | .graphCommit .. | .schedule .. | .deschedule ..
  | .teamPlace .. | .itemDispatch .. | .taskEnd .. | .quantumExpiry .. | .slotHandover .. | .headHandover ..
  | .taskMove .. | .flushtagAck .. | .dieLinkFailure .. | .partitionCreate .. | .partitionDestroy ..
  | .assign .. | .release .. | .drainScrubComplete .. | .fqconsWrite .. | .fopResume .. | .fopResumeSt ..
  | .fopAbort .. | .rdcmaskWrite .. | .scopedwWrite .. | .queueRegisterWrite .. | .granWrite ..
  | .granuleZeroDone .. | .idereqSet .. | .ideStreamSecure .. | .pwrcapWrite .. | .powerWindow ..
  | .thermalCap .. | .thermalTrip .. | .stagecmdGo .. | .coldReset | .bringupComplete .. | .fabricOff ..
  | .fabricConfig .. | .fabricRun .. | .generationCommit .. | .errClear .. | .rankMapWrite .. | .registerWrite ..
  | .getMeasurementsCount .. | .getMeasurementsBoot .. | .getMeasurementsSnapshot .. | .keyExchange ..
  | .keyUpdate .. | .hostCxlMemAccess .. | .hostSnoop .. | .patrolScrub .. | .discardedPacket ..
  | .relayReceive .. | .barWaitRemoteReread .. | .hotCapEnd .. | .accumulatorExchangeEnd ..
  | .getMeasurementsInvalid .. => true
  | _ => false

end Sys2Proof
end

