-- ==== Sys2Proof/Decode.lean ====
section
/-! DEFINITION. Decoding and encoding of instructions: the header (R61), the formats A, I, M, B, T, X, S and P
(R65 to R73), the opcode map (R81 to R83) and the tables of R114, R174, R200, R231 and R253. Decoding is total
and rejects by name; the encoder is written from the same tables. -/
namespace Sys2Proof

/-! ### Bit fields -/

/-- Bits [lo + n − 1 : lo] of the number `w` (R4). -/
def bits (w lo n : Nat) : Nat := w / 2 ^ lo % 2 ^ n

/-- A number from its fields, the least significant field first, each given as (width, value). -/
def pack : List (Nat × Nat) → Nat
  | [] => 0
  | (n, v) :: r => v % 2 ^ n + 2 ^ n * pack r

/-- The number whose little-endian bytes are the list (R4). -/
def ofBytes : List Byte → Nat
  | [] => 0
  | b :: r => b.toNat + 256 * ofBytes r

/-- The `n` little-endian bytes of a number (R4). -/
def toBytes : Nat → Nat → List Byte
  | 0, _ => []
  | n + 1, w => BitVec.ofNat 8 w :: toBytes n (w / 256)

/-! ### Field codes (R74) -/

def Fmt.code : Fmt → Nat
  | .f64 => 0x01 | .f32 => 0x02 | .bf16 => 0x03 | .f16 => 0x04 | .e4m3 => 0x05 | .e5m2 => 0x06 | .e3m2 => 0x07
  | .e2m3 => 0x08 | .e2m1 => 0x09 | .bs8 => 0x0A | .bs4 => 0x0B | .e8m0 => 0x0C | .s8 => 0x10 | .s16 => 0x11
  | .s32 => 0x12 | .s64 => 0x13 | .n8 => 0x14 | .n16 => 0x15 | .n32 => 0x16 | .n64 => 0x17 | .s4 => 0x18

def fmtOf : Nat → Option Fmt
  | 0x01 => some .f64 | 0x02 => some .f32 | 0x03 => some .bf16 | 0x04 => some .f16 | 0x05 => some .e4m3
  | 0x06 => some .e5m2 | 0x07 => some .e3m2 | 0x08 => some .e2m3 | 0x09 => some .e2m1 | 0x0A => some .bs8
  | 0x0B => some .bs4 | 0x0C => some .e8m0 | 0x10 => some .s8 | 0x11 => some .s16 | 0x12 => some .s32
  | 0x13 => some .s64 | 0x14 => some .n8 | 0x15 => some .n16 | 0x16 => some .n32 | 0x17 => some .n64
  | 0x18 => some .s4 | _ => none

def ITy.code : ITy → Nat
  | .dflt => 0 | .s8 => 0x10 | .s16 => 0x11 | .s32 => 0x12 | .s64 => 0x13
  | .n8 => 0x14 | .n16 => 0x15 | .n32 => 0x16 | .n64 => 0x17

def ityOf : Nat → Option ITy
  | 0 => some .dflt | 0x10 => some .s8 | 0x11 => some .s16 | 0x12 => some .s32 | 0x13 => some .s64
  | 0x14 => some .n8 | 0x15 => some .n16 | 0x16 => some .n32 | 0x17 => some .n64 | _ => none

def BfxTy.code : BfxTy → Nat
  | .dflt => 0 | .s64 => 0x13 | .n64 => 0x17

def bfxTyOf : Nat → Option BfxTy
  | 0 => some .dflt | 0x13 => some .s64 | 0x17 => some .n64 | _ => none

def ExtTy.code : ExtTy → Nat
  | .s8 => 0x10 | .s16 => 0x11 | .s32 => 0x12 | .n8 => 0x14 | .n16 => 0x15 | .n32 => 0x16

def extTyOf : Nat → Option ExtTy
  | 0x10 => some .s8 | 0x11 => some .s16 | 0x12 => some .s32 | 0x14 => some .n8 | 0x15 => some .n16
  | 0x16 => some .n32 | _ => none

def ICond.code : ICond → Nat
  | .eq => 0 | .ne => 1 | .lt => 2 | .le => 3 | .gt => 4 | .ge => 5 | .tst => 6

def icondOf : Nat → Option ICond
  | 0 => some .eq | 1 => some .ne | 2 => some .lt | 3 => some .le | 4 => some .gt | 5 => some .ge
  | 6 => some .tst | _ => none

def FCond.code : FCond → Nat
  | .eq => 0 | .ne => 1 | .lt => 2 | .le => 3 | .gt => 4 | .ge => 5 | .un => 6

def fcondOf : Nat → Option FCond
  | 0 => some .eq | 1 => some .ne | 2 => some .lt | 3 => some .le | 4 => some .gt | 5 => some .ge
  | 6 => some .un | _ => none

def Sz.code : Sz → Nat
  | .b8 => 0 | .b16 => 1 | .b32 => 2 | .b64 => 3

def szOf : Nat → Sz
  | 0 => .b8 | 1 => .b16 | 2 => .b32 | _ => .b64

def Scope.code : Scope → Nat
  | .q => 0 | .d => 1 | .v => 2 | .s => 3

def scopeOf : Nat → Scope
  | 0 => .q | 1 => .d | 2 => .v | _ => .s

def Pol.code : Pol → Nat
  | .dflt => 0 | .na => 1 | .strm => 2 | .keep => 3

def polOf : Nat → Pol
  | 0 => .dflt | 1 => .na | 2 => .strm | _ => .keep

def AtomOp.code : AtomOp → Nat
  | .add => 0 | .and => 1 | .or => 2 | .xor => 3 | .minS => 4 | .maxS => 5 | .minN => 6 | .maxN => 7
  | .swap => 8 | .addF => 9

def atomOpOf : Nat → Option AtomOp
  | 0 => some .add | 1 => some .and | 2 => some .or | 3 => some .xor | 4 => some .minS | 5 => some .maxS
  | 6 => some .minN | 7 => some .maxN | 8 => some .swap | 9 => some .addF | _ => none

def RedOp.code : RedOp → Nat
  | .add => 0 | .min => 1 | .max => 2 | .and => 3 | .or => 4 | .xor => 5

def redOpOf : Nat → Option RedOp
  | 0 => some .add | 1 => some .min | 2 => some .max | 3 => some .and | 4 => some .or | 5 => some .xor
  | _ => none

def DkField.code : DkField → Nat
  | .base => 0 | .ext0 => 1 | .ext1 => 2 | .ext2 => 3 | .ext3 => 4 | .ext4 => 5 | .str0 => 6 | .str1 => 7
  | .str2 => 8 | .str3 => 9 | .str4 => 10 | .ctl => 11 | .part => 12

def dkFieldOf : Nat → Option DkField
  | 0 => some .base | 1 => some .ext0 | 2 => some .ext1 | 3 => some .ext2 | 4 => some .ext3 | 5 => some .ext4
  | 6 => some .str0 | 7 => some .str1 | 8 => some .str2 | 9 => some .str3 | 10 => some .str4 | 11 => some .ctl
  | 12 => some .part | _ => none

def Keep.code : Keep → Nat
  | .k4 => 1 | .k8 => 2 | .k16 => 3

def keepOf : Nat → Option Keep
  | 1 => some .k4 | 2 => some .k8 | 3 => some .k16 | _ => none

/-- The one-bit field of a flag. -/
def bit1 (b : Bool) : Nat := if b then 1 else 0

/-! ### Encoding: the formats -/

/-- An encoding: its length in bits (64, 96 or 128) and its bits as a number (R61). -/
abbrev Enc := Nat × Nat

/-- The header of R61. -/
def hdr (l maj min : Nat) (g : Guard) : List (Nat × Nat) :=
  [(2, l), (8, maj), (4, min), (3, g.gp.toNat), (1, bit1 g.gs)]

/-- Format A (R65), AUX already packed. -/
def encA (maj min : Nat) (g : Guard) (rd ra ty pd sf rb rc aux : Nat) : Enc :=
  (64, pack (hdr 0 maj min g ++ [(4, rd), (4, ra), (5, ty), (3, pd), (1, sf), (1, 0), (4, rb), (4, rc), (20, aux)]))

/-- Format I (R66). -/
def encI (maj : Nat) (g : Guard) (rd ra ty pd sf : Nat) : Imm → Enc
  | .i28 v => (64, pack (hdr 0 maj 0 g ++
      [(4, rd), (4, ra), (5, ty), (3, pd), (1, sf), (1, 1), (28, v.toNat)]))
  | .i60 v => (96, pack (hdr 1 maj 0 g ++
      [(4, rd), (4, ra), (5, ty), (3, pd), (1, sf), (1, 1), (60, v.toNat)]))
  | .i64 v => (128, pack (hdr 2 maj 0 g ++
      [(4, rd), (4, ra), (5, ty), (3, pd), (1, sf), (1, 1), (28, 0), (64, v.toNat)]))

/-- Format A or I by the source (R66). -/
def encAI (maj : Nat) (g : Guard) (rd ra ty pd sf : Nat) : Src → Enc
  | .reg rb => encA maj 0 g rd ra ty pd sf rb.toNat 0 0
  | .imm i => encI maj g rd ra ty pd sf i

/-- Format M (R67). -/
def encM (maj min : Nat) (g : Guard) (rd rb rc sz sc po pd : Nat) : Addr → Enc
  | .base8 ra d vw => (64, pack (hdr 0 maj min g ++ [(4, rd), (4, ra.toNat), (4, rb), (4, rc), (2, sz), (2, sc),
      (2, po), (2, 0), (3, 0), (3, pd), (8, vw.toNat), (8, d.toNat)]))
  | .base40 ra d vw => (96, pack (hdr 1 maj min g ++ [(4, rd), (4, ra.toNat), (4, rb), (4, rc), (2, sz), (2, sc),
      (2, po), (2, 0), (3, 0), (3, pd), (8, vw.toNat), (40, d.toNat)]))
  | .index ra ri scl vw => (64, pack (hdr 0 maj min g ++ [(4, rd), (4, ra.toNat), (4, ri.toNat), (4, rc), (2, sz),
      (2, sc), (2, po), (2, 1), (3, scl.toNat), (3, pd), (8, vw.toNat), (8, 0)]))
  | .abs a vw => (128, pack (hdr 2 maj min g ++ [(4, rd), (4, 0), (4, rb), (4, rc), (2, sz), (2, sc),
      (2, po), (2, 2), (3, 0), (3, pd), (8, vw.toNat), (8, 0), (64, a.toNat)]))

/-- Format B (R69). -/
def encB (maj min : Nat) (g : Guard) (sel cv cn off : Nat) : Enc :=
  (64, pack (hdr 0 maj min g ++ [(8, sel), (3, cv), (1, cn), (34, off)]))

/-- Format T (R70), 64 bits. -/
def encT (maj : Nat) (g : Guard) (td ta tb tc rx sf aux : Nat) : Enc :=
  (64, pack (hdr 0 maj 0 g ++ [(8, td), (8, ta), (8, tb), (8, tc), (4, rx), (1, sf), (9, aux)]))

/-- Format T (R70), 96 bits. -/
def encT96 (maj : Nat) (g : Guard) (td ta tb tc rx sf aux imm : Nat) : Enc :=
  (96, pack (hdr 1 maj 0 g ++ [(8, td), (8, ta), (8, tb), (8, tc), (4, rx), (1, sf), (9, aux), (32, imm)]))

/-- Format X (R71), 96 bits. -/
def encX (maj min : Nat) (g : Guard) (ra rb ha hb hc hd ac sb aux imm : Nat) : Enc :=
  (96, pack (hdr 1 maj min g ++ [(4, ra), (4, rb), (8, ha), (8, hb), (8, hc), (8, hd), (1, ac), (1, sb), (4, aux),
    (32, imm)]))

/-- Format S (R72). -/
def encS (maj min : Nat) (g : Guard) (rd ra rb spec sc imm : Nat) : Enc :=
  (64, pack (hdr 0 maj min g ++ [(4, rd), (4, ra), (4, rb), (12, spec), (2, sc), (20, imm)]))

/-- Format P (R73). -/
def encP (p : FmtPay) : Enc :=
  (64, pack [(2, 0), (8, 8), (4, 0), (3, 0), (1, 0), (5, p.fa.toNat), (5, p.fb.toNat), (1, bit1 p.psc), (1, 0),
    (1, bit1 p.sf), (3, p.rmo.toNat), (30, 0)])

/-- A two-source integer entry. -/
def encIntBin (maj : Nat) (g : Guard) (o : IntBin) : Enc :=
  encAI maj g o.rd.toNat o.ra.toNat o.ty.code 0 (bit1 o.sf) o.b

/-- A one-source integer entry. -/
def encIntUn (maj : Nat) (g : Guard) (o : IntUn) : Enc := encA maj 0 g o.rd.toNat o.ra.toNat o.ty.code 0 0 0 0 0

/-- A scalar floating entry with up to three sources. -/
def encFlt (maj : Nat) (g : Guard) (ty : Fmt) (rd ra rb rc : Nat) : Enc := encA maj 0 g rd ra ty.code 0 0 rb rc 0

/-- A vector entry with a tile or scalar B (R200). -/
def encVecB (maj : Nat) (g : Guard) (td ta : Handle) (b : TSrc) (sf : Bool) (aux : Nat) : Enc :=
  match b with
  | .tile t => encT maj g td.toNat ta.toNat t.toNat 0 0 (bit1 sf) (2 * aux)
  | .reg r => encT maj g td.toNat ta.toNat 0 0 r.toNat (bit1 sf) (2 * aux + 1)

/-- A one-source vector entry. -/
def encVecUn (maj : Nat) (g : Guard) (o : VecUn) : Enc := encT maj g o.td.toNat o.ta.toNat 0 0 0 (bit1 o.sf) 0

/-- The encoding of an instruction; the events have none. -/
def encode : Instr → Option Enc
  | .nop g => some (encA 0x01 0 g 0 0 0 0 0 0 0 0)
  | .br g off => some (encB 0x02 0 g 0 0 0 off.toNat)
  | .brTile g t cv cn off => some (encB 0x02 1 g t.toNat cv.toNat (bit1 cn) off.toNat)
  | .brChan g ch cv cn off => some (encB 0x02 2 g ch.toNat cv.toNat (bit1 cn) off.toNat)
  | .jmp g n => some (encB 0x03 0 g n.toNat 0 0 0)
  | .call g off => some (encB 0x04 0 g 0 0 0 off.toNat)
  | .callReg g n => some (encB 0x04 1 g n.toNat 0 0 0)
  | .ret g => some (encB 0x05 0 g 0 0 0 0)
  | .align g n => some (encS 0x06 0 g 0 0 0 0 0 n.toNat)
  | .gchunk g pd rd n => some (encA 0x07 0 g rd.toNat 0 0 pd.toNat 0 0 0 n.toNat)
  | .gchunkInit g n ra rb rc => some (encA 0x07 0 g 0 ra.toNat 0 0 0 rb.toNat rc.toNat (n.toNat + 4))
  | .fmt p => some (encP p)
  | .add g o => some (encIntBin 0x10 g o)
  | .sub g o => some (encIntBin 0x11 g o)
  | .mul g o => some (encIntBin 0x12 g o)
  | .mulh g o => some (encIntBin 0x13 g o)
  | .div g o => some (encIntBin 0x14 g o)
  | .rem g o => some (encIntBin 0x15 g o)
  | .and g o => some (encIntBin 0x16 g o)
  | .or g o => some (encIntBin 0x17 g o)
  | .xor g o => some (encIntBin 0x18 g o)
  | .andn g o => some (encIntBin 0x19 g o)
  | .shl g o => some (encIntBin 0x1A g o)
  | .shr g o => some (encIntBin 0x1B g o)
  | .sha g o => some (encIntBin 0x1C g o)
  | .rot g o => some (encIntBin 0x1D g o)
  | .min g o => some (encIntBin 0x1E g o)
  | .max g o => some (encIntBin 0x1F g o)
  | .clz g o => some (encIntUn 0x20 g o)
  | .ctz g o => some (encIntUn 0x21 g o)
  | .popc g o => some (encIntUn 0x22 g o)
  | .bfx g ty rd ra p l => some (encA 0x23 0 g rd.toNat ra.toNat ty.code 0 0 0 0 (pack [(6, p.toNat), (7, l.toNat)]))
  | .bfi g rd ra p l => some (encA 0x24 0 g rd.toNat ra.toNat 0 0 0 0 0 (pack [(6, p.toNat), (7, l.toNat)]))
  | .sext g ty rd ra => some (encA 0x25 0 g rd.toNat ra.toNat ty.code 0 0 0 0 0)
  | .zext g ty rd ra => some (encA 0x26 0 g rd.toNat ra.toNat ty.code 0 0 0 0 0)
  | .mov g rd ra => some (encA 0x27 0 g rd.toNat ra.toNat 0 0 0 0 0 0)
  | .movi g rd i => some (encI 0x28 g rd.toNat 0 0 0 0 i)
  | .cmp g c ty pd ra b => some (encAI 0x29 g c.code ra.toNat ty.code pd.toNat 0 b)
  | .sel g rd pn ra rb => some (encA 0x2A 0 g rd.toNat ra.toNat 0 pn.toNat 0 rb.toNat 0 0)
  | .lea g rd a => some (encM 0x2B 0 g rd.toNat 0 0 0 0 0 0 a)
  | .vqual g rd ra die => some (encA 0x2C 0 g rd.toNat ra.toNat 0 0 0 0 0 (bit1 die))
  | .vset g rd ra (.reg rb) => some (encA 0x2D 0 g rd.toNat ra.toNat 0 0 0 rb.toNat 0 0)
  | .vset g rd ra (.imm v) => some (encA 0x2D 0 g rd.toNat ra.toNat 0 0 0 0 0 (v.toNat + 256))
  | .vget g rd ra => some (encA 0x2E 0 g rd.toNat ra.toNat 0 0 0 0 0 0)
  | .vclr g rd ra => some (encA 0x2F 0 g rd.toNat ra.toNat 0 0 0 0 0 0)
  | .fadd g o => some (encFlt 0x30 g o.ty o.rd.toNat o.ra.toNat o.rb.toNat 0)
  | .fsub g o => some (encFlt 0x31 g o.ty o.rd.toNat o.ra.toNat o.rb.toNat 0)
  | .fmul g o => some (encFlt 0x32 g o.ty o.rd.toNat o.ra.toNat o.rb.toNat 0)
  | .fma g ty rd ra rb rc => some (encFlt 0x33 g ty rd.toNat ra.toNat rb.toNat rc.toNat)
  | .fdiv g o => some (encFlt 0x34 g o.ty o.rd.toNat o.ra.toNat o.rb.toNat 0)
  | .fsqrt g ty rd ra => some (encFlt 0x35 g ty rd.toNat ra.toNat 0 0)
  | .fmin g o => some (encFlt 0x36 g o.ty o.rd.toNat o.ra.toNat o.rb.toNat 0)
  | .fmax g o => some (encFlt 0x37 g o.ty o.rd.toNat o.ra.toNat o.rb.toNat 0)
  | .fcmp g c ty pd ra rb => some (encA 0x38 0 g c.code ra.toNat ty.code pd.toNat 0 rb.toNat 0 0)
  | .fcvt g dst src sf rd ra => some (encA 0x39 0 g rd.toNat ra.toNat dst.code 0 (bit1 sf) 0 0 src.code)
  | .fclass g ty rd ra => some (encFlt 0x3A g ty rd.toNat ra.toNat 0 0)
  | .ld g sz po rd a => some (encM 0x40 0 g rd.toNat 0 0 sz.code 0 po.code 0 a)
  | .ldx g sz po rd a => some (encM 0x41 0 g rd.toNat 0 0 sz.code 0 po.code 0 a)
  | .st g sz po rd a => some (encM 0x42 0 g rd.toNat 0 0 sz.code 0 po.code 0 a)
  | .ldp g po rd a => some (encM 0x43 0 g rd.toNat 0 0 0 0 po.code 0 a)
  | .stp g po rd a => some (encM 0x44 0 g rd.toNat 0 0 0 0 po.code 0 a)
  | .pref g po a => some (encM 0x45 0 g 0 0 0 0 0 po.code 0 a)
  | .waitline g sz po rd pd rc a => some (encM 0x46 0 g rd.toNat 0 rc.toNat sz.code 0 po.code pd.toNat a)
  | .atom g op sz sc po rd rc a => some (encM 0x47 op.code g rd.toNat 0 rc.toNat sz.code sc.code po.code 0 a)
  | .cas g sz sc po rd pd rc rb a =>
    some (encM 0x48 0 g rd.toNat rb.toNat rc.toNat sz.code sc.code po.code pd.toNat a)
  | .cas2 g sc po rd pd rc rb a => some (encM 0x49 0 g rd.toNat rb.toNat rc.toNat 0 sc.code po.code pd.toNat a)
  | .red g op sz sc po rc a => some (encM 0x4A op.code g 0 0 rc.toNat sz.code sc.code po.code 0 a)
  | .lease g pd n a => some (encM 0x4B 0 g 0 0 n.toNat 0 0 0 pd.toNat a)
  | .lend g pd => some (encM 0x4C 0 g 0 0 0 0 0 0 pd.toNat (.base8 0 0 0))
  | .fence g sc => some (encS 0x4D 0 g 0 0 0 0 sc.code 0)
  | .barArrive g rd a => some (encM 0x4E 0 g rd.toNat 0 0 0 0 0 0 a)
  | .barWait g rd a => some (encM 0x4E 1 g rd.toNat 0 0 0 0 0 0 a)
  | .spawn g rd n ra rb => some (encS 0x50 0 g rd.toNat ra.toNat rb.toNat 0 0 n.toNat)
  | .reap g rd n w => some (encS 0x51 0 g rd.toNat 0 0 0 0 (n.toNat + 16 * bit1 w))
  | .halt g => some (encS 0x52 0 g 0 0 0 0 0 0)
  | .wfw g rd => some (encS 0x53 0 g rd.toNat 0 0 0 0 0)
  | .migr g rd ra q n => some (encS 0x54 0 g rd.toNat ra.toNat 0 0 0 (q.toNat + 128 * bit1 n))
  | .talloc g r td dk voff len =>
    some (encT96 0x55 g td.toNat dk.toNat 0 0 0 0 (bit1 r) (voff.toNat + 65536 * len.toNat))
  | .tallocProd g td slot rx => some (encT 0x55 g td.toNat 0 0 0 rx.toNat 0 (2 + 4 * slot.toNat))
  | .tfree g t => some (encT 0x56 g t.toNat 0 0 0 0 0 0)
  | .tstate g rx pd t => some (encT 0x57 g 0 t.toNat 0 0 rx.toNat 0 pd.toNat)
  | .twait g t s => some (encT 0x58 g 0 t.toNat 0 0 0 0 s.toNat)
  | .dkld g n ra d => some (encX 0x59 0 g ra.toNat 0 n.toNat 0 0 0 0 0 0 d.toNat)
  | .dkset g n f (.reg rx) => some (encT 0x5A g n.toNat 0 0 0 rx.toNat 0 f.code)
  | .dkset g n f (.imm i) => some (encT96 0x5A g n.toNat 0 0 0 0 0 (f.code + 16) i.toNat)
  | .copyIn g td dk ch => some (encX 0x5B 0 g 0 0 td.toNat dk.toNat 0 ch.toNat 0 0 0 0)
  | .copyOut g ts dk ch => some (encX 0x5B 1 g 0 0 ts.toNat dk.toNat 0 ch.toNat 0 0 0 0)
  | .copyr g ch ra q td ts => some (encX 0x5C 0 g ra.toNat 0 td.toNat ts.toNat 0 ch.toNat 0 0 0 q.toNat)
  | .copym g ts dk ch => some (encX 0x5D 0 g 0 0 ts.toNat dk.toNat 0 ch.toNat 0 0 0 0)
  | .wmark g ch ra rb => some (encX 0x5E 0 g ra.toNat rb.toNat 0 0 0 ch.toNat 0 0 0 0)
  | .wmarkGet g gd ch => some (encX 0x5E 0 g gd.toNat 0 0 0 0 ch.toNat 0 0 1 0)
  | .chwait g ch => some (encX 0x5F 0 g 0 0 0 0 0 ch.toNat 0 0 0 0)
  | .vadd g o => some (encVecB 0x60 g o.td o.ta o.b o.sf 0)
  | .vsub g o => some (encVecB 0x61 g o.td o.ta o.b o.sf 0)
  | .vmul g o => some (encVecB 0x62 g o.td o.ta o.b o.sf 0)
  | .vfma g td ta (.tt tb tc) => some (encT 0x63 g td.toNat ta.toNat tb.toNat tc.toNat 0 0 0)
  | .vfma g td ta (.rt rx tc) => some (encT 0x63 g td.toNat ta.toNat 0 tc.toNat rx.toNat 0 1)
  | .vfma g td ta (.tr tb rx) => some (encT 0x63 g td.toNat ta.toNat tb.toNat 0 rx.toNat 0 2)
  | .vdiv g o => some (encVecB 0x64 g o.td o.ta o.b o.sf 0)
  | .vsqrt g o => some (encVecUn 0x65 g o)
  | .vrsqrt g o => some (encVecUn 0x66 g o)
  | .vexp2 g o => some (encVecUn 0x67 g o)
  | .vlog2 g o => some (encVecUn 0x68 g o)
  | .vmin g o => some (encVecB 0x69 g o.td o.ta o.b o.sf 0)
  | .vmax g o => some (encVecB 0x6A g o.td o.ta o.b o.sf 0)
  | .vabs g o => some (encVecUn 0x6B g o)
  | .vneg g o => some (encVecUn 0x6C g o)
  | .vcmp g c td ta b => some (encVecB 0x6D g td ta b false c.code)
  | .vsel g td ta tb (.tile tc) => some (encT 0x6E g td.toNat ta.toNat tb.toNat tc.toNat 0 0 0)
  | .vsel g td ta tb (.reg rx) => some (encT 0x6E g td.toNat ta.toNat tb.toNat 0 rx.toNat 0 2)
  | .vcvt g o => some (encVecUn 0x6F g o)
  | .vquant g o => some (encVecUn 0x70 g o)
  | .vred g o => some (encT 0x71 g o.td.toNat o.ta.toNat 0 0 0 (bit1 o.sf) (o.axis.toNat + 8 * o.op.code))
  | .vscan g o => some (encT 0x72 g o.td.toNat o.ta.toNat 0 0 0 (bit1 o.sf) (o.axis.toNat + 8 * o.op.code))
  | .vtrans g td ta a b => some (encT 0x73 g td.toNat ta.toNat 0 0 0 0 (a.toNat + 8 * b.toNat))
  | .vperm g td ta tb a => some (encT 0x74 g td.toNat ta.toNat tb.toNat 0 0 0 a.toNat)
  | .vgath g td ta rx s => some (encT 0x75 g td.toNat ta.toNat 0 0 rx.toNat 0 s.toNat)
  | .vscat g ta tb rx s => some (encT 0x76 g 0 ta.toNat tb.toNat 0 rx.toNat 0 s.toNat)
  | .vbcast g td (.tile ta) => some (encT 0x77 g td.toNat ta.toNat 0 0 0 0 0)
  | .vbcast g td (.reg rx) => some (encT 0x77 g td.toNat 0 0 0 rx.toNat 0 1)
  | .vext g rx ta (.short i) => some (encT 0x78 g 0 ta.toNat 0 0 rx.toNat 0 i.toNat)
  | .vext g rx ta (.long i) => some (encT96 0x78 g 0 ta.toNat 0 0 rx.toNat 0 0 i.toNat)
  | .vins g td rx (.short i) => some (encT 0x79 g td.toNat 0 0 0 rx.toNat 0 i.toNat)
  | .vins g td rx (.long i) => some (encT96 0x79 g td.toNat 0 0 0 rx.toNat 0 0 i.toNat)
  | .vshift g td ta a (.short s) none => some (encT 0x7A g td.toNat ta.toNat 0 0 0 0 (a.toNat + 16 * s.toNat))
  | .vshift g td ta a (.short s) (some rx) =>
    some (encT 0x7A g td.toNat ta.toNat 0 0 rx.toNat 0 (a.toNat + 8 + 16 * s.toNat))
  | .vshift g td ta a (.long s) none => some (encT96 0x7A g td.toNat ta.toNat 0 0 0 0 a.toNat s.toNat)
  | .vshift g td ta a (.long s) (some rx) =>
    some (encT96 0x7A g td.toNat ta.toNat 0 0 rx.toNat 0 (a.toNat + 8) s.toNat)
  | .mma g acc ta (.tile tb) sa sw r c =>
    some (encX 0x80 0 g 0 0 ta.toNat tb.toNat sa.toNat sw.toNat (bit1 acc) 0 0 (r.toNat + 65536 * c.toNat))
  | .mma g acc ta (.dk d) sa sw r c =>
    some (encX 0x80 0 g 0 0 ta.toNat d.toNat sa.toNat sw.toNat (bit1 acc) 1 0 (r.toNat + 65536 * c.toNat))
  | .mmas g k acc ta (.tile tb) tm r c =>
    some (encX 0x81 0 g 0 0 ta.toNat tb.toNat tm.toNat 0 (bit1 acc) 0 k.code (r.toNat + 65536 * c.toNat))
  | .mmas g k acc ta (.dk d) tm r c =>
    some (encX 0x81 0 g 0 0 ta.toNat d.toNat tm.toNat 0 (bit1 acc) 1 k.code (r.toNat + 65536 * c.toNat))
  | .mmg g mem acc ta tg r c =>
    some (encX 0x82 0 g 0 0 ta.toNat tg.toNat 0 0 (bit1 acc) (bit1 mem) 0 (r.toNat + 65536 * c.toNat))
  | .mzero g acc => some (encX 0x83 0 g 0 0 0 0 0 0 (bit1 acc) 0 0 0)
  | .mst g s32 sf acc td r c =>
    some (encX 0x84 0 g 0 0 td.toNat 0 0 0 (bit1 acc) 0 (bit1 sf + 2 * bit1 s32) (r.toNat + 65536 * c.toNat))
  | .mwait g => some (encX 0x85 0 g 0 0 0 0 0 0 0 0 0 0)
  | .srd g rd s => some (encS 0x90 0 g rd.toNat 0 0 s.toNat 0 0)
  | .swr g s ra => some (encS 0x91 0 g 0 ra.toNat 0 s.toNat 0 0)
  | .trap g i => some (encS 0x92 0 g 0 0 0 0 0 i.toNat)
  | .eret g ra => some (encS 0x93 0 g 0 ra.toNat 0 0 0 0)
  | .eretSt g ra rb => some (encS 0x93 0 g 0 ra.toNat rb.toNat 0 0 2)
  | .eretAbort g ra none => some (encS 0x93 0 g 0 ra.toNat 0 0 0 1)
  | .eretAbort g ra (some rb) => some (encS 0x93 0 g 0 ra.toNat rb.toNat 0 0 3)
  | .tlbiAsid g ra => some (encS 0x94 0 g 0 ra.toNat 0 0 0 0)
  | .tlbiAddr g ra rb => some (encS 0x94 1 g 0 ra.toNat rb.toNat 0 0 0)
  | .tlbiRange g ra rb n => some (encS 0x94 2 g 0 ra.toNat rb.toNat 0 0 n.toNat)
  | .tlbiKind g ra k => some (encS 0x94 3 g 0 ra.toNat 0 0 0 k.toNat)
  | .tlbiAll g => some (encS 0x94 4 g 0 0 0 0 0 0)
  | .cwb g ra rb => some (encS 0x95 0 g 0 ra.toNat rb.toNat 0 0 0)
  | .cinv g ra rb => some (encS 0x96 0 g 0 ra.toNat rb.toNat 0 0 0)
  | .flushtag g q ra => some (encS 0x97 0 g 0 ra.toNat 0 0 0 q.toNat)
  | .mread g rd i => some (encS 0x98 0 g rd.toNat 0 0 0 0 i.toNat)
  | .idle g n => some (encS 0x99 0 g 0 0 0 0 0 n.toNat)
  | .fetchBlockDelivery .. | .waitRetest .. | .granuleEventPerform .. | .writeBack .. | .drop ..
  | .writeQueueDrain .. | .orderPointTake .. | .notificationDelivery .. | .recallResponse ..
  | .remoteWriteBack .. | .hostPortSend | .pcieCompletion .. | .leaseExpiry .. | .waitlineReread ..
  | .barWaitWake .. | .alignRelease .. | .idleExpiry .. | .recordDelivery .. | .vectorOpComplete ..
  | .engineElementEvent .. | .watermarkAdvance .. | .publish .. | .matrixOperandRead .. | .stepGrant ..
  | .tileStep .. | .mzeroEntryRun .. | .mstEntryRun .. | .pageWalk .. | .slotStart | .receipt ..
  | .pairFailure .. | .relayForward .. | .bdata .. | .bend .. | .migrate .. | .accept .. | .refuse ..
  | .racc .. | .rreply .. | .acks .. | .spdm .. | .kick .. | .graphCommit .. | .schedule .. | .deschedule ..
  | .teamPlace .. | .itemDispatch .. | .taskEnd .. | .quantumExpiry .. | .slotHandover .. | .headHandover ..
  | .taskMove .. | .flushtagAck .. | .dieLinkFailure .. | .partitionCreate .. | .partitionDestroy ..
  | .assign .. | .release .. | .drainScrubComplete .. | .fqconsWrite .. | .fopResume .. | .fopResumeSt ..
  | .fopAbort .. | .rdcmaskWrite .. | .scopedwWrite .. | .queueRegisterWrite .. | .granWrite ..
  | .granuleZeroDone .. | .idereqSet .. | .ideStreamSecure .. | .pwrcapWrite .. | .powerWindow ..
  | .thermalCap .. | .thermalTrip .. | .stagecmdGo .. | .coldReset | .bringupComplete .. | .fabricOff ..
  | .fabricConfig .. | .fabricRun .. | .generationCommit .. | .errClear .. | .rankMapWrite .. | .registerWrite ..
  | .getMeasurementsCount .. | .getMeasurementsBoot .. | .getMeasurementsSnapshot .. | .keyExchange ..
  | .keyUpdate .. | .hostCxlMemAccess .. | .hostSnoop .. | .patrolScrub .. | .discardedPacket ..
  | .relayReceive .. | .barWaitRemoteReread .. | .hotCapEnd .. | .accumulatorExchangeEnd ..
  | .getMeasurementsInvalid .. => none

/-- The bytes of an instruction as memory holds them (R61). -/
def encodeBytes (i : Instr) : Option (List Byte) := (encode i).map fun e => toBytes (e.1 / 8) e.2

/-! ### Decoding -/

/-- Why bytes are no instruction: the skip code (R63), or one of the ILLEGAL causes of R76 steps 2 to 4. -/
inductive DecodeError where
  | skipCode | crossesBlock | reservedMajor | badLength | badMinor | badGuard | badField
  deriving DecidableEq, Repr

/-- An instruction if the checks of its fields pass (R75). -/
def accept (ok : Bool) (i : Instr) : Except DecodeError Instr := if ok then .ok i else .error .badField

/-- As `accept`, for a field that must hold an accepted selector value. -/
def acceptWith {α : Type} (o : Option α) (ok : α → Bool) (f : α → Instr) : Except DecodeError Instr :=
  match o with
  | some a => accept (ok a) (f a)
  | none => .error .badField

/-- Every bit of `w` outside the listed (lo, width) fields is 0, `n` bits in all: the fields an entry does not
use must be 0 (R75). -/
def zeros (w : Nat) : List (Nat × Nat) → Bool
  | [] => true
  | (lo, n) :: r => bits w lo n == 0 && zeros w r

def regAt (w lo : Nat) : Reg := BitVec.ofNat 4 (bits w lo 4)
def predAt (w lo : Nat) : Pred := BitVec.ofNat 3 (bits w lo 3)
def handleAt (w lo : Nat) : Handle := BitVec.ofNat 8 (bits w lo 8)
def flagAt (w lo : Nat) : Bool := bits w lo 1 == 1

/-- The immediate of Format I (R66); `none` when the reserved bits of the 128-bit form are not 0. -/
def immAt (l w : Nat) : Option Imm :=
  match l with
  | 0 => some (.i28 (BitVec.ofNat 28 (bits w 36 28)))
  | 1 => some (.i60 (BitVec.ofNat 60 (bits w 36 60)))
  | _ => if bits w 36 28 = 0 then some (.i64 (BitVec.ofNat 64 (bits w 64 64))) else none

/-- The second source of a major that takes Format A or Format I (R66). -/
def srcAt (l w : Nat) : Option Src :=
  if flagAt w 35 then (immAt l w).map Src.imm
  else if l = 0 ∧ zeros w [(40, 4), (44, 20)] then some (.reg (regAt w 36)) else none

/-- The memory operand of Format M by XM, SCL and the length (R67). -/
def addrAt (l w : Nat) : Option Addr :=
  let xm := bits w 40 2
  let vw := handleAt w 48
  if !vwOk vw then none
  else if xm = 0 ∧ bits w 42 3 = 0 then
    if l = 0 then some (.base8 (regAt w 22) (BitVec.ofNat 8 (bits w 56 8)) vw)
    else if l = 1 then some (.base40 (regAt w 22) (BitVec.ofNat 40 (bits w 56 40)) vw)
    else none
  else if xm = 1 ∧ l = 0 ∧ bits w 56 8 = 0 ∧ bits w 42 3 ≤ 5 then
    some (.index (regAt w 22) (regAt w 26) (BitVec.ofNat 3 (bits w 42 3)) vw)
  else if xm = 2 ∧ l = 2 ∧ bits w 42 3 = 0 ∧ bits w 22 4 = 0 ∧ bits w 56 8 = 0 then
    some (.abs (BitVec.ofNat 64 (bits w 64 64)) vw)
  else none

/-- Where the address has an index register, RB is used; elsewhere it must be 0 (R67, R75). -/
def rbFree (w : Nat) : Bool := bits w 40 2 == 1 || bits w 26 4 == 0

/-- A B operand by the scalar bit AUX[0]: a tile in TB or a register in RX, the other 0 (R200). -/
def tsrcB (w : Nat) : Option TSrc :=
  if flagAt w 55 then if bits w 34 8 = 0 then some (.reg (regAt w 50)) else none
  else if bits w 50 4 = 0 then some (.tile (handleAt w 34)) else none

/-- The B operand of a matrix instruction by SB (R231). -/
def matBAt (w : Nat) : MatB := if flagAt w 59 then .dk (handleAt w 34) else .tile (handleAt w 34)

/-- The two-source integer majors 0x10 to 0x1F in the order of R81, with whether they take SF (R116). -/
def intBinOf : Nat → Option ((Guard → IntBin → Instr) × Bool)
  | 0x10 => some (.add, true) | 0x11 => some (.sub, true) | 0x12 => some (.mul, true) | 0x13 => some (.mulh, false)
  | 0x14 => some (.div, true) | 0x15 => some (.rem, false) | 0x16 => some (.and, false) | 0x17 => some (.or, false)
  | 0x18 => some (.xor, false) | 0x19 => some (.andn, false) | 0x1A => some (.shl, false)
  | 0x1B => some (.shr, false) | 0x1C => some (.sha, false) | 0x1D => some (.rot, false)
  | 0x1E => some (.min, false) | 0x1F => some (.max, false) | _ => none

/-- Majors 0x01 to 0x08 and 0x2A (R114). -/
def decodeControl (maj min w : Nat) (g : Guard) : Except DecodeError Instr :=
  match maj with
  | 0x01 => accept (zeros w [(18, 46)]) (.nop g)
  | 0x02 =>
    if min = 0 then accept (zeros w [(18, 12)]) (.br g (BitVec.ofNat 34 (bits w 30 34)))
    else if min = 1 then accept (bits w 26 3 ≤ 4)
      (.brTile g (handleAt w 18) (predAt w 26) (flagAt w 29) (BitVec.ofNat 34 (bits w 30 34)))
    else accept (zeros w [(21, 5)] && bits w 26 3 ≤ 3)
      (.brChan g (predAt w 18) (predAt w 26) (flagAt w 29) (BitVec.ofNat 34 (bits w 30 34)))
  | 0x03 => accept (zeros w [(22, 42)]) (.jmp g (regAt w 18))
  | 0x04 =>
    if min = 0 then accept (zeros w [(18, 12)]) (.call g (BitVec.ofNat 34 (bits w 30 34)))
    else accept (zeros w [(22, 42)]) (.callReg g (regAt w 18))
  | 0x05 => accept (zeros w [(18, 46)]) (.ret g)
  | 0x06 => accept (zeros w [(18, 26)]) (.align g (BitVec.ofNat 20 (bits w 44 20)))
  | 0x07 =>
    if flagAt w 46 then accept (zeros w [(18, 4), (26, 10), (47, 17)])
      (.gchunkInit g (BitVec.ofNat 2 (bits w 44 2)) (regAt w 22) (regAt w 36) (regAt w 40))
    else accept (zeros w [(22, 9), (34, 10), (47, 17)])
      (.gchunk g (predAt w 31) (regAt w 18) (BitVec.ofNat 2 (bits w 44 2)))
  | _ =>
    let p : FmtPay := ⟨BitVec.ofNat 3 (bits w 31 3), flagAt w 30, flagAt w 28, BitVec.ofNat 5 (bits w 23 5),
      BitVec.ofNat 5 (bits w 18 5)⟩
    accept (zeros w [(14, 4), (29, 1), (34, 30)] && p.wf) (.fmt p)

/-- Majors 0x10 to 0x2F (R114). -/
def decodeInt (maj l w : Nat) (g : Guard) : Except DecodeError Instr :=
  let rd := regAt w 18
  let ra := regAt w 22
  match intBinOf maj with
  | some (mk, sfOk) =>
    match ityOf (bits w 26 5), srcAt l w with
    | some ty, some b => accept (zeros w [(31, 3)] && (sfOk || bits w 34 1 == 0)) (mk g ⟨ty, rd, ra, b, flagAt w 34⟩)
    | _, _ => .error .badField
  | none =>
    match maj with
    | 0x20 => acceptWith (ityOf (bits w 26 5)) (fun _ => zeros w [(31, 33)]) fun ty => .clz g ⟨ty, rd, ra⟩
    | 0x21 => acceptWith (ityOf (bits w 26 5)) (fun _ => zeros w [(31, 33)]) fun ty => .ctz g ⟨ty, rd, ra⟩
    | 0x22 => acceptWith (ityOf (bits w 26 5)) (fun _ => zeros w [(31, 33)]) fun ty => .popc g ⟨ty, rd, ra⟩
    | 0x23 => acceptWith (bfxTyOf (bits w 26 5)) (fun _ => zeros w [(31, 13), (57, 7)]) fun ty =>
        .bfx g ty rd ra (BitVec.ofNat 6 (bits w 44 6)) (BitVec.ofNat 7 (bits w 50 7))
    | 0x24 => accept (zeros w [(26, 18), (57, 7)])
        (.bfi g rd ra (BitVec.ofNat 6 (bits w 44 6)) (BitVec.ofNat 7 (bits w 50 7)))
    | 0x25 => acceptWith (extTyOf (bits w 26 5)) (fun _ => zeros w [(31, 33)]) fun ty => .sext g ty rd ra
    | 0x26 => acceptWith (extTyOf (bits w 26 5)) (fun _ => zeros w [(31, 33)]) fun ty => .zext g ty rd ra
    | 0x27 => accept (zeros w [(26, 38)]) (.mov g rd ra)
    | 0x28 => acceptWith (immAt l w) (fun _ => zeros w [(22, 13)] && flagAt w 35) fun i => .movi g rd i
    | 0x29 =>
      match icondOf (bits w 18 4), ityOf (bits w 26 5), srcAt l w with
      | some c, some ty, some b => accept (bits w 34 1 == 0) (.cmp g c ty (predAt w 31) ra b)
      | _, _, _ => .error .badField
    | 0x2A => accept (zeros w [(26, 5), (34, 2), (40, 24)]) (.sel g rd (predAt w 31) ra (regAt w 36))
    | 0x2B => acceptWith (addrAt l w) (fun _ => rbFree w && zeros w [(30, 10), (45, 3)]) fun a => .lea g rd a
    | 0x2C => accept (zeros w [(26, 18), (45, 19)]) (.vqual g rd ra (flagAt w 44))
    | 0x2D =>
      if flagAt w 52 then accept (zeros w [(26, 18), (53, 11)]) (.vset g rd ra (.imm (handleAt w 44)))
      else accept (zeros w [(26, 10), (40, 24)]) (.vset g rd ra (.reg (regAt w 36)))
    | 0x2E => accept (zeros w [(26, 38)]) (.vget g rd ra)
    | _ => accept (zeros w [(26, 38)]) (.vclr g rd ra)

/-- A two-source scalar floating entry. -/
def decodeFltBin (w : Nat) (g : Guard) (mk : Guard → FltBin → Instr) : Except DecodeError Instr :=
  acceptWith (fmtOf (bits w 26 5)) (fun _ => zeros w [(31, 5), (40, 24)]) fun ty =>
    mk g ⟨ty, regAt w 18, regAt w 22, regAt w 36⟩

/-- Majors 0x30 to 0x3A (R114). -/
def decodeFlt (maj w : Nat) (g : Guard) : Except DecodeError Instr :=
  let rd := regAt w 18
  let ra := regAt w 22
  match maj with
  | 0x30 => decodeFltBin w g .fadd
  | 0x31 => decodeFltBin w g .fsub
  | 0x32 => decodeFltBin w g .fmul
  | 0x33 => acceptWith (fmtOf (bits w 26 5)) (fun _ => zeros w [(31, 5), (44, 20)]) fun ty =>
      .fma g ty rd ra (regAt w 36) (regAt w 40)
  | 0x34 => decodeFltBin w g .fdiv
  | 0x35 => acceptWith (fmtOf (bits w 26 5)) (fun _ => zeros w [(31, 33)]) fun ty => .fsqrt g ty rd ra
  | 0x36 => decodeFltBin w g .fmin
  | 0x37 => decodeFltBin w g .fmax
  | 0x38 =>
    match fcondOf (bits w 18 4), fmtOf (bits w 26 5) with
    | some c, some ty => accept (zeros w [(34, 2), (40, 24)]) (.fcmp g c ty (predAt w 31) ra (regAt w 36))
    | _, _ => .error .badField
  | 0x39 =>
    match fmtOf (bits w 26 5), fmtOf (bits w 44 5) with
    | some d, some s => accept (zeros w [(31, 3), (35, 9), (49, 15)]) (.fcvt g d s (flagAt w 34) rd ra)
    | _, _ => .error .badField
  | _ => acceptWith (fmtOf (bits w 26 5)) (fun _ => zeros w [(31, 33)]) fun ty => .fclass g ty rd ra

/-- Majors 0x40 to 0x4E (R174, R175). -/
def decodeMem (maj min l w : Nat) (g : Guard) : Except DecodeError Instr :=
  let rd := regAt w 18
  let rb := regAt w 26
  let rc := regAt w 30
  let sz := szOf (bits w 34 2)
  let sc := scopeOf (bits w 36 2)
  let po := polOf (bits w 38 2)
  let pd := predAt w 45
  match maj with
  | 0x40 => acceptWith (addrAt l w) (fun _ => rbFree w && zeros w [(30, 4), (36, 2), (45, 3)]) fun a => .ld g sz po rd a
  | 0x41 => acceptWith (addrAt l w) (fun _ => rbFree w && zeros w [(30, 4), (36, 2), (45, 3)]) fun a => .ldx g sz po rd a
  | 0x42 => acceptWith (addrAt l w) (fun _ => rbFree w && zeros w [(30, 4), (36, 2), (45, 3)]) fun a => .st g sz po rd a
  | 0x43 => acceptWith (addrAt l w) (fun _ => rbFree w && zeros w [(30, 8), (45, 3)]) fun a => .ldp g po rd a
  | 0x44 => acceptWith (addrAt l w) (fun _ => rbFree w && zeros w [(30, 8), (45, 3)]) fun a => .stp g po rd a
  | 0x45 => acceptWith (addrAt l w) (fun _ => rbFree w && zeros w [(18, 4), (30, 8), (45, 3)]) fun a => .pref g po a
  | 0x46 => acceptWith (addrAt l w) (fun _ => rbFree w && zeros w [(36, 2)]) fun a => .waitline g sz po rd pd rc a
  | 0x47 =>
    match addrAt l w, atomOpOf min with
    | some a, some op => accept (rbFree w && zeros w [(45, 3)] && atomSzOk op sz) (.atom g op sz sc po rd rc a)
    | _, _ => .error .badField
  | 0x48 => acceptWith (addrAt l w) Addr.noIndex fun a => .cas g sz sc po rd pd rc rb a
  | 0x49 => acceptWith (addrAt l w) (fun a => a.noIndex && zeros w [(34, 2)]) fun a => .cas2 g sc po rd pd rc rb a
  | 0x4A =>
    match addrAt l w, atomOpOf min with
    | some a, some op => accept (rbFree w && zeros w [(18, 4), (45, 3)] && atomSzOk op sz) (.red g op sz sc po rc a)
    | _, _ => .error .badField
  | 0x4B => acceptWith (addrAt l w) (fun _ => rbFree w && zeros w [(18, 4), (34, 6)]) fun a => .lease g pd rc a
  | 0x4C => accept (zeros w [(18, 27), (48, 16)]) (.lend g pd)
  | 0x4D => accept (zeros w [(18, 24), (44, 20)]) (.fence g (scopeOf (bits w 42 2)))
  | _ => acceptWith (addrAt l w) (fun _ => rbFree w && zeros w [(30, 10), (45, 3)]) fun a =>
      if min = 0 then .barArrive g rd a else .barWait g rd a

/-- Majors 0x50 to 0x54 and 0x90 to 0x99 (R253, R254). -/
def decodeSys (maj min w : Nat) (g : Guard) : Except DecodeError Instr :=
  let rd := regAt w 18
  let ra := regAt w 22
  let rb := regAt w 26
  match maj with
  | 0x50 => accept (zeros w [(30, 14), (48, 16)]) (.spawn g rd (BitVec.ofNat 4 (bits w 44 4)) ra rb)
  | 0x51 => accept (zeros w [(22, 22), (49, 15)]) (.reap g rd (BitVec.ofNat 4 (bits w 44 4)) (flagAt w 48))
  | 0x52 => accept (zeros w [(18, 46)]) (.halt g)
  | 0x53 => accept (zeros w [(22, 42)]) (.wfw g rd)
  | 0x54 => accept (zeros w [(26, 18), (52, 12)]) (.migr g rd ra (BitVec.ofNat 7 (bits w 44 7)) (flagAt w 51))
  | 0x90 => accept (zeros w [(22, 8), (42, 22)]) (.srd g rd (BitVec.ofNat 12 (bits w 30 12)))
  | 0x91 => accept (zeros w [(18, 4), (26, 4), (42, 22)]) (.swr g (BitVec.ofNat 12 (bits w 30 12)) ra)
  | 0x92 => accept (zeros w [(18, 26)]) (.trap g (BitVec.ofNat 20 (bits w 44 20)))
  | 0x93 =>
    if flagAt w 45 then accept (zeros w [(18, 4), (30, 14), (46, 18)])
      (if flagAt w 44 then .eretAbort g ra (some rb) else .eretSt g ra rb)
    else accept (zeros w [(18, 4), (26, 18), (46, 18)]) (if flagAt w 44 then .eretAbort g ra none else .eret g ra)
  | 0x94 =>
    if min = 0 then accept (zeros w [(18, 4), (26, 38)]) (.tlbiAsid g ra)
    else if min = 1 then accept (zeros w [(18, 4), (30, 34)]) (.tlbiAddr g ra rb)
    else if min = 2 then accept (zeros w [(18, 4), (30, 14)]) (.tlbiRange g ra rb (BitVec.ofNat 20 (bits w 44 20)))
    else if min = 3 then accept (zeros w [(18, 4), (26, 18), (47, 17)]) (.tlbiKind g ra (predAt w 44))
    else accept (zeros w [(18, 46)]) (.tlbiAll g)
  | 0x95 => accept (zeros w [(18, 4), (30, 34)]) (.cwb g ra rb)
  | 0x96 => accept (zeros w [(18, 4), (30, 34)]) (.cinv g ra rb)
  | 0x97 => accept (zeros w [(18, 4), (26, 18), (51, 13)]) (.flushtag g (BitVec.ofNat 7 (bits w 44 7)) ra)
  | 0x98 => accept (zeros w [(22, 22), (50, 14)]) (.mread g rd (BitVec.ofNat 6 (bits w 44 6)))
  | _ => accept (zeros w [(18, 26)]) (.idle g (BitVec.ofNat 20 (bits w 44 20)))

/-- Majors 0x55 to 0x58 and 0x5A (R200, R201). -/
def decodeTile (maj l w : Nat) (g : Guard) : Except DecodeError Instr :=
  let td := handleAt w 18
  let ta := handleAt w 26
  let rx := regAt w 50
  match maj with
  | 0x55 =>
    if l = 1 then accept (zeros w [(34, 21), (56, 8)])
      (.talloc g (flagAt w 55) td ta (BitVec.ofNat 16 (bits w 64 16)) (BitVec.ofNat 16 (bits w 80 16)))
    else accept (zeros w [(26, 24), (54, 1), (59, 5)] && bits w 55 2 == 2)
      (.tallocProd g td (BitVec.ofNat 2 (bits w 57 2)) rx)
  | 0x56 => accept (zeros w [(26, 38)]) (.tfree g td)
  | 0x57 => accept (zeros w [(18, 8), (34, 16), (54, 1), (58, 6)]) (.tstate g rx (predAt w 55) ta)
  | 0x58 => accept (zeros w [(18, 8), (34, 21), (58, 6)] && bits w 55 3 ≤ 4) (.twait g ta (predAt w 55))
  | _ =>
    acceptWith (dkFieldOf (bits w 55 4))
      (fun _ => zeros w [(26, 24), (54, 1), (60, 4)] && (bits w 59 1 == l) && (l == 0 || bits w 50 4 == 0))
      fun f => .dkset g td f (if l = 0 then .reg rx else .imm (BitVec.ofNat 32 (bits w 64 32)))

/-- Majors 0x59 and 0x5B to 0x5F (R200, R253, R254). -/
def decodeCopy (maj min w : Nat) (g : Guard) : Except DecodeError Instr :=
  let ra := regAt w 18
  let rb := regAt w 22
  let ha := handleAt w 26
  let hb := handleAt w 34
  let hd := handleAt w 50
  match maj with
  | 0x59 => accept (zeros w [(22, 4), (34, 30)]) (.dkld g ha ra (BitVec.ofNat 32 (bits w 64 32)))
  | 0x5B => accept (zeros w [(18, 8), (42, 8), (58, 38)])
      (if min = 0 then .copyIn g ha hb hd else .copyOut g ha hb hd)
  | 0x5C => accept (zeros w [(22, 4), (42, 8), (58, 6), (71, 25)])
      (.copyr g hd ra (BitVec.ofNat 7 (bits w 64 7)) ha hb)
  | 0x5D => accept (zeros w [(18, 8), (42, 8), (58, 38)]) (.copym g ha hb hd)
  | 0x5E =>
    if flagAt w 60 then accept (zeros w [(22, 28), (58, 2), (61, 35)]) (.wmarkGet g ra hd)
    else accept (zeros w [(26, 24), (58, 38)]) (.wmark g hd ra rb)
  | _ => accept (zeros w [(18, 32), (58, 38)]) (.chwait g hd)

/-- A vector entry with a tile or scalar B and no further AUX. -/
def decodeVecB (w : Nat) (g : Guard) (mk : Guard → VecBin → Instr) : Except DecodeError Instr :=
  acceptWith (tsrcB w) (fun _ => zeros w [(42, 8), (56, 8)]) fun b => mk g ⟨handleAt w 18, handleAt w 26, b, flagAt w 54⟩

/-- A one-source vector entry, which takes SF where `sfOk`. -/
def decodeVecUn (w : Nat) (g : Guard) (sfOk : Bool) (mk : Guard → VecUn → Instr) : Except DecodeError Instr :=
  accept (zeros w [(34, 20), (55, 9)] && (sfOk || bits w 54 1 == 0)) (mk g ⟨handleAt w 18, handleAt w 26, flagAt w 54⟩)

/-- VRED and VSCAN. -/
def decodeVecRed (w : Nat) (g : Guard) (mk : Guard → VecRed → Instr) : Except DecodeError Instr :=
  acceptWith (redOpOf (bits w 58 3)) (fun _ => zeros w [(34, 20), (61, 3)] && bits w 55 3 ≤ 4) fun op =>
    mk g ⟨op, handleAt w 18, handleAt w 26, predAt w 55, flagAt w 54⟩

/-- Majors 0x60 to 0x7A (R200, R201). -/
def decodeVec (maj l w : Nat) (g : Guard) : Except DecodeError Instr :=
  let td := handleAt w 18
  let ta := handleAt w 26
  let tb := handleAt w 34
  let tc := handleAt w 42
  let rx := regAt w 50
  match maj with
  | 0x60 => decodeVecB w g .vadd
  | 0x61 => decodeVecB w g .vsub
  | 0x62 => decodeVecB w g .vmul
  | 0x63 =>
    if bits w 54 10 = 0 then accept (zeros w [(50, 4)]) (.vfma g td ta (.tt tb tc))
    else if bits w 54 10 = 2 then accept (zeros w [(34, 8)]) (.vfma g td ta (.rt rx tc))
    else accept (zeros w [(42, 8)] && bits w 54 10 == 4) (.vfma g td ta (.tr tb rx))
  | 0x64 => decodeVecB w g .vdiv
  | 0x65 => decodeVecUn w g false .vsqrt
  | 0x66 => decodeVecUn w g false .vrsqrt
  | 0x67 => decodeVecUn w g false .vexp2
  | 0x68 => decodeVecUn w g false .vlog2
  | 0x69 => decodeVecB w g .vmin
  | 0x6A => decodeVecB w g .vmax
  | 0x6B => decodeVecUn w g true .vabs
  | 0x6C => decodeVecUn w g true .vneg
  | 0x6D =>
    match fcondOf (bits w 56 4), tsrcB w with
    | some c, some b => accept (zeros w [(42, 8), (54, 1), (60, 4)]) (.vcmp g c td ta b)
    | _, _ => .error .badField
  | 0x6E =>
    if bits w 54 10 = 0 then accept (zeros w [(50, 4)]) (.vsel g td ta tb (.tile tc))
    else accept (zeros w [(42, 8)] && bits w 54 10 == 4) (.vsel g td ta tb (.reg rx))
  | 0x6F => decodeVecUn w g true .vcvt
  | 0x70 => decodeVecUn w g true .vquant
  | 0x71 => decodeVecRed w g .vred
  | 0x72 => decodeVecRed w g .vscan
  | 0x73 => accept (zeros w [(34, 21), (61, 3)] && bits w 55 3 ≤ 4 && bits w 58 3 ≤ 4)
      (.vtrans g td ta (predAt w 55) (predAt w 58))
  | 0x74 => accept (zeros w [(42, 13), (58, 6)] && bits w 55 3 ≤ 4) (.vperm g td ta tb (predAt w 55))
  | 0x75 => accept (zeros w [(34, 16), (54, 1), (58, 6)] && bits w 55 3 ≤ 5) (.vgath g td ta rx (predAt w 55))
  | 0x76 => accept (zeros w [(18, 8), (42, 8), (54, 1), (58, 6)] && bits w 55 3 ≤ 5) (.vscat g ta tb rx (predAt w 55))
  | 0x77 =>
    if flagAt w 55 then accept (zeros w [(26, 24), (54, 1), (56, 8)]) (.vbcast g td (.reg rx))
    else accept (zeros w [(34, 30)]) (.vbcast g td (.tile ta))
  | 0x78 =>
    if l = 0 then accept (zeros w [(18, 8), (34, 16), (54, 1)]) (.vext g rx ta (.short (BitVec.ofNat 9 (bits w 55 9))))
    else accept (zeros w [(18, 8), (34, 16), (54, 10)]) (.vext g rx ta (.long (BitVec.ofNat 32 (bits w 64 32))))
  | 0x79 =>
    if l = 0 then accept (zeros w [(26, 24), (54, 1)]) (.vins g td rx (.short (BitVec.ofNat 9 (bits w 55 9))))
    else accept (zeros w [(26, 24), (54, 10)]) (.vins g td rx (.long (BitVec.ofNat 32 (bits w 64 32))))
  | _ =>
    let amt : VAmt := if l = 0 then .short (BitVec.ofNat 5 (bits w 59 5)) else .long (BitVec.ofNat 32 (bits w 64 32))
    let fill : Option Reg := if flagAt w 58 then some rx else none
    accept (zeros w [(34, 16), (54, 1)] && bits w 55 3 ≤ 4 && (l == 0 || bits w 59 5 == 0)
      && (flagAt w 58 || bits w 50 4 == 0)) (.vshift g td ta (predAt w 55) amt fill)

/-- Majors 0x80 to 0x85 (R231). -/
def decodeMat (maj w : Nat) (g : Guard) : Except DecodeError Instr :=
  let ac := flagAt w 58
  let ha := handleAt w 26
  let hb := handleAt w 34
  let hc := handleAt w 42
  let hd := handleAt w 50
  let r := BitVec.ofNat 16 (bits w 64 16)
  let c := BitVec.ofNat 16 (bits w 80 16)
  match maj with
  | 0x80 => accept (zeros w [(18, 8), (60, 4)]) (.mma g ac ha (matBAt w) hc hd r c)
  | 0x81 => acceptWith (keepOf (bits w 60 4)) (fun _ => zeros w [(18, 8), (50, 8)]) fun k =>
      .mmas g k ac ha (matBAt w) hc r c
  | 0x82 => accept (zeros w [(18, 8), (42, 16), (60, 4)]) (.mmg g (flagAt w 59) ac ha hb r c)
  | 0x83 => accept (zeros w [(18, 40), (59, 37)]) (.mzero g ac)
  | 0x84 => accept (zeros w [(18, 8), (34, 24), (59, 1), (62, 2)])
      (.mst g (flagAt w 61) (flagAt w 60) ac ha r c)
  | _ => accept (zeros w [(18, 78)]) (.mwait g)

/-- The lengths that each major accepts (R82); reserved majors (R81) accept none. -/
def lengthsOf (maj : Nat) : List Nat :=
  if (0x01 ≤ maj ∧ maj ≤ 0x08) then [0]
  else if (0x10 ≤ maj ∧ maj ≤ 0x1F) then [0, 1, 2]
  else if maj = 0x28 ∨ maj = 0x29 ∨ maj = 0x2B then [0, 1, 2]
  else if (0x20 ≤ maj ∧ maj ≤ 0x3A) then [0]
  else if maj = 0x4C ∨ maj = 0x4D then [0]
  else if (0x40 ≤ maj ∧ maj ≤ 0x4E) then [0, 1, 2]
  else if (0x50 ≤ maj ∧ maj ≤ 0x54) ∨ (0x90 ≤ maj ∧ maj ≤ 0x99) then [0]
  else if maj = 0x55 ∨ maj = 0x5A ∨ (0x78 ≤ maj ∧ maj ≤ 0x7A) then [0, 1]
  else if (0x56 ≤ maj ∧ maj ≤ 0x58) ∨ (0x60 ≤ maj ∧ maj ≤ 0x77) then [0]
  else if maj = 0x59 ∨ (0x5B ≤ maj ∧ maj ≤ 0x5F) ∨ (0x80 ≤ maj ∧ maj ≤ 0x85) then [1]
  else []

/-- The minors that each major accepts (R83). -/
def minorOk (maj min : Nat) : Bool :=
  if maj = 0x02 then min ≤ 2
  else if maj = 0x04 ∨ maj = 0x4E ∨ maj = 0x5B then min ≤ 1
  else if maj = 0x47 then min ≤ 9
  else if maj = 0x4A then min ≤ 7 || min == 9
  else if maj = 0x94 then min ≤ 4
  else min == 0

/-- The instruction with length code `l` and bits `w`, by R76 steps 3 and 4. -/
def decodeWord (l w : Nat) : Except DecodeError Instr :=
  let maj := bits w 2 8
  let min := bits w 10 4
  let g : Guard := ⟨predAt w 14, flagAt w 17⟩
  if lengthsOf maj = [] then .error .reservedMajor
  else if !(lengthsOf maj).contains l then .error .badLength
  else if !minorOk maj min then .error .badMinor
  else if !g.wf then .error .badGuard
  else if maj < 0x10 then decodeControl maj min w g
  else if maj < 0x30 then decodeInt maj l w g
  else if maj < 0x40 then decodeFlt maj w g
  else if maj < 0x50 then decodeMem maj min l w g
  else if maj < 0x55 then decodeSys maj min w g
  else if maj = 0x59 then decodeCopy maj min w g
  else if maj < 0x5B then decodeTile maj l w g
  else if maj < 0x60 then decodeCopy maj min w g
  else if maj < 0x80 then decodeVec maj l w g
  else if maj < 0x90 then decodeMat maj w g
  else decodeSys maj min w g

/-- The bytes of an instruction with length code `l` (R61). -/
def lenBytes (l : Nat) : Nat := 8 + 4 * l

/-- The instruction at the start of the bytes and the bytes after it. The bytes end where the fetch block ends
(R62). -/
def decode (bs : List Byte) : Except DecodeError (Instr × List Byte) :=
  match bs with
  | [] => .error .crossesBlock
  | b :: _ =>
    let l := b.toNat % 4
    if l = 3 then .error .skipCode
    else if bs.length < lenBytes l then .error .crossesBlock
    else match decodeWord l (ofBytes (bs.take (lenBytes l))) with
      | .ok i => .ok (i, bs.drop (lenBytes l))
      | .error e => .error e

/-- The instruction whose bits are `w`, the bits above `nbits` zero, laid out little-endian and given to `decode`. -/
def decodeTableWord (nbits w : Nat) : Option Instr :=
  match decode (toBytes 16 (w % 2 ^ nbits)) with
  | .ok (i, _) => some i
  | .error _ => none

/-- The length in bytes of an instruction; events have none (R61, R66, R67, R70, R71). -/
def Instr.bytes (i : Instr) : Nat :=
  match encode i with
  | some e => e.1 / 8
  | none => 0

end Sys2Proof
end

