-- ==== Sys2Proof/Config.lean ====
section
/-! DEFINITION. What an implementation fixes and the free values: constants with no body, of which nothing can
be proved but their type (log 2). -/
namespace Sys2Proof.Config

/-- R370: the MREAD and snapshot lag in cycles, before it is capped at 64 (R282 allows any lag up to 64). -/
opaque lag : Nat → Nat

/-- R371: the 32-byte meter epoch nonce that the root of trust draws at the cold reset that is its argument. -/
opaque epoch : Nat → BitVec 256

/-- R371: the SHA-384 digest of a snapshot's bytes. -/
opaque sha384 : List Byte → BitVec 384

/-- R372: the ECDSA P-384 signature over a transcript, by the key in a certificate slot. -/
opaque signature : Nat → List Byte → BitVec 768

/-- R372: the SPDM messages of a requester's connection before its request; the manual gives none of their bytes. -/
opaque spdmEarlier : Nat → List Byte

/-- R372, R374: the value type of a boot measurement's block, by index; the manual gives it for snapshots only. -/
opaque bootType : Nat → BitVec 8

/-- R374: the value of boot measurement `i` after its `n`-th taking. -/
opaque measurement : Nat → Nat → BitVec 384

/-- R334: the own bytes of a saved matrix queue entry, in a form the manual does not give. -/
opaque ownByte : Nat → Byte

/-- R290: the device's choice of a task tag at its `n`-th placement; a tag in use is passed over. -/
opaque tag : Nat → BitVec 16

/-- R356: the AES-GCM tag and ciphertext are not computed: this is the 128-bit tag under a key, by the key's number, of the
additional data and the payload. -/
opaque gcmTag : Nat → List Byte → List Byte → BitVec 128

/-- R357: the SPDM message of a root of trust's exchange; the manual names the exchanges and gives no bytes. -/
opaque spdmMessage : Nat → List Byte

/-- R354: the granule of another device's memory at an address's block, as this device cuts its requests: 8, 16 or 32
bytes by the value's remainder by 3 (log 122). -/
opaque remoteGran : Nat → Nat

/-- R138, R62: whether the L1I still holds a block it has held; if not, the block is filled afresh. -/
opaque l1iKeeps : Nat → Bool

/-- R37, R328: the info value of a trap for which the manual writes no Trap call, by cause code. -/
opaque info : Nat → Nat → Word

/-- R374: whether the root of trust finds a staged image's signature good, where the write of GO does not say. -/
opaque imageGood : Nat → Bool

/-- R376: the junction temperature that THERM shows after a cold reset; the manual gives no reset value. -/
opaque resetTemperature : Nat → BitVec 10

/-- R373: the stepping of the part. -/
opaque stepping : BitVec 8

/-- R12, R278: the rounding mode that a reserved RM value acts as. -/
opaque reservedRm : Nat → Nat

/-- R319, R335: what a restore puts in place of a word of a save area that is poisoned and so is not delivered, by cycle and
address. -/
opaque lost : Nat → Nat → BitVec 64

/-- R336: the optical core's slot count when the device enters RUN. -/
opaque coreSlot : Nat → Nat

/-- R372: the number of measurement blocks that GET_MEASUREMENTS with Param2 0 returns; the manual names the request but
no number. -/
opaque blockCount : Nat → Nat

end Sys2Proof.Config
end

