-- ==== Sys2Proof/Machine/Sparse.lean ====
section
/-! DEFINITION. Data by key in one canonical form: keys strictly rising, no entry equal to the default, so that
equal maps are equal lists; and the device's memory as such a list of cells. -/
namespace Sys2Proof.Machine

/-- A map from numbers to `α`, held sparsely. -/
abbrev Sparse (α : Type) := List (Nat × α)

/-- The value at a key: the listed one, or the default. -/
def Sparse.get {α : Type} (d : α) : Sparse α → Nat → α
  | [], _ => d
  | (k, v) :: r, i => if k = i then v else Sparse.get d r i

/-- Without the entries of a key. -/
def Sparse.erase {α : Type} (m : Sparse α) (i : Nat) : Sparse α := m.filter fun e => e.1 != i

/-- An entry put before the first larger key. -/
def Sparse.insert {α : Type} (i : Nat) (x : α) : Sparse α → Sparse α
  | [] => [(i, x)]
  | (k, v) :: r => if i < k then (i, x) :: (k, v) :: r else (k, v) :: Sparse.insert i x r

/-- The value at a key becomes `x`: no entry is listed if that is the default. -/
def Sparse.set {α : Type} [DecidableEq α] (d : α) (m : Sparse α) (i : Nat) (x : α) : Sparse α :=
  if x = d then Sparse.erase m i else Sparse.insert i x (Sparse.erase m i)

/-- The canonical form, above a bound on the first key. -/
def Sparse.wfFrom {α : Type} [DecidableEq α] (d : α) : Nat → Sparse α → Bool
  | _, [] => true
  | b, (k, v) :: r => decide (b ≤ k) && decide (v ≠ d) && Sparse.wfFrom d (k + 1) r

def Sparse.wf {α : Type} [DecidableEq α] (d : α) (m : Sparse α) : Bool := Sparse.wfFrom d 0 m

/-- Change the value at a key. -/
def Sparse.modify {α : Type} [DecidableEq α] (d : α) (m : Sparse α) (i : Nat) (f : α → α) : Sparse α :=
  Sparse.set d m i (f (Sparse.get d m i))

/-- What an unlisted byte of physical memory reads as. HBM5 and the vats are zeroed (R374 step 4, R367 step 5);
host memory that nothing has written also reads zero (DESIGN CHOICE, log 4). -/
def Memory.unlisted : Byte := 0

/-- Physical memory by byte address (R306). -/
abbrev Memory := List Host.Cell

/-- The canonical form of memory. -/
def Memory.wf (m : Memory) : Bool := Sparse.wf Memory.unlisted m

/-- One byte. -/
def Memory.read (m : Memory) (a : Nat) : Byte := Sparse.get Memory.unlisted m a

/-- Write one byte. -/
def Memory.write (m : Memory) (a : Nat) (b : Byte) : Memory := Sparse.set Memory.unlisted m a b

/-- `n` bytes from an address upward. -/
def Memory.readBytes (m : Memory) (a : Nat) : Nat → List Byte
  | 0 => []
  | n + 1 => Memory.read m a :: Memory.readBytes m (a + 1) n

/-- Write bytes from an address upward. -/
def Memory.writeBytes (m : Memory) (a : Nat) : List Byte → Memory
  | [] => m
  | b :: r => Memory.writeBytes (Memory.write m a b) (a + 1) r

end Sys2Proof.Machine
end

