-- ==== Sys2Proof/Machine/Parts.lean ====
section
/-! DEFINITION. The parts of the machine's state as plain data: traps, translations, accesses, contexts, cores,
quires, dies, jobs, tasks, launches, partitions, the fabric and device control. -/
namespace Sys2Proof.Machine

/-! ### Traps and translation -/

/-- The access kinds of R29, with `none` for code 8 of R328. -/
inductive Acc where
  | read | write | atomic | reduce | lease | fetch | eread | ewrite | none
  deriving DecidableEq, Repr

/-- The causes of R37. -/
inductive Cause where
  | illegal | prefixed | operand | privilege | address | translation | storepolicy | align | tile | sparse
  | divide | poison | link | software
  deriving DecidableEq, Repr

/-- A trap: cause, info or address, access kind and subcode (R37, R328). -/
structure Trap where
  cause : Cause
  info : Word
  acc : Acc
  sub : Nat
  deriving DecidableEq, Repr

/-- COH of a page table entry (R322). -/
inductive Coh where
  | coherent | scopedQ | scopedD | uncached
  deriving DecidableEq, Repr

/-- KIND of a page table entry (R28, R322). -/
inductive PKind where
  | shared | privq | privd | repl | remote
  deriving DecidableEq, Repr

/-- A leaf's fields (R322). `frame` is a physical address, `stride` is in bytes. -/
structure Leaf where
  size : Nat
  kind : PKind
  coh : Coh
  frame : Nat
  stride : Nat
  rank : Nat
  r : Bool
  w : Bool
  x : Bool
  a : Bool
  all : Bool
  deriving DecidableEq, Repr

/-- A cached translation: identifier, first virtual address of the page, leaf (R326). -/
structure Tlb where
  asid : Nat
  va : Nat
  leaf : Leaf
  deriving DecidableEq, Repr

/-- A cached non-leaf entry: the table that serves `va` at `level` (R326). -/
structure WalkEntry where
  asid : Nat
  level : Nat
  va : Nat
  table : Nat
  deriving DecidableEq, Repr

/-- A resolved location: physical address, coherence scope and the address as issued. -/
structure Loc where
  pa : Nat
  coh : Coh
  addr : Word
  deriving DecidableEq, Repr

/-! ### Values and slices -/

/-- An exact value: a NaN, an infinity, or ±n × 2^e. -/
inductive Val where
  | nan
  | inf (neg : Bool)
  | fin (neg : Bool) (n : Nat) (e : Int)
  deriving DecidableEq, Repr

/-- A slice of a deckle as an instruction captured it (R23, R24): `base` is the address of the full deckle's
element 0 moved along every axis but a packed axis 0, whose origin is `org`; `full` is EXT[0] of the deckle. In a
vat (`vat`) the base is a physical address, and `lo` and `hi` bound the tile's bytes. -/
structure Slice where
  fmt : Fmt
  base : Word
  rank : Nat
  ext : List Nat
  str : List Int
  org : Nat
  full : Nat
  vat : Bool
  lo : Nat
  hi : Nat
  deriving DecidableEq, Repr

/-! ### Accesses in the Issue Port -/

/-- What one granule event does at its place of performance (R147). -/
inductive GOp where
  | read
  | write (data : List Byte)
  | rmw (op : AtomOp) (sz : Sz) (v : Nat)
  | cas (cmp new : Nat)
  | barArrive
  | lease (n : Nat)
  | fence (sc : Scope)
  deriving DecidableEq, Repr

/-- One granule event: `len` bytes at `pa`, the address as issued, and the scope suffix of an atomic. -/
structure GEv where
  pa : Nat
  len : Nat
  coh : Coh
  addr : Word
  acc : Acc
  sc : Scope
  op : GOp
  deriving DecidableEq, Repr

/-- What the instruction does once its last event has been performed. -/
inductive PortDone where
  | load (rd : Reg) (signed : Bool)
  | loadPair (rd : Reg)
  | store
  | atom (rd : Reg)
  | cas (rd : Reg) (pd : Pred) (cmp : Nat)
  | cas2 (rd : Reg) (pd : Pred) (cmp : Nat)
  | red
  | lease (pd : Pred)
  | fence
  | barArrive (rd : Reg)
  | barWait (ticket : BitVec 32)
  | waitline (rd : Reg) (pd : Pred) (cmp : Nat) (t0 : Nat)
  | dkld (dn : Nat)
  | gather (td : Slice) (rest : List Word) (size : Nat)
  | scatter (rest : List (Word × List Byte))
  deriving DecidableEq, Repr

/-- A remote access under way at its home (R354): the quire of R274, the granule events still to perform, the bytes its
reads returned, whether its event has gone to the Host Port and waits for a completion, and the trap that one has brought. -/
structure Work where
  quire : Nat
  evs : List GEv
  got : List Byte
  sent : Bool
  err : Option Trap
  deriving DecidableEq, Repr

/-- The access of a context's Issue Port (R148): events still to perform, the bytes its reads returned, what
completes it, the instruction's length, and, for a remote access (R354), the device that performs it. `sent`
marks an event that has gone to the host or to the home device and waits for its answer; `major` and `minor` are the
instruction's, for a remote access's request; `since` is the cycle at which the access entered the port (R173) and `po`
its cache policy (R179). `work` is a remote access of the own rank under way at its home. -/
structure Port where
  evs : List GEv
  got : List Byte
  fin : PortDone
  len : Nat
  remote : Option Nat
  sent : Bool
  minor : Nat
  major : Nat
  since : Nat
  po : Pol
  work : Option Work
  deriving DecidableEq, Repr

/-- A migration under way (R274, R275): destination device, own rank or not, the MIGR quire and destination
register, the access kind and address, and the refusals met. -/
structure Migration where
  dst : Nat
  rank : Nat
  quire : Option Nat
  rd : Option Reg
  acc : Acc
  addr : Word
  tries : Nat
  deriving DecidableEq, Repr

/-- Why a RUNNING context is out of the rotation. -/
inductive Wait where
  | none
  | retest
  | port
  | waitline (since : Nat) (woken : Bool)
  | barWait (since : Nat) (woken : Bool)
  | align (pc : BitVec 56) (since limit : Nat)
  | mwait (ids : List Nat)
  | idle (till : Nat)
  | service
  | wfw (rd : Reg)
  | vector (id : Nat)
  | migrate (m : Migration)
  | flush (quire : Nat) (tag : BitVec 16)
  | exchange (till : Nat)
  deriving DecidableEq, Repr

/-! ### Contexts -/

/-- The states of R269. -/
inductive Run where
  | free | running | faulted | halted
  deriving DecidableEq, Repr

/-- A fetch block: its address, and its bytes or the fault its fetch met (R76, R138). -/
structure Block where
  addr : Nat
  data : List Byte
  err : Option Trap
  deriving DecidableEq, Repr

/-- A context (R8 to R15, R269, R334). `part` is the partition of a migrated-in thread; `refused` counts the
refusals that the access at PC has met (R274); `wakeBy` is the cycle by which a woken waiter must have gone on (R173). -/
structure Ctx where
  g : Vector Word 16
  pc : BitVec 56
  st : Word
  wid : Word
  levels : Word
  slotgen : BitVec 32
  seed : Word
  run : Run
  aborted : Bool
  tag : Word
  task : Option (BitVec 16)
  part : Option Nat
  block : Option Block
  ahead : Option Block
  port : Option Port
  wait : Wait
  wakeBy : Option Nat
  handle : Option (BitVec 64)
  refused : Nat
  deriving DecidableEq, Repr

/-- A FREE context at reset: ST reads 0x1 (R12), SEED 0 (R14); the other values are log 3's. -/
def Ctx.reset : Ctx where
  g := Vector.replicate 16 0
  pc := 0
  st := 1
  wid := 0
  levels := 0
  slotgen := 0
  seed := 0
  run := .free
  aborted := false
  tag := 0
  task := Option.none
  part := Option.none
  block := Option.none
  ahead := Option.none
  port := Option.none
  wait := .none
  wakeBy := Option.none
  handle := Option.none
  refused := 0

/-! ### Vector and matrix work -/

/-- Who issued a job, a vector operation or a matrix entry, for its records and its task (R328, R314). -/
structure Issuer where
  pos : Nat
  slotgen : BitVec 32
  pc : BitVec 56
  enc : List Byte
  task : Option (BitVec 16)
  part : Option Nat
  asid : Option Nat
  deriving DecidableEq, Repr

/-- What a vector operation writes: bits of the vat (address, mask, value), flags, and a register (VEXT). -/
structure VecOut where
  writes : List (Nat × Nat × Nat)
  flags : BitVec 5
  reg : Option (Reg × Word)
  deriving DecidableEq, Repr

/-- A vector operation in its core's vector unit: the instruction and its length, its slices with the formats after
FMT, the register operand, the rounding mode, saturation, FTZ and DAZ, SEED and WID, all read at issue (R24, R215),
and the prefix that a trap gives back (R80). `got` holds the vat granules read so far, by number, and `out` what is still
to write once they are all read (R216). -/
structure VecOp where
  id : Nat
  by_ : Issuer
  i : Instr
  len : Nat
  d : Option Slice
  a : Option Slice
  b : Option Slice
  c : Option Slice
  rx : Word
  rm : Nat
  sf : Bool
  ftz : Bool
  daz : Bool
  seed : Word
  wid : Word
  pfx : Option (BitVec 16)
  elems : Nat
  wide : Nat
  start : Nat
  cycles : Nat
  got : List (Nat × List Byte)
  out : Option VecOut
  deriving DecidableEq, Repr

/-- A group of a matrix entry: rows of A, and its B (R243). -/
structure Grp where
  rows : Nat
  b : Slice
  deriving DecidableEq, Repr

inductive MatKind where
  | mma
  | mmas (keep : Keep) (meta_ : List Byte)
  | mmg
  | mzero
  | mst (s32 sf : Bool) (rm : Nat) (seed wid : Word)
  deriving DecidableEq, Repr

/-- A matrix queue entry (R230) with its progress state (R247). `half` is the held half of a chunk, `got` the
streamed granules read for the next step and `cur` those of the granted step, `fail` a read that failed and faults the
entry when its step would start (R248), `replay` the steps that a RESUME repeats, `since` the cycle at which the entry
came to the head. -/
structure MatEntry where
  id : Nat
  by_ : Issuer
  kind : MatKind
  acc : Bool
  a : Slice
  groups : List Grp
  scales : Option (Slice × Slice)
  row0 : Nat
  col0 : Nat
  m : Nat
  n : Nat
  k : Nat
  td : Option Slice
  grp : Nat
  kdone : Nat
  step : Nat
  half : Option (List Val)
  got : List (Nat × List Byte)
  cur : List (Nat × List Byte)
  fail : Option Trap
  granted : Bool
  faulted : Bool
  replay : Nat
  since : Nat
  deriving DecidableEq, Repr

/-! ### Cores, quires and dies -/

/-- A party whose event waits behind a lease (R161): a context, a copy job, the tile fetch of a core's matrix queue,
a core's vector unit, its MST, a remote access of another device or of a context of this one (R354), a context's block
fetch, a request that the Order Point has held (R315), the front end for a virtual function, the host, or a copy that is
written back. -/
inductive Party where
  | ctx (pos : Nat)
  | job (q id : Nat)
  | stream (core : Nat)
  | vec (core : Nat)
  | mst (core : Nat)
  | racc (src : Nat)
  | ownRacc (pos : Nat)
  | fetch (pos : Nat)
  | req (r : CohReq)
  | front (fn : Nat)
  | host
  | copy (c : CopyRef)
  deriving DecidableEq, Repr

/-- A lease entry (R159). `data` holds 128 bytes, `mask` a bit for each; `probes` are the first 8 waiting events, the
others stand in the die's held list (R161, R315). -/
structure Lease where
  owner : Nat
  line : Nat
  grant : Nat
  n : Nat
  data : List Byte
  mask : Nat
  probes : List Party
  deriving DecidableEq, Repr

/-- How a cache holds a line (R310). -/
inductive Hold where
  | none | shared | modified
  deriving DecidableEq, Repr

/-- A line of an L1D, of a COHERENT page or as part of a scoped copy (R304, R314). -/
structure L1Line where
  line : Nat
  coh : Coh
  hold : Hold
  deriving DecidableEq, Repr

/-- A core: lease table, matrix queue, m0 and m1 and their promotion accumulators by 256i + j and by
32768 × n + 256i + j, the vector unit's queue, the L1 TLB and the L1D's lines, oldest first (R26, R159, R215, R229,
R304, R326). -/
structure Core where
  leases : List Lease
  queue : List MatEntry
  acc : Sparse (BitVec 32)
  promo : Sparse (BitVec 32)
  vec : List VecOp
  tlb : List Tlb
  vecFree : Nat
  l1d : List L1Line
  deriving DecidableEq, Repr

def Core.reset : Core where
  leases := []
  queue := []
  acc := []
  promo := []
  vec := []
  tlb := []
  vecFree := 0
  l1d := []

/-- Tile states (R16), in code order. -/
inductive TState where
  | empty | filling | ready | draining | faulted
  deriving DecidableEq, Repr

/-- A producer slot (R16, R205). -/
structure PSlot where
  used : Bool
  src : BitVec 16
  expect : BitVec 32
  arrived : BitVec 32
  deriving DecidableEq, Repr

def PSlot.reset : PSlot := ⟨false, 0, 0, 0⟩

/-- A tile entry; unallocated while `owner` is none (R202). `before` is the state held before a fault (R203). -/
structure Tile where
  owner : Option (BitVec 16)
  dk : Nat
  voff : Nat
  len : Nat
  st : TState
  before : TState
  slots : List PSlot
  deriving DecidableEq, Repr

def Tile.reset : Tile := ⟨none, 0, 0, 0, .empty, .empty, [.reset, .reset, .reset, .reset]⟩

/-- Channel statuses (R25), in the order of their codes. -/
inductive ChSt where
  | idle | active | done | faulted
  deriving DecidableEq, Repr

/-- A copy channel: status, declared range from `lo` of `len` bytes, watermark, and the bytes of the range that
the channel's own jobs have written (R25, R166, R267). Its job count is the number of jobs that name it. -/
structure Chan where
  st : ChSt
  lo : Nat
  len : Nat
  wm : Nat
  filled : Sparse Bool
  deriving DecidableEq, Repr

def Chan.reset : Chan := ⟨.idle, 0, 0, 0, []⟩

inductive JobKind where
  | copyIn | copyOut | copym
  | copyrSend (dev rank quire tile num : Nat) (total sent : Nat) (acked : Bool)
  | copyrRecv (dev rank num total : Nat) (started : Bool) (fmt count : Nat)
  deriving DecidableEq, Repr

/-- A copy job (R255 to R265): `got` the source bytes read so far, `wr` the destination granules already
written (by address as resolved, with the die of a COPYM replica). `srcTile`/`dstTile` name its tiles, and `dk` is its memory
deckle, copied whole (R333). -/
structure Job where
  id : Nat
  by_ : Issuer
  ch : Nat
  kind : JobKind
  src : Slice
  dst : Slice
  srcTile : Option Nat
  dstTile : Option Nat
  dk : BitVec 512
  slot : Option Nat
  got : Sparse (Option Byte)
  wr : List Nat
  landed : Nat
  inbox : List (Nat × List Byte)
  faulted : Bool
  cause : Option Cause
  deriving DecidableEq, Repr

/-- A pending .Q reduction of a Write Queue entry (R191). -/
structure Pend where
  pa : Nat
  op : AtomOp
  sz : Sz
  v : Nat
  coh : Coh
  task : Option (BitVec 16)
  deriving DecidableEq, Repr

/-- A scoped copy: 128 bytes, dirty mask, granule poison, the task whose Fill made it, the partition, and the
mixed mark (R154, R314). -/
structure Copy where
  line : Nat
  data : List Byte
  mask : Nat
  poison : Nat
  task : Option (BitVec 16)
  part : Option Nat
  mixed : Bool
  users : List (BitVec 16)
  deriving DecidableEq, Repr

/-- A directory entry (R312). -/
structure Dir where
  ver : BitVec 8
  owned : Bool
  owner : BitVec 2
  shr : BitVec 4
  deriving DecidableEq, Repr

def Dir.reset : Dir := ⟨0, false, 0, 0⟩

/-- A quire: tile and deckle tables, channels, copy jobs, Write Queue, L1I lines, fetch requests in order, the cycle after
that of the last delivery, L2 TLB, matrix arbiter, the stale-message counter, and of the L2 slice under the tile the lines it holds, oldest first, and
the directory of the lines homed there (R16, R19, R25, R138, R145, R237, R302, R304, R309, R312, R326). -/
structure Quire where
  tiles : Sparse Tile
  deckles : Sparse (BitVec 512)
  chans : Sparse Chan
  jobs : List Job
  copies : List Copy
  pend : List Pend
  l1i : Sparse (List Byte)
  fetches : List (Nat × Nat)
  served : Nat
  tlb : List Tlb
  arbP : Nat
  arbU : Nat
  unitFree : Nat
  stale : BitVec 32
  l2 : List Nat
  dirs : Sparse Dir
  deriving DecidableEq, Repr

def Quire.reset : Quire where
  tiles := []
  deckles := []
  chans := []
  jobs := []
  copies := []
  pend := []
  l1i := []
  fetches := []
  served := 0
  tlb := []
  arbP := 0
  arbU := 0
  unitFree := 0
  stale := 0
  l2 := []
  dirs := []

/-- A write-back in a leaving buffer: the line with its bytes, byte mask, poison and the VER it was granted with
(R313, R319). -/
structure Leaving where
  line : Nat
  ver : BitVec 8
  data : List Byte
  mask : Nat
  poison : Nat
  deriving DecidableEq, Repr

/-- A recall that the home slice has sent and the request that waits for it (R312). -/
structure Recall where
  line : Nat
  owner : Nat
  req : CohReq
  deriving DecidableEq, Repr

/-- A line of a remote-data cache: its partition, its holding and the VER it was granted with (R309, R312). -/
structure RdcLine where
  line : Nat
  part : Option Nat
  hold : Hold
  ver : BitVec 8
  deriving DecidableEq, Repr

/-- A die: Copy Store, walk cache, the Order Point's sequence not yet delivered and its held list, the die's requests
to other dies' Order Points, its remote-data cache's lines, oldest first, the recalls it has sent and its leaving buffer
(R145, R310 to R316, R326). A queue of the die links is the part of `reqs`, `recalls` or `leaving` that concerns one other
die, in its order. -/
structure Die where
  copies : List Copy
  walks : List WalkEntry
  seq : List CohReq
  held : List (Nat × Party)
  reqs : List CohReq
  rdc : List RdcLine
  recalls : List Recall
  leaving : List Leaving
  deriving DecidableEq, Repr

def Die.reset : Die := ⟨[], [], [], [], [], [], [], []⟩

/-! ### Tasks, launches, graphs -/

/-- Where a record's answer acts (R331). -/
inductive Source where
  | ctx
  | job (q id : Nat)
  | matrix (core id : Nat)
  | front
  deriving DecidableEq, Repr

/-- A fault record (R328) with the state of its answer (R330). -/
structure FRec where
  seq : BitVec 64
  trap : Trap
  src : Source
  ch : Nat
  pos : Word
  slotgen : BitVec 32
  pc : BitVec 56
  enc : List Byte
  tile : Nat
  grp : Nat
  kdone : Nat
  slot : Nat
  task : Option (BitVec 16)
  launch : Option Nat
  delivered : Bool
  deriving DecidableEq, Repr

/-- The three forms of an answer (R278, R330). -/
inductive Answer where
  | resume
  | resumeSt (st : Word)
  | abort
  deriving DecidableEq, Repr

/-- An iteration counter (R140). -/
structure IterCtr where
  next : Word
  remain : Word
  p : BitVec 16
  minc : BitVec 32
  deriving DecidableEq, Repr

def IterCtr.reset : IterCtr := ⟨0, 0, 0, 0⟩

/-- A recorded copy job of a parked task (R300, R333). -/
abbrev Recorded := Job

/-- A resident or parked task (R290). `region`, `vatlen` and `savelen` are in 128-byte units; `items` are the
undispatched work identifiers, in order, `wfw` the waiting contexts in order. While parked, its tiles, and its queue
entries by core, are as saved; `savedPriv` holds the device's own bytes written for each saved entry (R335). -/
structure Task where
  tag : BitVec 16
  part : Nat
  fn : Nat
  asid : Nat
  quire : Nat
  launch : Nat
  team : Nat
  cores : Nat
  region : Nat
  vatlen : Nat
  savelen : Nat
  ctrs : List IterCtr
  nextItem : Nat
  endItem : Nat
  wfw : List Nat
  parked : Bool
  since : Nat
  weight : Nat
  prio : Nat
  oldQuire : Option Nat
  savedTiles : List (Nat × Tile)
  savedQueues : List (Nat × List MatEntry)
  savedPriv : List (Nat × List Byte)
  recorded : List Recorded
  held : List (FRec × Answer)
  hasSave : Bool
  late : List Nat
  deriving DecidableEq, Repr

/-- A launch's record as read and checked (R288), and its progress. -/
structure Launch where
  id : Nat
  fn : Nat
  queue : Nat
  entryNo : Nat
  graph : Option (Nat × Nat)
  ord : Bool
  recAddr : Word
  entry : BitVec 56
  levels : Word
  count : Nat
  args : List Word
  done : Word
  savelen : Nat
  qlimit : Nat
  vatlen : Nat
  cores : Nat
  matw : Nat
  teamlv : Nat
  prio : Nat
  dks : List (Nat × BitVec 512)
  teams : Nat
  placed : Nat
  retired : List Nat
  gone : List Nat
  home : Option Nat
  started : Bool
  taken : Nat
  link : Bool
  abort : Option (Nat × Cause)
  ended : Bool
  deriving DecidableEq, Repr

/-- A graph replay (R295, R296): the cycle at which its entry was taken (R291), the nodes that run, and those ended. -/
structure Replay where
  id : Nat
  taken : Nat
  fn : Nat
  queue : Nat
  entryNo : Nat
  ord : Bool
  header : Word
  nodes : Word
  nnode : Nat
  gen : Nat
  running : List (Nat × Nat)
  ended : List Nat
  deriving DecidableEq, Repr

/-- A slot handover in progress on a quire (R298, R299): the outgoing task's cores start at `start`, `inn` is the incoming task,
if its other cores let it run now (log 49); positions already handed over, and the cores whose accumulator exchange runs until
a cycle. -/
structure Handover where
  quire : Nat
  cores : Nat
  out : BitVec 16
  inn : Option (BitVec 16)
  start : Nat
  done : List Nat
  exch : List (Nat × Nat)
  deriving DecidableEq, Repr

/-- A launch queue of a function (R285, R361). -/
structure LQueue where
  base : Word
  log : BitVec 5
  prod : BitVec 32
  cons : BitVec 32
  kick : BitVec 32
  deriving DecidableEq, Repr

def LQueue.reset : LQueue := ⟨0, 0, 0, 0, 0⟩

/-! ### Partitions and records -/

/-- A partition block (R365) and the partition's own records, meter chain and round-robin state (R291, R329,
R371). `recs` are posted and outstanding, `unposted` wait for ring space. -/
structure Part where
  exist_ : Bool
  pgen : BitVec 32
  qcmd : Nat
  busy : Option (Bool × Nat)
  fqbase : Word
  fqlog : BitVec 5
  fqprod : BitVec 32
  fqcons : BitVec 32
  fseq : BitVec 64
  fop : Nat
  fst : Word
  svc : BitVec 16
  age : BitVec 16
  quantum : BitVec 16
  rdcmask : Word
  scopedw : Nat
  migasid : Nat
  nextSeq : BitVec 64
  recs : List FRec
  unposted : List FRec
  rrPtr : Nat
  rrCnt : Nat
  snapSeq : BitVec 64
  prev : BitVec 384
  final : Option (List Byte)
  deriving DecidableEq, Repr

def Part.reset : Part where
  exist_ := false
  pgen := 0
  qcmd := 0
  busy := none
  fqbase := 0
  fqlog := 0
  fqprod := 0
  fqcons := 0
  fseq := 0
  fop := 0
  fst := 0
  svc := 0
  age := 0
  quantum := 0
  rdcmask := 0
  scopedw := 0
  migasid := 0
  nextSeq := 0
  recs := []
  unposted := []
  rrPtr := 0
  rrCnt := 0
  snapSeq := 0
  prev := 0
  final := none

/-- A root table entry (R320): valid, owning partition, physical address of the top table. -/
structure Root where
  valid : Bool
  part : Nat
  top : Nat
  deriving DecidableEq, Repr

def Root.reset : Root := ⟨false, 0, 0⟩

/-- The queue, scheduling and translation registers of the host, and the work the front end holds (R285 to
R303, R320, R361, R365 to R368). `owner` gives the partition of a quire plus 1, or 0; `barriers` are the words, by address
divided by 8, on which a BAR instruction has been performed (R300, log 34). -/
structure Front where
  queues : Sparse LQueue
  vdt : Sparse (BitVec 128)
  pending : Sparse (BitVec 16)
  roots : Sparse Root
  parts : Sparse Part
  owner : Sparse Nat
  perm : Sparse (BitVec 128)
  gran : Sparse (BitVec 16)
  zeroing : List (Nat × BitVec 16)
  tasks : List Task
  launches : List Launch
  replays : List Replay
  handovers : List Handover
  nextId : Nat
  tagSeq : Nat
  flushing : List (Nat × BitVec 16)
  linksDown : List (Nat × Nat)
  barriers : Sparse Bool
  deriving DecidableEq, Repr

def Front.reset : Front where
  queues := []
  vdt := []
  pending := []
  roots := []
  parts := []
  owner := []
  perm := []
  gran := []
  zeroing := []
  tasks := []
  launches := []
  replays := []
  handovers := []
  nextId := 0
  tagSeq := 0
  flushing := []
  linksDown := []
  barriers := []

/-! ### Host Port, device control and meters -/

/-- A request that the Host Port has accepted for a PCIe mapping (R172, R192): its number, whose it is (for a context
with its SLOTGEN), its function, the address as issued and its access kind; `wait` marks a non-posted one, which a
completion answers, and `msi` an MSI-X write by function and vector (R363, R364). -/
structure HostReq where
  id : Nat
  by_ : Party
  gen : BitVec 32
  part : Option Nat
  fn : Nat
  pa : Nat
  len : Nat
  addr : Word
  acc : Acc
  op : GOp
  wait : Bool
  msi : Option (Nat × Nat)
  deriving DecidableEq, Repr

/-- A measurement block (R372): its index, its MeasurementSpecification, its value type and its value. -/
structure MeasBlock where
  index : Nat
  spec : Byte
  vtype : Byte
  value : List Byte
  deriving DecidableEq, Repr

/-- The body of an answer to GET_MEASUREMENTS (R372): the block count, measurement blocks, or ERROR InvalidRequest. -/
inductive MeasBody where
  | count (n : Nat)
  | blocks (l : List MeasBlock)
  | invalidRequest
  deriving DecidableEq, Repr

/-- An answer of the root of trust, with its signature where one was asked for (R372). -/
structure MeasAnswer where
  who : Requester
  body : MeasBody
  signature : Option (BitVec 768)
  deriving DecidableEq, Repr

/-- Device control (R374 to R377), the Host Port's queue and what the device has sent to the host (R172, R364),
the IDE and AtomicOp enables (R363), and the answers of the root of trust (R372). -/
structure Dev where
  bstep : Nat
  booterr : Bool
  ecode : Nat
  ready : Bool
  idereq : Bool
  ide : Sparse Bool
  atomicEn : Sparse Bool
  pwrcap : BitVec 7
  pwrnow : BitVec 16
  trip : Bool
  hot : Bool
  tj : BitVec 10
  stageOff : BitVec 9
  stage : Sparse Byte
  staged : Bool
  cecnt : Sparse (BitVec 32)
  hostQ : List HostReq
  hostSent : List HostReq
  hostHeld : List HostAcc
  msix : List (Nat × Nat)
  measured : Sparse (BitVec 384)
  epoch : BitVec 256
  resets : Nat
  answers : List MeasAnswer
  deriving DecidableEq, Repr

/-- Device control right after cold reset: every bit 0, PWRCAP 120 (R377); log 3 names the others. -/
def Dev.reset : Dev where
  bstep := 0
  booterr := false
  ecode := 0
  ready := false
  idereq := false
  ide := []
  atomicEn := []
  pwrcap := 120
  pwrnow := 0
  trip := false
  hot := false
  tj := 0
  stageOff := 0
  stage := []
  staged := false
  cecnt := []
  hostQ := []
  hostSent := []
  hostHeld := []
  msix := []
  measured := []
  epoch := 0
  resets := 0
  answers := []

/-- The Assize: counters by 48 × partition + index, and the events of the last 64 cycles (R282, R369). -/
structure Assize where
  total : Sparse (BitVec 64)
  recent : List (Nat × Nat × Nat)
  deriving DecidableEq, Repr

/-! ### Fabric -/

/-- A packet the device holds until a receipt covers it (R346, R348): tries made, the slot, plane and next hop
chosen, its plane and place in the window it stands in, whether it is forwarded as a relay, and when it became ready. -/
structure OutPkt where
  pkt : Packet
  tries : Nat
  slot : Nat
  plane : Nat
  toward : Nat
  sentAs : Option (Nat × Nat)
  relayed : Bool
  readyNo : Nat
  readySlot : Nat
  job : Option (Nat × Nat)
  pos : Option Nat
  deriving DecidableEq, Repr

/-- A pair channel by destination and class (R349, R350, R356): next SEQ and packet count as a source, last ACK
received, NEXT, the reorder window, the NEXT last sent, and the remote access at NEXT under way here. -/
structure PairCh where
  seq : BitVec 32
  count : BitVec 64
  ack : BitVec 32
  next : BitVec 32
  window : List Arrival
  told : BitVec 32
  work : Option Work
  deriving DecidableEq, Repr

def PairCh.reset : PairCh := ⟨0, 0, 0, 0, [], 0, none⟩

/-- A session of R357: partition key, device, the numbers of the keys by which this device sends and receives, the newest
phase, and, while the old phase is still held, the classes on which a packet of the new one has been delivered. -/
structure Session where
  pkey : BitVec 16
  dev : BitVec 10
  sendKey : Nat
  recvKey : Nat
  phase : Bool
  old : Option (List Nat)
  deriving DecidableEq, Repr

/-- The fabric block and the fabric's traffic (R336 to R358). CAL holds only the entries that software has
written; the others are the default calendar's (R339). `open_` tells that the slot's data window is open (R336, R346), and
`rcpt` is the receipt being made for each plane. -/
structure Fabric where
  fid : BitVec 20
  state : Nat
  gensel : Bool
  err : Bool
  slot : Nat
  open_ : Bool
  discnt : BitVec 32
  cal : Sparse (Option (BitVec 10))
  pkeyt : Sparse (BitVec 32)
  rcells : Sparse (BitVec 32)
  rtab0 : Sparse (BitVec 128)
  rtab1 : Sparse (BitVec 128)
  rmap : Sparse (BitVec 16)
  chans : Sparse PairCh
  out : List OutPkt
  made : Nat
  failed : List Nat
  heldAt : Sparse Nat
  due : Sparse Nat
  rcpt : Sparse (List Bool)
  sessions : List Session
  jobNo : Sparse (BitVec 16)
  spdmIn : List Packet
  discarded : List (Nat × Nat)
  deriving DecidableEq, Repr

def Fabric.reset : Fabric where
  fid := 0
  state := 0
  gensel := false
  err := false
  slot := 0
  open_ := false
  discnt := 0
  cal := []
  pkeyt := []
  rcells := []
  rtab0 := []
  rtab1 := []
  rmap := []
  chans := []
  out := []
  made := 0
  failed := []
  heldAt := []
  due := []
  rcpt := []
  sessions := []
  jobNo := []
  spdmIn := []
  discarded := []

/-! ### Turns -/

/-- What the machine does next: a context's issue slot, an event, or the passing of one core cycle (log 1). -/
inductive Turn where
  | issue (pos : Nat)
  | event (i : Instr)
  | tick
  deriving DecidableEq, Repr

end Sys2Proof.Machine
end

