-- ==== Sys2Proof/Machine/State.lean ====
section
/-! DEFINITION. The whole machine's state, its state at reset, and the reasons a step can stop. -/
namespace Sys2Proof.Machine

/-- Why a step has no successor. Both cases are SAFE: no claim about a next state follows from them. -/
inductive Fault where
  /-- Raised by every event's meaning when what the spec says causes the event has not arisen in this state; the
  text names what is missing. The turn is no move of the machine (R146). Safe. -/
  | notEnabled (what : String)
  /-- Raised by `step` for an issue turn of a context that is not in the rotation, has issued in this cycle, or
  whose fetch block has not arrived (R138, R284). Safe. -/
  | notReady
  /-- Raised by `step` when THERM.TRIP has stopped issue on every core (R376). Safe. -/
  | tripped
  deriving DecidableEq, Repr

/-- Why an instruction has no meaning. -/
inductive Refusal where
  /-- Raised by an arm of `exec` whose instruction has not been given its meaning yet. Safe. -/
  | notModelled (mnemonic : String)
  deriving DecidableEq, Repr

/-- The machine. `agenda` is the order of moves to come, `cur` the position whose instruction `exec` runs,
`issued` the positions that have issued in this cycle, `shown` those whose records have been presented in it, `taken` the
sources whose events the front end's arbiter has taken in it (R284, R287, R329), and `freeCtr` numbers the free values read
so far: these are the model's own (log 1, log 2). The other fields are the spec's. -/
structure State where
  agenda : List Turn
  cur : Nat
  issued : List Nat
  shown : List Nat
  taken : List Nat
  freeCtr : Nat
  cyc : Nat
  ctxs : Sparse Ctx
  cores : Sparse Core
  quires : Sparse Quire
  dies : Sparse Die
  mem : Memory
  poison : Sparse Bool
  releases : List (Nat × Party)
  front : Front
  dev : Dev
  assize : Assize
  fabric : Fabric
  deriving DecidableEq, Repr

/-- Right after cold reset (R374): every table empty, every context FREE, the fabric OFF, READY 0. -/
def State.reset : State where
  agenda := []
  cur := 0
  issued := []
  shown := []
  taken := []
  freeCtr := 0
  cyc := 0
  ctxs := []
  cores := []
  quires := []
  dies := []
  mem := []
  poison := []
  releases := []
  front := .reset
  dev := .reset
  assize := ⟨[], []⟩
  fabric := .reset

end Sys2Proof.Machine
end

