-- ==== Sys2Proof/Machine/Base.lean ====
section
/-! DEFINITION. The named operations over the state that everything else stands on: reading and writing a context, a
core, a quire or a die; registers, predicates and ST; a position's partition and task; the physical map; counting for the
Assize; poison (R8 to R13, R306, R319, R369). -/
namespace Sys2Proof.Machine

/-- The outcome type of every meaning. -/
abbrev Out := Host.Outcome State Fault Refusal

/-! ### Positions (R8) -/

def quireOf (pos : Nat) : Nat := pos / 128
def dieOf (pos : Nat) : Nat := pos / 4096
def coreOf (pos : Nat) : Nat := pos / 16
def slotOf (pos : Nat) : Nat := pos % 16
def dieOfQuire (q : Nat) : Nat := q / 32
def quireOfCore (core : Nat) : Nat := core / 8

/-! ### Parts of the state -/

def State.ctx (s : State) (p : Nat) : Ctx := Sparse.get Ctx.reset s.ctxs p
def State.setCtx (s : State) (p : Nat) (c : Ctx) : State := { s with ctxs := Sparse.set Ctx.reset s.ctxs p c }
def State.core (s : State) (k : Nat) : Core := Sparse.get Core.reset s.cores k
def State.setCore (s : State) (k : Nat) (c : Core) : State := { s with cores := Sparse.set Core.reset s.cores k c }
def State.quire (s : State) (q : Nat) : Quire := Sparse.get Quire.reset s.quires q
def State.setQuire (s : State) (q : Nat) (x : Quire) : State :=
  { s with quires := Sparse.set Quire.reset s.quires q x }
def State.die (s : State) (d : Nat) : Die := Sparse.get Die.reset s.dies d
def State.setDie (s : State) (d : Nat) (x : Die) : State := { s with dies := Sparse.set Die.reset s.dies d x }
def State.part (s : State) (n : Nat) : Part := Sparse.get Part.reset s.front.parts n
def State.setFront (s : State) (f : Front) : State := { s with front := f }
def State.setPart (s : State) (n : Nat) (p : Part) : State :=
  s.setFront { s.front with parts := Sparse.set Part.reset s.front.parts n p }
def State.setMem (s : State) (m : Memory) : State := { s with mem := m }
def State.setDev (s : State) (d : Dev) : State := { s with dev := d }
def State.setFabric (s : State) (f : Fabric) : State := { s with fabric := f }
def State.setAssize (s : State) (a : Assize) : State := { s with assize := a }

/-- A free value's number, and the state that has consumed it (log 2). -/
def State.fresh (s : State) : Nat × State := (s.freeCtr, { s with freeCtr := s.freeCtr + 1 })

/-! ### Registers, predicates and ST (R10 to R13) -/

def Ctx.reg (c : Ctx) (r : Reg) : Word := c.g[r.toNat]'r.isLt

def Ctx.setReg (c : Ctx) (r : Reg) (v : Word) : Ctx := { c with g := c.g.set r.toNat v r.isLt }

/-- Bits [lo + n − 1 : lo] of a word replaced by the low bits of `v`. -/
def putBits (w : Word) (lo n v : Nat) : Word :=
  BitVec.ofNat 64 (w.toNat - bits w.toNat lo n * 2 ^ lo + v % 2 ^ n * 2 ^ lo)

def stField (st : Word) (lo n : Nat) : Nat := bits st.toNat lo n

/-- A predicate's value: p0 always reads 1 (R11). -/
def predOf (st : Word) (p : Pred) : Bool := p == 0 || st.getLsbD p.toNat

/-- Writing a predicate: a write to p0 is discarded (R11). -/
def putPred (st : Word) (p : Pred) (v : Bool) : Word := if p = 0 then st else putBits st p.toNat 1 (bit1 v)

def Ctx.setPred (c : Ctx) (p : Pred) (v : Bool) : Ctx := { c with st := putPred c.st p v }

/-- The width of level i (R9). -/
def levelWidth (levels : Word) (i : Nat) : Nat := bits levels.toNat (7 * i) 7

/-- The widths up to the first zero. -/
def levelWidths (levels : Word) : List Nat := ((List.range 6).map (levelWidth levels)).takeWhile (· != 0)

/-- WID as it reads: bits above the last level are 0. -/
def widRead (c : Ctx) : Word := BitVec.ofNat 64 (bits c.wid.toNat 0 (min 64 (levelWidths c.levels).sum))

def stLC (st : Word) : Nat := stField st 27 2
/-- RM; a reserved value, which only an answer's ST can put there (R278), rounds in a free mode (log 30). -/
def stRM (st : Word) : Nat :=
  let r := stField st 24 3
  if r ≤ 4 then r else Config.reservedRm r % 5
def stPP (st : Word) : Bool := st.getLsbD 49
def stPFX (st : Word) : BitVec 16 := st.extractLsb' 32 16
def stSV (st : Word) : Bool := st.getLsbD 63
def stFTZ (st : Word) : Bool := st.getLsbD 15
def stDAZ (st : Word) : Bool := st.getLsbD 14
def clearPP (st : Word) : Word := putBits st 49 1 0

/-- The bits of ST that are fields of R12; the others are reserved and read 0 (R5). -/
def stFields : Word := 0x8002FFFF3F1FC0FF

/-- ST as a message or a save area gives it to a slot: LC is 0, P0 reads 1 (R5, R11, R32, R334). -/
def stSaved (w : Word) : Word := putBits (w &&& stFields) 27 2 0 ||| 1

/-- OR sticky flags into ST: bit 0 NX, 1 UF, 2 OF, 3 DZ, 4 NV (R12). -/
def orFlags (st : Word) (f : BitVec 5) : Word := st ||| (f.setWidth 64 <<< 16)

/-- An odd register names no pair (R75). -/
def regOdd (r : Reg) : Bool := r.getLsbD 0

/-- The second register of a pair. -/
def regSucc (r : Reg) : Reg := r + 1

/-! ### The partition and task of a position -/

def taskOf (s : State) (tag : BitVec 16) : Option Task := s.front.tasks.find? (·.tag == tag)

def State.setTask (s : State) (t : Task) : State :=
  s.setFront { s.front with tasks := s.front.tasks.map fun u => if u.tag = t.tag then t else u }

/-- The partition that holds a quire (R365). -/
def partOfQuire (s : State) (q : Nat) : Option Nat :=
  match Sparse.get 0 s.front.owner q with
  | 0 => none
  | n + 1 => some n

/-- The partition a context works for: its task's, its migrated-in thread's, else its quire's. -/
def partOf (s : State) (pos : Nat) : Option Nat :=
  let c := s.ctx pos
  match c.task.bind (taskOf s) with
  | some t => some t.part
  | none => match c.part with
    | some n => some n
    | none => partOfQuire s (quireOf pos)

/-- The address-space identifier a context translates under (R320): its task's, or the MIGASID of the
partition of a thread that arrived by migration. -/
def asidOf (s : State) (pos : Nat) : Option Nat :=
  let c := s.ctx pos
  match c.task.bind (taskOf s) with
  | some t => some t.asid
  | none => (partOf s pos).map fun n => (s.part n).migasid

/-- A quire that QCMD is draining and scrubbing (R367). -/
def inScrub (s : State) (q : Nat) : Bool := s.front.parts.any fun e => match e.2.busy with
  | some (_, k) => k == q
  | none => false

/-- The quires of a partition, ascending (R365). -/
def quiresOf (s : State) (n : Nat) : List Nat :=
  (s.front.owner.filter fun e => e.2 == n + 1).map (·.1)

/-! ### The Assize (R369, R370) -/

/-- Add `n` to a counter of a partition; the event is remembered for the counting lag of R282. -/
def State.tally (s : State) (part : Option Nat) (idx n : Nat) : State :=
  match part with
  | none => s
  | some p =>
    if n = 0 then s
    else s.setAssize
      { total := Sparse.modify 0 s.assize.total (48 * p + idx) (· + BitVec.ofNat 64 n)
        recent := (s.cyc, 48 * p + idx, n) :: s.assize.recent.filter fun e => s.cyc < e.1 + 64 }

/-! ### The physical map (R306) -/

/-- The granule number 178 × die + index of an HBM byte, if it lies in a mapped granule (R306). -/
def granuleOf (pa : Nat) : Option Nat :=
  if pa < 0x10000000000 then
    let g := pa % 0x4000000000 / 0x40000000
    if g < 178 then some (178 * (pa / 0x4000000000) + g) else none
  else none

/-- Whether HBM bytes lie in granules assigned to a partition (R308, R368). -/
def inPartHbm (s : State) (n pa len : Nat) : Bool :=
  let ok := fun a => match granuleOf a with
    | some k => let e := Sparse.get 0 s.front.gran k
      e.getLsbD 15 && bits e.toNat 0 7 == n
    | none => false
  ok pa && ok (pa + (len - 1))

inductive Range where
  | hbm (die : Nat) | vat (q : Nat) | cxl | pcie | none
  deriving DecidableEq, Repr

def rangeOf (pa : Nat) : Range :=
  if pa < 0x10000000000 then (if (granuleOf pa).isSome then .hbm (pa / 0x4000000000) else .none)
  else if pa < 0x10040000000 then .vat ((pa - 0x10000000000) / 0x800000)
  else if pa < 0x8000000000000 then .none
  else if pa < 0xC000000000000 then .cxl
  else if pa < 0x10000000000000 then .pcie
  else .none

/-- The first physical byte of a quire's vat. -/
def vatBase (q : Nat) : Nat := 0x10000000000 + q * 0x800000

/-- The granule size of the memory that holds a physical address (R2). -/
def granSize (pa : Nat) : Nat :=
  match rangeOf pa with
  | .cxl => 16
  | .pcie => 8
  | _ => 32

/-! ### Poison (R319) -/

def poisoned (s : State) (pa len : Nat) : Bool :=
  len != 0 && (List.range ((pa + len - 1) / 32 - pa / 32 + 1)).any fun i => Sparse.get false s.poison (pa / 32 + i)

/-- A write event of home memory: whole granules it covers lose their poison. -/
def homeWrite (s : State) (pa : Nat) (data : List Byte) : State :=
  let full := (List.range (data.length / 32 + 1)).filter fun i =>
    pa ≤ 32 * (pa / 32 + i) && 32 * (pa / 32 + i) + 32 ≤ pa + data.length
  { s with
    mem := Memory.writeBytes s.mem pa data
    poison := full.foldl (fun m i => Sparse.set false m (pa / 32 + i) false) s.poison }

end Sys2Proof.Machine
end

