-- ==== Sys2Proof/Machine/Flags.lean ====
section
/-! DEFINITION. Number formats, exact values, rounding and the flags: RoundTo and Overflow, the exact operations,
the transcendental functions correctly rounded, conversions, and the stochastic hash (R85 to R102). -/
namespace Sys2Proof.Machine

/-! ### Formats (R19, R85, R86) -/

/-- Element width in bits (R19). -/
def fmtBits : Fmt → Nat
  | .f64 | .s64 | .n64 => 64
  | .f32 | .s32 | .n32 => 32
  | .bf16 | .f16 | .s16 | .n16 => 16
  | .e3m2 | .e2m3 => 6
  | .e2m1 | .s4 | .bs4 => 4
  | .e4m3 | .e5m2 | .bs8 | .e8m0 | .s8 | .n8 => 8

def fmtSigned : Fmt → Bool
  | .s4 | .s8 | .s16 | .s32 | .s64 => true
  | _ => false

def fmtInt : Fmt → Bool
  | .s4 | .s8 | .s16 | .s32 | .s64 | .n8 | .n16 | .n32 | .n64 => true
  | _ => false

def fmtBlock : Fmt → Bool
  | .bs8 | .bs4 => true
  | _ => false

/-- The format of the elements of a block-scaled format (R89), else the format itself. -/
def elemFmt : Fmt → Fmt
  | .bs8 => .e4m3
  | .bs4 => .e2m1
  | f => f

/-- A floating format's exponent and fraction widths (R86). -/
structure FParam where
  e : Nat
  t : Nat
  deriving DecidableEq, Repr

def fparam : Fmt → Option FParam
  | .f64 => some ⟨11, 52⟩ | .f32 => some ⟨8, 23⟩ | .bf16 => some ⟨8, 7⟩ | .f16 => some ⟨5, 10⟩
  | .e4m3 => some ⟨4, 3⟩ | .e5m2 => some ⟨5, 2⟩ | .e3m2 => some ⟨3, 2⟩ | .e2m3 => some ⟨2, 3⟩
  | .e2m1 => some ⟨2, 1⟩ | _ => none

def fmtFloat (f : Fmt) : Bool := (fparam f).isSome

def FParam.bias (p : FParam) : Nat := 2 ^ (p.e - 1) - 1
def FParam.emin (p : FParam) : Int := 1 - (p.bias : Int)
def FParam.sign (p : FParam) : Nat := 2 ^ (p.e + p.t)

def hasInf : Fmt → Bool
  | .f64 | .f32 | .bf16 | .f16 | .e5m2 => true
  | _ => false

def hasNaN (f : Fmt) : Bool := hasInf f || f == .e4m3

/-- The encoding of the largest finite value, sign 0 (R86). -/
def maxEnc (f : Fmt) (p : FParam) : Nat :=
  if hasInf f then (2 ^ p.e - 1) * 2 ^ p.t - 1
  else if f = .e4m3 then 0x7E
  else 2 ^ (p.e + p.t) - 1

def canonNaN (f : Fmt) (p : FParam) : Nat :=
  if f = .e4m3 then 0x7F else (2 ^ p.e - 1) * 2 ^ p.t + 2 ^ (p.t - 1)

/-- R93: the formats on which DAZ and FTZ act. -/
def flushable : Fmt → Bool
  | .f64 | .f32 | .bf16 | .f16 => true
  | _ => false

/-! ### Values -/

/-- The value of a floating encoding (R87). -/
def floatVal (f : Fmt) (w : Nat) : Val :=
  match fparam f with
  | none => .nan
  | some p =>
    let s := bits w (p.e + p.t) 1 == 1
    let e := bits w p.t p.e
    let t := bits w 0 p.t
    if hasInf f ∧ e = 2 ^ p.e - 1 then (if t = 0 then .inf s else .nan)
    else if f = .e4m3 ∧ e = 15 ∧ t = 7 then .nan
    else if e = 0 then .fin s t (p.emin - p.t)
    else .fin s (2 ^ p.t + t) ((e : Int) - p.bias - p.t)

/-- R93: a subnormal source read as a zero of its sign when DAZ acts. -/
def dazVal (f : Fmt) (daz : Bool) (v : Val) : Val :=
  match v, fparam f with
  | .fin s n e, some p => if daz && flushable f && n < 2 ^ p.t then .fin s 0 e else v
  | _, _ => v

/-- The integer of an integer encoding (R85). -/
def intVal (f : Fmt) (w : Nat) : Int :=
  let n := fmtBits f
  let x := w % 2 ^ n
  if fmtSigned f ∧ 2 ^ (n - 1) ≤ x then (x : Int) - 2 ^ n else x

def intMin (f : Fmt) : Int := if fmtSigned f then -(2 ^ (fmtBits f - 1)) else 0
def intMax (f : Fmt) : Int := if fmtSigned f then 2 ^ (fmtBits f - 1) - 1 else 2 ^ fmtBits f - 1

/-- Two's complement of `n` bits. -/
def wrapTo (n : Nat) (x : Int) : Nat := (x % (2 ^ n : Int)).toNat

def clampTo (f : Fmt) (x : Int) : Int := max (intMin f) (min (intMax f) x)

/-- An integer in a format: wrapped, or saturated under SF (R100, R116, R213). -/
def intEnc (f : Fmt) (sat : Bool) (x : Int) : Nat := wrapTo (fmtBits f) (if sat then clampTo f x else x)

def valOfInt (x : Int) : Val := .fin (x < 0) x.natAbs 0

/-! ### Rounding (R94 to R97) -/

/-- The collector of R96: NX, UF, OF, DZ, NV from bit 0 upward (R12). -/
abbrev Flags := BitVec 5
def flNX : Flags := 1
def flUF : Flags := 2
def flOF : Flags := 4
def flDZ : Flags := 8
def flNV : Flags := 16

/-- RM codes (R12). -/
def rmRNE : Nat := 0
def rmRZ : Nat := 1
def rmRU : Nat := 2
def rmRD : Nat := 3
def rmSR : Nat := 4

/-- The control of RoundTo (R96). -/
structure Ctl where
  mode : Nat
  sat : Bool
  flush : Bool
  h : Nat
  deriving DecidableEq, Repr

def Ctl.rne : Ctl := ⟨rmRNE, false, false, 0⟩

/-- An exact value: the first component, plus a positive part below one unit of its last place when `more`. -/
structure Exact where
  v : Val
  more : Bool
  deriving DecidableEq, Repr

def Exact.of (v : Val) : Exact := ⟨v, false⟩

def signed (p : FParam) (s : Bool) (w : Nat) : Nat := w + (if s then p.sign else 0)

/-- Overflow of R97. -/
def overflow (f : Fmt) (p : FParam) (s : Bool) (c : Ctl) : Nat × Flags :=
  let toMax := c.sat || !hasNaN f || c.mode == rmRZ || (c.mode == rmRU && s) || (c.mode == rmRD && !s)
  (signed p s (if toMax then maxEnc f p else if f = .e4m3 then 0x7F else maxEnc f p + 1), flOF ||| flNX)

/-- Whether RoundTo takes `hi`: `r` is the remainder in units of which `u` make the spacing, `more` a further
part of one unit, `lo` the lower multiple (R96). -/
def roundsUp (c : Ctl) (s : Bool) (lo r u : Nat) (more : Bool) : Bool :=
  if c.mode = rmRZ then false
  else if c.mode = rmRU then !s
  else if c.mode = rmRD then s
  else if c.mode = rmSR then c.h < r * 2 ^ 32 / u
  else 2 * r > u || (2 * r == u && (more || lo % 2 == 1))

/-- RoundTo(x, F, c) of R96 for a floating F. -/
def roundTo (f : Fmt) (x : Exact) (c : Ctl) : Nat × Flags :=
  match fparam f with
  | none => (0, 0)
  | some p =>
    match x.v with
    | .nan => if hasNaN f then (canonNaN f p, 0) else (0, flNV)
    | .inf s =>
      if hasInf f then (signed p s (maxEnc f p + 1), 0)
      else if f = .e4m3 ∧ !c.sat then (signed p s 0x7F, 0)
      else (signed p s (maxEnc f p), 0)
    | .fin s n e =>
      if n = 0 ∧ !x.more then (signed p s 0, 0)
      else
        let top : Int := (Nat.log2 n : Int) + e
        let tiny := n == 0 || top < p.emin
        if tiny && c.flush then (signed p s 0, flUF ||| flNX)
        else
          let ex := if tiny then p.emin else top
          let sh : Int := ex - p.t - e
          let base := (ex - p.emin).toNat * 2 ^ p.t
          if sh ≤ 0 then
            let w := n * 2 ^ (-sh).toNat + base
            if maxEnc f p < w then overflow f p s c else (signed p s w, 0)
          else
            let u := 2 ^ sh.toNat
            let lo := n / u
            let r := n % u
            if r = 0 ∧ !x.more then
              if maxEnc f p < lo + base then overflow f p s c else (signed p s (lo + base), 0)
            else
              let fl := if tiny then flNX ||| flUF else flNX
              let w := (if roundsUp c s lo r u x.more then lo + 1 else lo) + base
              if maxEnc f p < w then
                let o := overflow f p s c
                (o.1, o.2 ||| fl)
              else (signed p s w, fl)

/-! ### Exact operations (R92, R95) -/

def negVal : Val → Val
  | .nan => .nan
  | .inf s => .inf !s
  | .fin s n e => .fin (!s) n e

def signedMag (s : Bool) (n : Nat) : Int := if s then -(n : Int) else n

/-- x + y, exact; the sign of a zero sum by R95; ∞ − ∞ sets NV. -/
def addVal (mode : Nat) : Val → Val → Val × Flags
  | .nan, _ | _, .nan => (.nan, 0)
  | .inf s, .inf t => if s = t then (.inf s, 0) else (.nan, flNV)
  | .inf s, .fin .. => (.inf s, 0)
  | .fin .., .inf t => (.inf t, 0)
  | .fin s n e, .fin t m d =>
    let lo := min e d
    let z := signedMag s (n * 2 ^ (e - lo).toNat) + signedMag t (m * 2 ^ (d - lo).toNat)
    if z = 0 then
      let bothZero := n == 0 && m == 0
      let neg := if mode = rmRD then !(bothZero && !s && !t) else bothZero && s && t
      (.fin neg 0 lo, 0)
    else (.fin (z < 0) z.natAbs lo, 0)

/-- x × y, exact; 0 × ∞ sets NV. -/
def mulVal : Val → Val → Val × Flags
  | .nan, _ | _, .nan => (.nan, 0)
  | .inf s, .inf t => (.inf (s != t), 0)
  | .inf s, .fin t m _ => if m = 0 then (.nan, flNV) else (.inf (s != t), 0)
  | .fin s n _, .inf t => if n = 0 then (.nan, flNV) else (.inf (s != t), 0)
  | .fin s n e, .fin t m d => (.fin (s != t) (n * m) (e + d), 0)

/-- x / y to 160 further bits, the rest in `more`. -/
def divVal : Val → Val → Exact × Flags
  | .nan, _ | _, .nan => (.of .nan, 0)
  | .inf _, .inf _ => (.of .nan, flNV)
  | .inf s, .fin t _ _ => (.of (.inf (s != t)), 0)
  | .fin s _ e, .inf t => (.of (.fin (s != t) 0 e), 0)
  | .fin s n e, .fin t m d =>
    if m = 0 then (if n = 0 then (.of .nan, flNV) else (.of (.inf (s != t)), flDZ))
    else
      let k := Nat.log2 m + 160
      (⟨.fin (s != t) (n * 2 ^ k / m) (e - d - k), n * 2 ^ k % m != 0⟩, 0)

/-- The integer square root of a number below 4^bits, bit by bit from `r`. -/
def isqrtGo (n : Nat) : Nat → Nat → Nat
  | 0, r => r
  | b + 1, r => let r' := r + 2 ^ b; isqrtGo n b (if r' * r' ≤ n then r' else r)

def isqrt (n : Nat) : Nat := isqrtGo n (Nat.log2 n / 2 + 1) 0

/-- The square root; a value below zero sets NV, and the root of a zero keeps its sign. -/
def sqrtVal : Val → Exact × Flags
  | .nan => (.of .nan, 0)
  | .inf s => if s then (.of .nan, flNV) else (.of (.inf false), 0)
  | .fin s n e =>
    if n = 0 then (.of (.fin s 0 e), 0)
    else if s then (.of .nan, flNV)
    else
      let n' := n * 2 ^ ((e % 2).toNat + 240)
      let r := isqrt n'
      (⟨.fin false r ((e - e % 2 - 240) / 2), r * r != n'⟩, 0)

/-- 1 / √x: DZ on a zero, whose result is an infinity of its sign; NV below zero (R92, R217). -/
def rsqrtVal : Val → Exact × Flags
  | .nan => (.of .nan, 0)
  | .inf s => if s then (.of .nan, flNV) else (.of (.fin false 0 0), 0)
  | .fin s n e =>
    if n = 0 then (.of (.inf s), flDZ)
    else if s then (.of .nan, flNV)
    else
      let n' := n * 2 ^ (e % 2).toNat
      let k := Nat.log2 n' + 160
      let r := isqrt (2 ^ (2 * k) / n')
      (⟨.fin false r (-((e - e % 2) / 2) - k), r * r * n' != 2 ^ (2 * k)⟩, 0)

/-- Multiply in the roots 2^(1/2), 2^(1/4), … chosen by the leading `b` bits of the fraction `f`, in fixed point
with `p` fraction bits, rounding down; `root` is the current root. -/
def exp2Go (p f : Nat) : Nat → Nat → Nat → Nat
  | 0, _, acc => acc
  | b + 1, root, acc =>
    let root' := isqrt (root * 2 ^ p)
    exp2Go p f b root' (if bits f b 1 = 1 then acc * root' / 2 ^ p else acc)

/-- 2^f for a fraction f = n / 2^m, n below 2^m: floor of the value with 160 fraction bits. The bits beyond are
computed to 480; the manual asks for correct rounding (R94), which needs no more for any operand tried
(UNVERIFIED, log 6). -/
def exp2Frac (n m : Nat) : Nat := (exp2Go 480 n m (2 ^ 481) (2 ^ 480) + 2 ^ 200) / 2 ^ 320

/-- 2^x (R217). -/
def exp2Val : Val → Exact × Flags
  | .nan => (.of .nan, 0)
  | .inf s => (.of (if s then .fin false 0 0 else .inf false), 0)
  | .fin s n e =>
    if n = 0 then (.of (.fin false 1 0), 0)
    else if 0 ≤ e then
      let k : Int := n * 2 ^ (min e 20).toNat
      (.of (.fin false 1 (if s then -(min k 1048576) else min k 1048576)), 0)
    else if (Nat.log2 n : Int) + e < -120 then
      (if s then ⟨.fin false (2 ^ 130 - 1) (-130), true⟩ else ⟨.fin false (2 ^ 130) (-130), true⟩, 0)
    else
      let m := (-e).toNat
      let i : Int := (n / 2 ^ m : Nat)
      let f := n % 2 ^ m
      if f = 0 then (.of (.fin false 1 (if s then -i else i)), 0)
      else if s then (⟨.fin false (exp2Frac (2 ^ m - f) m) (-i - 1 - 160), true⟩, 0)
      else (⟨.fin false (exp2Frac f m) (i - 160), true⟩, 0)

/-- Bits of log2 of a mantissa in [1, 2) by repeated squaring in fixed point with `p` fraction bits. -/
def log2Go (p : Nat) : Nat → Nat → Nat → Nat
  | 0, _, acc => acc
  | b + 1, m, acc =>
    let m' := m * m / 2 ^ p
    if 2 ^ (p + 1) ≤ m' then log2Go p b (m' / 2) (2 * acc + 1) else log2Go p b m' (2 * acc)

/-- log2 of x (R217): DZ on a zero, whose result is −∞; NV below zero. -/
def log2Val : Val → Exact × Flags
  | .nan => (.of .nan, 0)
  | .inf s => if s then (.of .nan, flNV) else (.of (.inf false), 0)
  | .fin s n e =>
    if n = 0 then (.of (.inf true), flDZ)
    else if s then (.of .nan, flNV)
    else
      let k := Nat.log2 n
      let i : Int := (k : Int) + e
      if n = 2 ^ k then (.of (valOfInt i), 0)
      else
        let f := log2Go 520 200 (n * 2 ^ 520 / 2 ^ k) 0
        if 0 ≤ i then (⟨.fin false (i.toNat * 2 ^ 200 + f) (-200), true⟩, 0)
        else (⟨.fin true (i.natAbs * 2 ^ 200 - f - 1) (-200), true⟩, 0)

/-! ### Comparison and the minimum and maximum (R102, R129) -/

/-- −1, 0 or 1 for the numbers' order; none when a NaN makes them unordered. −0 equals +0. -/
def cmpVal : Val → Val → Option Int
  | .nan, _ | _, .nan => none
  | .inf s, .inf t => some (if s = t then 0 else if s then -1 else 1)
  | .inf s, .fin .. => some (if s then -1 else 1)
  | .fin .., .inf t => some (if t then 1 else -1)
  | .fin s n e, .fin t m d =>
    let lo := min e d
    let z := signedMag s (n * 2 ^ (e - lo).toNat) - signedMag t (m * 2 ^ (d - lo).toNat)
    some (if z < 0 then -1 else if z = 0 then 0 else 1)

def negOf : Val → Bool
  | .nan => false
  | .inf s => s
  | .fin s _ _ => s

/-- The lesser of two values, −0 below +0; the other operand when one is NaN (R102). -/
def minVal (x y : Val) : Val :=
  match cmpVal x y with
  | none => if x = .nan then y else x
  | some c => if c < 0 then x else if c > 0 then y else if negOf x then x else y

def maxVal (x y : Val) : Val :=
  match cmpVal x y with
  | none => if x = .nan then y else x
  | some c => if c > 0 then x else if c < 0 then y else if negOf x then y else x

/-- R129: a condition over the order. -/
def condHolds (c : FCond) : Option Int → Bool
  | none => c == .ne || c == .un
  | some o => match c with
    | .eq => o == 0 | .ne => o != 0 | .lt => o < 0 | .le => o ≤ 0 | .gt => o > 0 | .ge => 0 ≤ o | .un => false

/-! ### Conversions (R100, R101) -/

/-- The floor of |x| and what lies above it, for a rounding to an integer. -/
def roundInt (x : Exact) (mode : Nat) : Option (Int × Bool) :=
  match x.v with
  | .fin s n e =>
    if 0 ≤ e then some (signedMag s (n * 2 ^ e.toNat), false)
    else
      let u := 2 ^ (-e).toNat
      let r := n % u
      let inexact := r != 0 || x.more
      let up := inexact && roundsUp ⟨if mode = rmSR then rmRNE else mode, false, false, 0⟩ s (n / u) r u x.more
      some (signedMag s (if up then n / u + 1 else n / u), inexact)
  | _ => none

/-- R101: a floating value to an integer type. -/
def toIntType (f : Fmt) (x : Exact) (mode : Nat) : Nat × Flags :=
  match x.v with
  | .nan => (0, flNV)
  | .inf s => (wrapTo (fmtBits f) (if s then intMin f else intMax f), flNV)
  | .fin .. => match roundInt x mode with
    | none => (0, flNV)
    | some (z, inexact) =>
      if intMax f < z then (wrapTo (fmtBits f) (intMax f), flNV)
      else if z < intMin f then (wrapTo (fmtBits f) (intMin f), flNV)
      else (wrapTo (fmtBits f) z, if inexact then flNX else 0)

/-- The value of an E8M0 scale (R88). -/
def scaleVal (x : Nat) : Val := if x = 0xFF then .nan else .fin false 1 ((x : Int) - 127)

/-- A source element: a floating value, or an integer. -/
inductive Elem where
  | flt (v : Val)
  | int (x : Int)
  deriving DecidableEq, Repr

/-- An element's meaning in its own format, with DAZ (R85, R87, R93). -/
def elemOf (f : Fmt) (daz : Bool) (w : Nat) : Elem :=
  if fmtInt f then .int (intVal f w) else .flt (dazVal f daz (floatVal (elemFmt f) w))

/-- RM for an operation other than a narrowing conversion: SR rounds as RNE (R12, R94). -/
def opMode (rm : Nat) : Nat := if rm = rmSR then rmRNE else rm

/-- R94: SR acts only from a floating format to a narrower floating format: one of fewer bits, for the manual does not say
what narrower means between formats of one width (log 129). -/
def convMode (src dst : Fmt) (rm : Nat) : Nat :=
  if rm = rmSR ∧ !(fmtFloat (elemFmt src) && fmtFloat dst && fmtBits dst < fmtBits src) then rmRNE else rm

/-- R97: SF acts only on conversions to a narrower floating format, narrower as for `convMode` (log 129), and, between
integers, by R100. -/
def convSat (src dst : Fmt) (sf : Bool) : Bool :=
  sf && (fmtInt dst || (fmtBits dst < fmtBits src || (fmtInt src && fmtBits dst < fmtBits src)))

/-- R100 for a source element that its format already decoded. -/
def convElem (src dst : Fmt) (x : Elem) (rm : Nat) (sf ftz : Bool) (h : Nat) : Nat × Flags :=
  let c : Ctl := ⟨convMode src dst rm, convSat src dst sf, ftz && flushable dst, h⟩
  match x with
  | .flt v => if fmtInt dst then toIntType dst (.of v) (opMode rm) else roundTo dst (.of v) c
  | .int z =>
    if fmtInt dst then (intEnc dst (sf && fmtBits dst ≤ fmtBits src) z, 0)
    else roundTo dst (.of (valOfInt z)) c

/-! ### The stochastic hash (R98) -/

def mix (z : Word) : Word :=
  let a := (z ^^^ (z >>> 30)) * 0xBF58476D1CE4E5B9
  let b := (a ^^^ (a >>> 27)) * 0x94D049BB133111EB
  b ^^^ (b >>> 31)

/-- SRBits(seed, wid, n): bits [63:32] of the mixed hash. -/
def srBits (seed wid : Word) (n : Nat) : Nat :=
  bits (mix (mix (seed ^^^ wid) + BitVec.ofNat 64 n * 0x9E3779B97F4A7C15)).toNat 32 32

/-! ### Atomic operations (R187, R188) -/

def szBytes : Sz → Nat
  | .b8 => 1 | .b16 => 2 | .b32 => 4 | .b64 => 8

/-- The combination of an old value with the operand. -/
def atomNew (op : AtomOp) (sz : Sz) (old v : Nat) : Nat :=
  let n := 8 * szBytes sz
  let sv := fun (x : Nat) => if 2 ^ (n - 1) ≤ x then (x : Int) - 2 ^ n else x
  match op with
  | .add => (old + v) % 2 ^ n
  | .and => old &&& v
  | .or => old ||| v
  | .xor => old ^^^ v
  | .minS => if sv v < sv old then v else old
  | .maxS => if sv old < sv v then v else old
  | .minN => min old v
  | .maxN => max old v
  | .swap => v
  | .addF =>
    let f : Fmt := if sz = .b64 then .f64 else .f32
    (roundTo f (.of (addVal rmRNE (floatVal f old) (floatVal f v)).1) .rne).1

end Sys2Proof.Machine
end

