-- ==== Sys2Proof/Machine/Home.lean ====
section
/-! DEFINITION. What stands at a Home: where a line is homed, the leases and queues that hold an event back, waking of
waiters, the counting of bytes, writes at the Home with pending reductions before them, and the caches' holdings with the
directory and the die's sequence (R145, R151, R153, R158 to R166, R173, R191, R303, R304, R307 to R316, R370). -/
namespace Sys2Proof.Machine

def lineOf (pa : Nat) : Nat := pa / 128

/-! ### Homing (R303, R307, R308) -/

/-- The die that serves a physical address; host memory is reached from every die. -/
def dieOfPa (pa : Nat) : Option Nat :=
  match rangeOf pa with
  | .hbm d => some d
  | .vat q => some (q / 32)
  | _ => none

/-- The die whose Order Point takes the requests for a line. -/
def homeDie (line : Nat) : Option Nat := dieOfPa (128 * line)

/-- R308: the quire whose L2 slice homes an HBM line of a partition. -/
def homeQuire (s : State) (n pa : Nat) : Option Nat :=
  let d := pa / 0x4000000000
  let l := bits pa 7 31
  let f := (List.range 6).foldl (fun x i => x ^^^ bits l (5 * i) 5) 0
  let qs := (quiresOf s n).filter fun q => dieOfQuire q == d
  if qs.isEmpty then none else qs[(l + f) % qs.length]?

/-- R308: the stack of its die that holds an HBM byte. -/
def hbmStack (pa : Nat) : Nat := bits pa 8 1 ^^^ bits pa 13 1 ^^^ bits pa 21 1

/-- The owner of an assigned HBM granule (R368). -/
def granuleOwner (s : State) (pa : Nat) : Option Nat :=
  (granuleOf pa).bind fun k =>
    let e := Sparse.get 0 s.front.gran k
    if e.getLsbD 15 then some (bits e.toNat 0 7) else none

/-- The quire whose slice holds an HBM line and its directory entry; the die's first quire where the granule's owner holds
no quire there. -/
def homeSlice (s : State) (line : Nat) : Nat :=
  ((granuleOwner s (128 * line)).bind fun n => homeQuire s n (128 * line)).getD (32 * ((homeDie line).getD 0))

def linkDown (s : State) (d e : Nat) : Bool :=
  d != e && (s.front.linksDown.contains (d, e) || s.front.linksDown.contains (e, d))

def linkCut (s : State) (q pa : Nat) : Bool :=
  match dieOfPa pa with
  | some e => linkDown s (dieOfQuire q) e
  | none => false

def rangeIsHost (pa : Nat) : Bool := rangeOf pa == .cxl || rangeOf pa == .pcie

/-! ### Who performs -/

/-- Who performs an event: its party where it can wait or hold a lease, its quire, task and partition; `home` marks a
party that performs on the Home, holding no copy (R155). -/
structure Doer where
  party : Option Party
  quire : Nat
  task : Option (BitVec 16)
  part : Option Nat
  home : Bool
  deriving DecidableEq, Repr

def doerOf (s : State) (pos : Nat) : Doer :=
  ⟨some (.ctx pos), quireOf pos, (s.ctx pos).task, partOf s pos, false⟩

/-- The context for which a party acts on a leased line: itself, or the one whose operation is in the vector unit (R161,
R168). -/
def leaseOwner (s : State) (d : Doer) : Option Nat :=
  match d.party with
  | some (.ctx p) => some p
  | some (.vec k) => (s.core k).vec.head?.map (·.by_.pos)
  | _ => none

/-- The core whose L1D serves a party, with whether the line is left there; engines use none (R179, R310). -/
def coreFor (s : State) (d : Doer) : Nat × Bool :=
  match d.party with
  | some (.ctx p) => (coreOf p, match (s.ctx p).port with
      | some x => x.po != .na
      | none => true)
  | some (.vec k) => (k, false)
  | _ => (8 * d.quire, false)

/-! ### Leases and the queues behind them (R159 to R163, R315) -/

/-- The lease that stands on a line (R161). At most one does. -/
def leaseOn (s : State) (line : Nat) : Option Lease :=
  (s.cores.flatMap fun e => e.2.leases).find? (·.line == line)

def leasesOf (s : State) (pos : Nat) : List Lease := (s.core (coreOf pos)).leases.filter (·.owner == pos)

/-- A queued party that still has the event it queued: one whose work has been withdrawn holds nobody back. -/
def live (s : State) (line : Nat) : Party → Bool
  | .ctx p => match (s.ctx p).port with
    | some x => (s.ctx p).run == .running && (match x.evs with
        | ev :: _ => lineOf ev.pa == line
        | [] => true)
    | none => false
  | .job q id => (s.quire q).jobs.any fun j => j.id == id && !j.faulted
  | .stream k | .mst k => !(s.core k).queue.isEmpty
  | .vec k => !(s.core k).vec.isEmpty
  | .racc src => s.fabric.chans.any fun e => e.1 / 4 == src && !e.2.window.isEmpty
  | .ownRacc p => match (s.ctx p).port with
    | some x => (s.ctx p).run == .running && x.remote.isSome
    | none => false
  | .fetch p => (s.quire (quireOf p)).fetches.any (·.1 == p)
  | .req _ | .front _ => true
  | .host => s.dev.hostHeld.any fun a => lineOf a.pa == line
  | .copy c => (if c.ofDie then (s.die c.unit).copies else (s.quire c.unit).copies).any (·.line == c.line)

/-- The queue of a line whose lease has ended: its first live party goes first. -/
def nextInLine (s : State) (line : Nat) : Option Party :=
  (s.releases.find? fun e => e.1 == line && live s line e.2).map (·.2)

/-- Another party leases the line, or an event queued behind an ended lease goes first (R161, R162). -/
def heldBack (s : State) (d : Doer) (line : Nat) : Bool :=
  (match leaseOn s line with
   | some l => leaseOwner s d != some l.owner
   | none => match nextInLine s line with
     | some p => d.party != some p
     | none => false)

/-- The die that keeps a line's held list. -/
def heldDie (line : Nat) : Nat := (homeDie line).getD 0

/-- Whether a party stands in some queue of a line. -/
def inQueue (s : State) (p : Party) (line : Nat) : Bool :=
  s.releases.contains (line, p) || (s.die (heldDie line)).held.contains (line, p)
    || s.cores.any fun e => e.2.leases.any fun l => l.line == line && l.probes.contains p

/-- The event joins the queue behind the lease on its line: the probe queue while it holds fewer than 8 events and
none is held behind it, else the die's held list, which takes 256 (R161, R315); or the queue that an ended lease has
left. -/
def joinQueue (s : State) (p : Party) (line : Nat) : State :=
  if inQueue s p line then s
  else match leaseOn s line with
    | none => { s with releases := s.releases ++ [(line, p)] }
    | some l =>
      let d := s.die (heldDie line)
      if l.probes.length < 8 ∧ !d.held.any (·.1 == line) then
        { s with cores := s.cores.map fun e =>
            (e.1, { e.2 with leases := e.2.leases.map fun x =>
              if x.line = line then { x with probes := x.probes ++ [p] } else x }) }
      else if d.held.length < 256 then s.setDie (heldDie line) { d with held := d.held ++ [(line, p)] }
      else s

/-- A party whose turn behind an ended lease has come leaves the queue. -/
def leaveQueue (s : State) (d : Doer) (line : Nat) : State :=
  match d.party with
  | some p => { s with releases := s.releases.filter (· != (line, p)) }
  | none => s

/-- A party stops waiting behind leases: its queued event is withdrawn. -/
def withdraw (s : State) (p : Party) : State :=
  let s1 := (List.range 4).foldl (fun s e =>
    let d := s.die e
    if d.held.any (·.2 == p) then s.setDie e { d with held := d.held.filter (·.2 != p) } else s) s
  { s1 with
    releases := s1.releases.filter (·.2 != p)
    cores := s1.cores.map fun e =>
      (e.1, { e.2 with leases := e.2.leases.map fun l => { l with probes := l.probes.filter (· != p) } }) }

def setLC (st : Word) (n : Nat) : Word := putBits st 27 2 n
def setLB (st : Word) : Word := putBits st 29 1 1

/-- What waited behind a lease now proceeds: the probe queue in order, then the held list (R162, R315). -/
def releaseLine (s : State) (l : Lease) : State :=
  let d := s.die (heldDie l.line)
  let held := d.held.filter (·.1 == l.line)
  let s1 := if held.isEmpty then s
    else s.setDie (heldDie l.line) { d with held := d.held.filter (·.1 != l.line) }
  { s1 with releases := s1.releases ++ (l.probes.map fun p => (l.line, p)) ++ held }

/-- End every lease of a context: the entries are freed, the held data discarded, and what waited behind them
proceeds in order. -/
def dropLeases (s : State) (pos : Nat) : State :=
  let k := s.core (coreOf pos)
  let mine := k.leases.filter (·.owner == pos)
  mine.foldl releaseLine (s.setCore (coreOf pos) { k with leases := k.leases.filter (·.owner != pos) })

/-- A Break (R163): it occurs only while the context holds a lease. -/
def breakLeases (s : State) (pos : Nat) : State :=
  let n := ((s.core (coreOf pos)).leases.filter (·.owner == pos)).length
  if n = 0 then s
  else
    let s' := (dropLeases s pos).tally (partOf s pos) 37 n
    let c := s'.ctx pos
    s'.setCtx pos { c with st := setLB (setLC c.st 0) }

/-! ### Waking waiters (R173, R185, R199) -/

/-- R173: the cycles within which a store is seen, by the reader's die and the Home's. -/
def seenWithin (die pa : Nat) : Nat := if dieOfPa pa = some die then 1280 else 1792

def isBarWait : Wait → Bool
  | .barWait .. => true
  | _ => false

/-- A write of `len` bytes at `pa` of the Home, or of the copy that `place` tells, wakes those that wait to read there: a
WAITLINE on its granule, a BAR.WAIT on its word. `base` is the cycle at which the write's store entered its Issue Port. -/
def wakeAt (s : State) (pa len : Nat) (place : Nat → Coh → Bool) (base : Option Nat) : State :=
  let hit : Nat × Ctx → Bool := fun e => match e.2.port with
    | some p => match p.evs with
      | ev :: _ => ev.pa / 32 == pa / 32 && place (quireOf e.1) ev.coh && p.remote.isNone && rangeOf ev.pa != .cxl
          && (!isBarWait e.2.wait || (pa < ev.pa + ev.len && ev.pa < pa + len))
      | [] => false
    | none => false
  let due : Nat × Ctx → Option Nat := fun e => base.map (· + seenWithin (dieOf e.1) pa)
  { s with ctxs := s.ctxs.map fun e =>
      if hit e then
        match e.2.wait with
        | .waitline t false => (e.1, { e.2 with wait := .waitline t true, wakeBy := (due e) })
        | .barWait t false => (e.1, { e.2 with wait := .barWait t true, wakeBy := (due e) })
        | _ => e
      else e }

def atHome (_ : Nat) (c : Coh) : Bool := c == .coherent || c == .uncached

/-! ### The Host Port (R172, R363, R364) -/

/-- The functions whose virtual device belongs to a partition (R361, R364). -/
def fnsOf (s : State) (n : Nat) : List Nat :=
  (List.range 256).filter fun v => bits (Sparse.get 0 s.front.vdt v).toNat 56 7 == n

/-- The function for which a party works: its task's, else its partition's first (log 22). -/
def fnOf (s : State) (task : Option (BitVec 16)) (part : Option Nat) : Nat :=
  match task.bind (taskOf s), part with
  | some t, _ => t.fn
  | none, some n => (fnsOf s n).headD 0
  | none, none => 0

/-- R363: IDE is required and the function's streams are not all secure. A function is secure where listed. -/
def ideHolds (s : State) (fn : Nat) : Bool := s.dev.idereq && !Sparse.get false s.dev.ide fn

/-- An MSI-X write: at once where the Host Port holds nothing before it and the function's traffic is not held, else after
what the port has accepted (R172, R363). -/
def sendMsi (s : State) (fn vec : Nat) : State :=
  if s.dev.hostQ.isEmpty ∧ !ideHolds s fn then s.setDev { s.dev with msix := s.dev.msix ++ [(fn, vec)] }
  else
    let r : HostReq := ⟨s.front.nextId, .host, 0, none, fn, 0, 0, 0, .none, .read, false, some (fn, vec)⟩
    s.setDev { s.dev with hostQ := s.dev.hostQ ++ [r] }

/-! ### The Home -/

def granuleBusy (s : State) (pa : Nat) : Bool :=
  match granuleOf pa with
  | some k => s.front.zeroing.any (·.1 == k)
  | none => false

/-- HBM and host-link bytes are counted at the event (R370, log 9). -/
def countBytes (s : State) (part : Option Nat) (pa len : Nat) (write : Bool) : State :=
  match rangeOf pa with
  | .hbm _ => s.tally (granuleOwner s pa) (if write then 17 else 16) len
  | .cxl | .pcie => s.tally part (if write then 27 else 28) len
  | _ => s

/-- A write at the Home: the bytes, poison, and those it wakes. -/
def putHome (s : State) (pa : Nat) (data : List Byte) (base : Option Nat) : State :=
  wakeAt (homeWrite s pa data) pa data.length atHome base

/-! ### What the caches hold (R304, R309, R310, R312, R314) -/

/-- No cache ever holds a vat line (R307). -/
def cacheable (line : Nat) : Bool :=
  match rangeOf (128 * line) with
  | .hbm _ | .cxl => true
  | _ => false

/-- How a core's L1D holds a line of a page of a coherence scope. -/
def l1dHold (s : State) (core line : Nat) (coh : Coh) : Hold :=
  match (s.core core).l1d.find? fun x => x.line == line && x.coh == coh with
  | some x => x.hold
  | none => .none

def l1dAt (s : State) (core line : Nat) : Hold := l1dHold s core line .coherent

/-- The newest entries of a set, at most `ways` of them, with those of the other sets. -/
def keepWays {α : Type} (inSet : α → Bool) (ways : Nat) (l : List α) : List α :=
  let n := (l.filter inSet).length
  (l.foldr (fun x (r : List α × Nat) => if inSet x then (if r.2 < min n ways then (x :: r.1, r.2 + 1) else r) else (x :: r.1, r.2))
    ([], 0)).1

/-- An L1D has 64 sets of 8 ways; the oldest line of a full set goes (R304). -/
def putL1d (s : State) (core line : Nat) (coh : Coh) (h : Hold) : State :=
  let k := s.core core
  let rest := k.l1d.filter fun x => !(x.line == line && x.coh == coh)
  let l := if h = .none then rest else keepWays (fun x => x.line % 64 == line % 64) 8 (rest ++ [⟨line, coh, h⟩])
  s.setCore core { k with l1d := l }

def setL1d (s : State) (core line : Nat) (h : Hold) : State := putL1d s core line .coherent h

/-- No L1D of a die holds a COHERENT line any more. -/
def dropL1dLine (s : State) (die line : Nat) : State :=
  { s with cores := s.cores.map fun e =>
      if e.1 / 256 = die then
        (e.1, { e.2 with l1d := e.2.l1d.filter fun x => !(x.line == line && x.coh == .coherent) })
      else e }

/-- Modified holdings of a COHERENT line in a die's L1Ds become shared. -/
def shareL1dLine (s : State) (die line : Nat) : State :=
  { s with cores := s.cores.map fun e =>
      if e.1 / 256 = die then
        (e.1, { e.2 with l1d := e.2.l1d.map fun x =>
          if x.line = line ∧ x.coh = .coherent ∧ x.hold = .modified then { x with hold := .shared } else x })
      else e }

/-- A line's holding in a die's remote-data cache, with the VER it was granted with. -/
def rdcAt (s : State) (die line : Nat) : Hold × BitVec 8 :=
  match (s.die die).rdc.find? (·.line == line) with
  | some x => (x.hold, x.ver)
  | none => (.none, 0)

/-- The number of set bits among the low `n`. -/
def popCount (w n : Nat) : Nat := (List.range n).foldl (fun k i => k + bits w i 1) 0

/-- The remote-data cache ways of a partition on a die (R309, R365). -/
def rdcWays (s : State) (part : Option Nat) (die : Nat) : Nat :=
  match part with
  | some n => popCount (bits (s.part n).rdcmask.toNat (16 * die) 16) 16
  | none => 0

def rdcSet (line : Nat) : Nat := line % 131072

/-- A line leaves a remote-data cache, and with it the L1Ds of its die; modified, it goes into the leaving buffer with its
bytes (R313). -/
def evictRdc (s : State) (die line : Nat) : State :=
  let d := s.die die
  let h := rdcAt s die line
  let g := fun i => bit1 (Sparse.get false s.poison (4 * line + i))
  let out : List Leaving := if h.1 = .modified ∧ (homeDie line).isSome then
      [⟨line, h.2, Memory.readBytes s.mem (128 * line) 128, 2 ^ 128 - 1, pack [(1, g 0), (1, g 1), (1, g 2), (1, g 3)]⟩]
    else []
  dropL1dLine (s.setDie die { d with rdc := d.rdc.filter (·.line != line), leaving := d.leaving ++ out }) die line

/-- The line loses its place in a die's remote-data cache without a write-back: invalidated or recalled. -/
def dropRdcLine (s : State) (die line : Nat) : State :=
  let d := s.die die
  dropL1dLine (s.setDie die { d with rdc := d.rdc.filter (·.line != line) }) die line

/-- A line filled into its partition's ways: with none of them it is not held; in a full set the oldest line leaves
first (R309). -/
def fillRdc (s : State) (die line : Nat) (part : Option Nat) (h : Hold) (ver : BitVec 8) : State :=
  let ways := rdcWays s part die
  if ways = 0 then s
  else
    let d := s.die die
    let rest := d.rdc.filter (·.line != line)
    let mine := rest.filter fun x => rdcSet x.line == rdcSet line && x.part == part
    let copies := d.copies.filter fun c => rdcSet c.line == rdcSet line && c.part == part
    let s1 := match mine with
      | x :: _ => if ways ≤ mine.length + copies.length then evictRdc s die x.line else s
      | [] => s
    let d1 := s1.die die
    s1.setDie die { d1 with rdc := d1.rdc.filter (·.line != line) ++ [⟨line, part, h, ver⟩] }

def dirAt (s : State) (line : Nat) : Dir := Sparse.get Dir.reset (s.quire (homeSlice s line)).dirs line

def setDir (s : State) (line : Nat) (x : Dir) : State :=
  let q := homeSlice s line
  s.setQuire q { s.quire q with dirs := Sparse.set Dir.reset (s.quire q).dirs line x }

/-- The home slice takes a line into its ordinary ways: 16 of a set less the scoped ones (R304, R314). -/
def fillL2 (s : State) (line : Nat) (part : Option Nat) : State :=
  let q := homeSlice s line
  let x := s.quire q
  let k := match part with
    | some n => (s.part n).scopedw
    | none => 0
  s.setQuire q { x with l2 := keepWays (fun l => l % 16384 == line % 16384) (16 - k) (x.l2.filter (· != line) ++ [line]) }

/-! ### The directory and the sequence (R310, R312, R315) -/

/-- Sharers other than the requester lose the line. -/
def dropSharers (s : State) (home line keep : Nat) : State :=
  (List.range 4).foldl (fun s e => if e ≠ keep ∧ e ≠ home then dropRdcLine s e line else s) s

/-- The die that owns a line in the directory, other than the requester's. -/
def otherOwner (s : State) (die line : Nat) : Option Nat :=
  let x := dirAt s line
  if x.owned ∧ x.owner.toNat ≠ die then some x.owner.toNat else none

/-- The owner's copy after a recall: kept shared for a read, gone for an ownership; nothing to keep where the answer came
from the leaving buffer. -/
def afterRecall (s : State) (owner line : Nat) (kind : CohKind) : State :=
  let x := dirAt s line
  let h := rdcAt s owner line
  let keeps := kind == .read && h.1 == .modified
  let s1 := if keeps then
      let d := s.die owner
      shareL1dLine (s.setDie owner { d with rdc := d.rdc.map fun y => if y.line = line then { y with hold := .shared } else y })
        owner line
    else dropRdcLine s owner line
  setDir s1 line { x with
    owned := false, owner := 0, shr := if keeps then x.shr ||| BitVec.ofNat 4 (2 ^ owner) else x.shr }

/-- The home slice applies the entry to a request when no other die owns the line; a die whose partition has no ways there
holds nothing of it. -/
def applyDir (s : State) (home : Nat) (r : CohReq) : State :=
  let x := dirAt s r.line
  let room := rdcWays s r.part r.die != 0
  match r.kind with
  | .read =>
    if r.die = home ∨ x.owned ∨ !room then s
    else
      fillRdc (setDir s r.line { x with shr := x.shr ||| BitVec.ofNat 4 (2 ^ r.die) }) r.die r.line r.part .shared x.ver
  | .own =>
    let s1 := dropSharers s home r.line r.die
    if r.die = home then setDir s1 r.line { x with owned := false, owner := 0, shr := 0 }
    else if x.owned then s1
    else if !room then setDir s1 r.line { x with shr := 0 }
    else fillRdc (setDir s1 r.line ⟨x.ver + 1, true, BitVec.ofNat 2 r.die, 0⟩) r.die r.line r.part .modified (x.ver + 1)
  | .writeBack | .release | .hostSnoop => s

/-- The request takes its place in the die's sequence. -/
def sequence (s : State) (die : Nat) (r : CohReq) : State :=
  let d := s.die die
  s.setDie die { d with seq := d.seq ++ [r] }

/-- A holding that serves a request: any for a read, a modified one for an ownership. -/
def serves (h : Hold) (kind : CohKind) : Bool :=
  match kind, h with
  | .read, .shared | _, .modified => true
  | _, _ => false

/-- The home slice's part in a request that its Order Point takes: a line that another die owns is recalled, then the
entry is applied and the request sequenced. -/
def takeHome (s : State) (home : Nat) (r : CohReq) : State :=
  let s1 := match otherOwner s r.die r.line with
    | some o => afterRecall s o r.line r.kind
    | none => s
  let s2 := sequence (applyDir s1 home r) home r
  if r.fill then fillL2 s2 r.line r.part else s2

/-- A host line over CXL: the die's remote-data cache takes it through CXL.cache, and the other dies give up what does not
go with it (R309, R362). -/
def takeHost (s : State) (r : CohReq) : State :=
  let s1 := (List.range 4).foldl (fun s e =>
    if e = r.die then s
    else match (rdcAt s e r.line).1, r.kind with
      | .none, _ | .shared, .read => s
      | .modified, .read =>
        let d := s.die e
        shareL1dLine (s.setDie e { d with rdc := d.rdc.map fun y => if y.line = r.line then { y with hold := .shared } else y })
          e r.line
      | _, _ => dropRdcLine s e r.line) s
  let s2 := if r.fill then fillRdc s1 r.die r.line r.part (if r.kind = .read then .shared else .modified) 0 else s1
  sequence s2 r.die r

/-- R153, R307, R310, R312: the request of a COHERENT event is taken by the Order Points that it concerns, in the move in
which the event is performed; none while an earlier request of its die-link queue, a recall of the line or the die's own
write-back of it is still under way. An L1D hit, and a quire's access to its own vat, make no request. -/
def orderTake (s : State) (d : Doer) (kind : CohKind) (line : Nat) : Option State :=
  let c := coreFor s d
  let die := dieOfQuire d.quire
  let r : CohReq := ⟨line, die, c.1, d.part, kind, c.2⟩
  if c.2 && serves (l1dAt s c.1 line) kind then some s
  else match rangeOf (128 * line) with
    | .vat q => if q = d.quire then some s
      else if die ≠ q / 32 ∧ (s.die die).reqs.any (fun x => homeDie x.line == some (q / 32)) then none
      else some (sequence s (q / 32) r)
    | .hbm home =>
      if (s.die home).recalls.any (·.line == line) then none
      else if die = home then some (takeHome s home r)
      else if serves (rdcAt s die line).1 kind then some (sequence s die r)
      else if (s.die die).leaving.any (·.line == line) ∨ (s.die die).reqs.any (fun x => homeDie x.line == some home) then none
      else some (sequence (takeHome s home r) die r)
    | .cxl => if serves (rdcAt s die line).1 kind then some (sequence s die r) else some (takeHost s r)
    | _ => some s

/-- The line's owner gives it up within the move of a party that reads or writes it at its Home without a request of a
core: a walker, a fault record, a write-back (R312). -/
def claimLine (s : State) (kind : CohKind) (line : Nat) : State :=
  match homeDie line, rangeOf (128 * line) with
  | some home, .hbm _ =>
    let r : CohReq := ⟨line, home, 256 * home, granuleOwner s (128 * line), kind, false⟩
    takeHome s home r
  | _, _ => s

/-! ### The Write Queue's reductions (R151, R191) -/

/-- One pending reduction performed at the Home; on a granule poisoned since it entered, nothing is written (R151, R191,
R319). -/
def performPend (s : State) (p : Pend) : State :=
  let n := szBytes p.sz
  if poisoned s p.pa n then s
  else
    let old := ofBytes (Memory.readBytes s.mem p.pa n)
    countBytes (putHome (countBytes s none p.pa n false) p.pa (toBytes n (atomNew p.op p.sz old p.v)) none) none p.pa n true

/-- Every pending reduction on a line is performed, in entry order, before another event there. -/
def drainLine (s0 : State) (line : Nat) : State :=
  let s := if s0.quires.any fun e => e.2.pend.any fun p => lineOf p.pa == line then claimLine s0 .own line else s0
  s.quires.foldl (fun s e =>
    let mine := e.2.pend.filter fun p => lineOf p.pa == line
    if mine.isEmpty then s
    else
      let q := s.quire e.1
      mine.foldl performPend (s.setQuire e.1 { q with pend := q.pend.filter fun p => lineOf p.pa != line })) s

end Sys2Proof.Machine
end

