-- ==== Sys2Proof/Machine/Ops.lean ====
section
/-! DEFINITION. A fault record posted; TAKING A TRAP; the guard and the retirement of an instruction (R37, R64, R76, R77,
R328, R329, R370). -/
namespace Sys2Proof.Machine

/-! ### Fault records (R328, R329) -/

def Acc.code : Acc → Nat
  | .read => 0 | .write => 1 | .atomic => 2 | .reduce => 3 | .lease => 4 | .fetch => 5 | .eread => 6
  | .ewrite => 7 | .none => 8

def Cause.code : Cause → Nat
  | .illegal => 1 | .prefixed => 2 | .operand => 3 | .privilege => 4 | .address => 5 | .translation => 6
  | .storepolicy => 7 | .align => 8 | .tile => 9 | .sparse => 10 | .divide => 11 | .poison => 12 | .link => 13
  | .software => 14

def Source.code : Source → Nat
  | .ctx => 0 | .job .. => 1 | .matrix .. => 2 | .front => 3

/-- The 64 bytes of a record (R328). -/
def FRec.bytes (r : FRec) : List Byte :=
  toBytes 8 (pack [(8, r.trap.cause.code), (8, r.trap.sub), (4, r.trap.acc.code), (4, r.src.code), (3, r.ch),
    (5, 0), (32, r.slotgen.toNat)])
  ++ toBytes 8 r.pos.toNat ++ toBytes 8 r.pc.toNat ++ toBytes 8 r.trap.info.toNat ++ r.enc.take 16
  ++ List.replicate (16 - r.enc.length) 0
  ++ toBytes 8 (pack [(16, r.kdone), (4, 0), (4, r.grp), (8, r.tile), (32, 0)]) ++ toBytes 8 r.seq.toNat

def ringSize (p : Part) : Nat := 2 ^ p.fqlog.toNat

/-- The physical address of a record in the ring (R329, R330). -/
def recAddr (p : Part) (idx : BitVec 32) : Nat := p.fqbase.toNat + 64 * (idx.toNat % ringSize p)

/-- The fault queue's writer: a party of its own, at the Home. -/
def ringDoer (n : Nat) : Doer := ⟨none, 0, none, some n, true⟩

/-- R329: a ring takes a record when k is 4 to 16, it lies wholly in the partition's granules and it has room; the record
waits, as any other party's write, while its line is leased or its granule is being zeroed (R161, R368). -/
def ringTakes (s : State) (n : Nat) : Bool :=
  let p := s.part n
  let a := recAddr p p.fqprod
  4 ≤ p.fqlog.toNat && p.fqlog.toNat ≤ 16 && p.fqbase.toNat % 64 == 0
    && inPartHbm s n p.fqbase.toNat (64 * ringSize p) && (p.fqprod - p.fqcons).toNat < ringSize p
    && !heldBack s (ringDoer n) (lineOf a) && !granuleBusy s a

/-- The handle of a posted record is kept by its faulted context (R334). -/
def noteHandle (s : State) (r : FRec) : State :=
  match r.src with
  | .ctx =>
    let pos := bits r.pos.toNat 0 14
    let c := s.ctx pos
    if c.run = .faulted ∧ c.slotgen = r.slotgen then s.setCtx pos { c with handle := some r.seq } else s
  | _ => s

/-- A record's 64 bytes written at the Home, after the pending reductions on its line (R151, R319). -/
def writeRecord (s : State) (pa : Nat) (data : List Byte) : State :=
  countBytes (putHome (claimLine (drainLine s (lineOf pa)) .own (lineOf pa)) pa data none) none pa data.length true

/-- Post one record: SEQ, the 64 bytes in the ring, then the producer index, and vector 16 (R329, R364). -/
def postNow (s : State) (n : Nat) (r : FRec) : State :=
  let p := s.part n
  let r' := { r with seq := p.nextSeq, slot := recAddr p p.fqprod }
  let s1 := writeRecord s (recAddr p p.fqprod) r'.bytes
  let s2 := s1.setPart n { p with fqprod := p.fqprod + 1, nextSeq := p.nextSeq + 1, recs := p.recs ++ [r'] }
  let s3 := (fnsOf s2 n).foldl (fun s f => sendMsi s f 16) s2
  (noteHandle s3 r').tally (some n) 38 1

/-- A record presented for posting: posted, or held unposted while the ring takes none (R329). The position of a record
that names one is noted: those of one cycle go in ascending position. -/
def post (s0 : State) (n : Nat) (r : FRec) : State :=
  let s := match r.src with
    | .front => s0
    | _ => { s0 with shown := bits r.pos.toNat 0 14 :: s0.shown }
  let p := s.part n
  if p.unposted.isEmpty && ringTakes s n then postNow s n r
  else s.setPart n { p with unposted := p.unposted ++ [r] }

/-- Held records posted in order while the ring takes them. -/
def postHeld (n : Nat) : Nat → State → State
  | 0, s => s
  | fuel + 1, s => match (s.part n).unposted with
    | [] => s
    | r :: l => if ringTakes s n then postHeld n fuel (postNow (s.setPart n { s.part n with unposted := l }) n r) else s

def postAllHeld (s : State) (n : Nat) : State := postHeld n (s.part n).unposted.length s

/-- POS of a position (R8). -/
def posWord (s : State) (pos : Nat) : Word := BitVec.ofNat 64 (pos % 2 ^ 14 + bits s.fabric.fid.toNat 0 10 * 2 ^ 32)

/-! ### Taking a trap (R37) -/

/-- R77: the bytes from PC to the end of the instruction, or to the end of the block; 16 zero bytes for a fault
in fetch. A block that CINV has discarded keeps its bytes for this use only, under its address plus 1 (R280). -/
def encOf (c : Ctx) : List Byte :=
  match c.block with
  | some b =>
    if b.err.isSome ∨ b.addr / 2 * 2 ≠ c.pc.toNat / 32 * 32 then List.replicate 16 0
    else
      let rest := b.data.drop (c.pc.toNat % 32)
      match rest with
      | [] => List.replicate 16 0
      | b0 :: _ => let x := rest.take (lenBytes (b0.toNat % 4 % 3)); x ++ List.replicate (16 - x.length) 0
  | none => List.replicate 16 0

/-- The record of a context's trap. -/
def ctxRec (s : State) (pos : Nat) (t : Trap) : FRec :=
  let c := s.ctx pos
  { seq := 0, trap := t, src := .ctx, ch := 0, pos := posWord s pos, slotgen := c.slotgen, pc := c.pc,
    enc := encOf c, tile := 0, grp := 0, kdone := 0, slot := 0, task := c.task,
    launch := (c.task.bind (taskOf s)).map (·.launch), delivered := false }

/-- TAKING A TRAP (R37): the leases are broken, the access leaves the port, PP and PFX stay, the context leaves
the rotation as FAULTED, and its record is presented to the partition's fault queue. -/
def takeTrap (s : State) (pos : Nat) (t : Trap) : State :=
  let r := ctxRec s pos t
  let s1 := withdraw (breakLeases s pos) (.ctx pos)
  let c := s1.ctx pos
  let s2 := s1.setCtx pos { c with run := .faulted, port := none, wait := .none, handle := none }
  match partOf s pos with
  | some n => post s2 n r
  | none => s2

def trapOf (c : Cause) (info : Word) : Trap := ⟨c, info, .none, 0⟩

/-- The info of a trap whose Trap call the manual does not give: a free value (log 7). -/
def freeInfo (c : Cause) (n : Nat) : Word := Config.info c.code n

/-- The access kind of a record for which the manual gives none: a free value (log 7, log 101). -/
def freeAcc (c : Cause) (n : Nat) : Acc :=
  match (Config.info c.code n).toNat % 9 with
  | 0 => .read | 1 => .write | 2 => .atomic | 3 => .reduce | 4 => .lease | 5 => .fetch | 6 => .eread | 7 => .ewrite
  | _ => .none

/-- Trap(OPERAND, EA) of BAR.ARRIVE and BAR.WAIT (R198, R199). -/
def barTrap (ea : Word) : Trap := ⟨.operand, ea, freeAcc .operand ea.toNat, 0⟩

/-- An OPERAND trap that the manual raises without an info value; `n` is the offending value. -/
def operand (n : Nat) : Trap := trapOf .operand (freeInfo .operand n)

/-- Trap(OPERAND, info). -/
def operandAt (info : Nat) : Trap := trapOf .operand (BitVec.ofNat 64 info)

/-! ### Retirement and the guard (R64, R76, R370) -/

/-- PC moves past the instruction and counter 32 counts it. -/
def retireAt (s : State) (pos len : Nat) : State :=
  let c := s.ctx pos
  (s.setCtx pos { c with pc := c.pc + BitVec.ofNat 56 len, refused := 0 }).tally (partOf s pos) 32 1

/-- The current context takes new values and moves past its instruction. -/
def retire (s : State) (c : Ctx) (len : Nat) : State := retireAt (s.setCtx s.cur c) s.cur len

def guardHolds (g : Guard) (st : Word) : Bool := predOf st g.gp != g.gs

/-- The effect of an instruction: the state it leaves, and the trap that ended it, if one did. -/
abbrev Eff := State × Option Trap

def ok (s : State) : Eff := (s, none)
def bad (s : State) (t : Trap) : Eff := (s, some t)

/-- An effect as the next state of the context at `pos`: the trap is taken there (R37). -/
def settle (pos : Nat) (e : Eff) : State :=
  match e.2 with
  | none => e.1
  | some t => takeTrap e.1 pos t

/-- Steps 5 to 7 of R76: PREFIX, the guard, then the instruction's effect or its trap. `vm` tells the
vector-matrix class of R81. -/
def guarded (g : Guard) (vm : Bool) (len : Nat) (s : State) (body : Ctx → Eff) : Out :=
  let c := s.ctx s.cur
  if stPP c.st && !vm then .next (takeTrap s s.cur (trapOf .prefixed (freeInfo .prefixed 0)))
  else if !guardHolds g c.st then .next (retire s (if vm then { c with st := clearPP c.st } else c) len)
  else .next (settle s.cur (body c))

/-- An event that is enabled makes its move; otherwise the turn is no move of the machine (R146). -/
def when (ok : Bool) (what : String) (t : State) : Out := if ok then .next t else .fault (.notEnabled what)

/-- The context leaves the rotation to be re-tested (R17). -/
def leaveRotation (s : State) (pos : Nat) (w : Wait) : State := s.setCtx pos { s.ctx pos with wait := w }

end Sys2Proof.Machine
end

