-- ==== Sys2Proof/Machine/Translate.lean ====
section
/-! DEFINITION. Translate and Resolve: the page-table walk with its checks, the TLBs, the choice of the instance
by view and position, and the checks on that instance (R27 to R31, R320 to R327, R366). -/
namespace Sys2Proof.Machine

/-- Who makes an access: its quire, the core whose L1 TLB it looks in (a context), the identifier it translates
under and its partition. -/
structure Who where
  quire : Nat
  core : Option Nat
  asid : Option Nat
  part : Option Nat
  deriving DecidableEq, Repr

/-- The party of a context. -/
def whoIs (s : State) (pos : Nat) : Who := ⟨quireOf pos, some (coreOf pos), asidOf s pos, partOf s pos⟩

/-- The party of a quire's engine or tile fetch unit working for an issuer (R238, R259). -/
def Issuer.who (b : Issuer) (q : Nat) : Who := ⟨q, none, b.asid, b.part⟩

/-! ### Page table entries (R321, R322, R324) -/

def pageSize (code : Nat) : Nat := 4096 * 4 ^ code

/-- The level a SIZE code belongs to (R321). -/
def sizeLevel (code : Nat) : Option Nat :=
  if code ≤ 3 then some 0 else if code ≤ 7 then some 1 else if code ≤ 9 then some 2 else none

def pkindOf : Nat → Option PKind
  | 0 => some .shared | 1 => some .privq | 2 => some .privd | 3 => some .repl | 4 => some .remote | _ => none

def PKind.code : PKind → Nat
  | .shared => 0 | .privq => 1 | .privd => 2 | .repl => 3 | .remote => 4

def cohOf : Nat → Coh
  | 0 => .coherent | 1 => .scopedQ | 2 => .scopedD | _ => .uncached

/-- A leaf read at `level`, if it passes the checks of R324 on its own fields; `rankOk` tells the ranks of the
partition's rank map. -/
def leafOf (e level : Nat) (rankOk : Nat → Bool) : Option Leaf :=
  match pkindOf (bits e 3 3) with
  | none => none
  | some k =>
    let size := bits e 8 4
    let frame := bits e 12 40 * 4096
    let stride := bits e 64 40 * 4096
    let rank := bits e 104 10
    let all := bits e 52 1 == 1
    let inst := k == .privq || k == .privd || k == .repl
    if bits e 114 14 == 0 && bits e 58 6 == 0 && bits e 53 1 == 0 && bits e 2 1 == 0
        && sizeLevel size == some level
        && (k == .remote || frame % pageSize size == 0)
        && (inst || stride == 0) && (!inst || pageSize size ≤ stride)
        && (k == .repl || !all) && (k == .remote || rank == 0) && (k != .remote || rankOk rank) then
      some { size := size, kind := k, coh := cohOf (bits e 6 2), frame := frame, stride := stride, rank := rank,
             r := bits e 54 1 == 1, w := bits e 55 1 == 1, x := bits e 56 1 == 1, a := bits e 57 1 == 1,
             all := all }
    else none

/-- Whether a rank is in a partition's rank map (R343). -/
def rankDev (s : State) (part rank : Nat) : Option Nat :=
  if rank < 1024 then
    let e := Sparse.get 0 s.fabric.rmap (1024 * part + rank)
    if e.getLsbD 15 then some (bits e.toNat 0 10) else none
  else none

def tlbHit (asid va : Nat) (t : Tlb) : Bool :=
  t.asid == asid && t.va == va / pageSize t.leaf.size * pageSize t.leaf.size

/-- The lowest virtual-address bit that indexes a level's table (R321). -/
def levelShift (level : Nat) : Nat := 12 + 8 * level

/-- Why a translation found no leaf: the cause and subcode of its trap, or none where a walker's read must wait. -/
abbrev Miss := Option (Cause × Nat)

/-- A walker: a party of its own that holds no copy (R327). -/
def walkDoer (die n : Nat) : Doer := ⟨none, 32 * die, none, some n, true⟩

/-- One table entry read at its Home (R327): it waits behind a lease and while its granule is being zeroed, fails with
LINK across a failed die link and with POISON on a poisoned granule, and finds pending reductions performed. -/
def entryRead (s0 : State) (die part pa : Nat) : State × Except Miss Nat :=
  if heldBack s0 (walkDoer die part) (lineOf pa) || granuleBusy s0 pa then (s0, .error none)
  else if linkCut s0 (32 * die) pa then (s0, .error (some (.link, 0)))
  else
    let s := claimLine (drainLine s0 (lineOf pa)) .read (lineOf pa)
    if poisoned s pa 16 then (s, .error (some (.poison, 0)))
    else (countBytes s none pa 16 false, .ok (ofBytes (Memory.readBytes s.mem pa 16)))

/-- A walk from the table at `table` downward by a walker of `die` (R321, R327): the leaf, or what it met, with the
non-leaf entries read on the way. -/
def walk (die part asid va : Nat) :
    Nat → Nat → Nat → List WalkEntry → State → State × Except Miss (Leaf × List WalkEntry)
  | 0, _, _, _, s => (s, .error (some (.translation, 2)))
  | fuel + 1, level, table, seen, s =>
    let idx := bits va (levelShift level) (if level = 5 then 4 else 8)
    let pa := table + 16 * idx
    if !inPartHbm s part pa 16 then (s, .error (some (.translation, 3)))
    else match entryRead s die part pa with
      | (s1, .error e) => (s1, .error e)
      | (s1, .ok e) =>
        if bits e 0 1 = 0 then (s1, .error (some (.translation, 0)))
        else if bits e 1 1 = 1 then
          match leafOf e level fun r => (rankDev s1 part r).isSome with
          | some l => (s1, .ok (l, seen))
          | none => (s1, .error (some (.translation, 2)))
        else if level = 0 ∨ bits e 2 10 ≠ 0 ∨ bits e 52 76 ≠ 0 then (s1, .error (some (.translation, 2)))
        else
          let next := bits e 12 40 * 4096
          walk die part asid va fuel (level - 1) next (seen ++ [⟨asid, level - 1, va / 2 ^ levelShift level, next⟩]) s1

/-- Keep the newest `n` entries of a translation cache. -/
def keepLast {α : Type} (n : Nat) (l : List α) : List α := l.drop (l.length - n)

/-- Fill the TLBs and the walk cache after a walk (R326). -/
def fillTlb (s : State) (w : Who) (t : Tlb) (seen : List WalkEntry) : State :=
  let q := s.quire w.quire
  let s1 := s.setQuire w.quire { q with tlb := keepLast 2048 (q.tlb ++ [t]) }
  let d := s1.die (dieOfQuire w.quire)
  let s2 := s1.setDie (dieOfQuire w.quire) { d with walks := keepLast 512 (d.walks ++ seen) }
  match w.core with
  | some k => s2.setCore k { s2.core k with tlb := keepLast 64 ((s2.core k).tlb ++ [t]) }
  | none => s2

/-- The deepest cached table that serves an address, else the root's top table (R326, R327). -/
def walkStart (s : State) (die asid va top : Nat) : Nat × Nat :=
  let c := (s.die die).walks.filter fun e => e.asid == asid && e.va == va / 2 ^ levelShift (e.level + 1)
  c.foldl (fun b e => if e.level < b.1 then (e.level, e.table) else b) (5, top)

/-- A whole walk for an identifier (R320, R327, R370): the leaf filled into the TLBs, or what it met. A walk that has to
wait has not ended and is not counted. -/
def pageWalk (s : State) (w : Who) (asid va : Nat) : State × Except Miss Leaf :=
  let root := Sparse.get Root.reset s.front.roots asid
  if !root.valid || some root.part != w.part then (s, .error (some (.translation, 3)))
  else
    let die := dieOfQuire w.quire
    let b := walkStart s die asid va root.top
    match walk die root.part asid va (b.1 + 1) b.1 b.2 [] s with
    | (s1, .ok (l, seen)) =>
      (fillTlb (s1.tally (some root.part) 47 1) w ⟨asid, va / pageSize l.size * pageSize l.size, l⟩ seen, .ok l)
    | (s1, .error none) => (s1, .error none)
    | (s1, .error (some e)) => (s1.tally (some root.part) 47 1, .error (some e))

/-- The leaf that translates an address: an L1 TLB hit, an L2 TLB hit, or a walk (R326). -/
def leafFor (s : State) (w : Who) (va : Nat) : State × Except Miss Leaf :=
  match w.asid with
  | none => (s, .error (some (.translation, 3)))
  | some asid =>
    let l1 := match w.core with
      | some k => (s.core k).tlb.find? (tlbHit asid va)
      | none => none
    match l1 with
    | some t => (s, .ok t.leaf)
    | none => match (s.quire w.quire).tlb.find? (tlbHit asid va) with
      | some t => (s, .ok t.leaf)
      | none => pageWalk s w asid va

/-- R325: the permissions an access kind needs. -/
def permits (l : Leaf) : Acc → Bool
  | .read | .eread => l.r
  | .write | .ewrite => l.w
  | .atomic | .reduce | .lease => l.r && l.w && l.a
  | .fetch => l.x
  | .none => true

def accTrap (c : Cause) (a : Word) (acc : Acc) (sub : Nat) : Trap := ⟨c, a, acc, sub⟩

/-- What keeps an access from its locations: a trap, or, where it is none, a walk that must wait. -/
abbrev Stop := Option Trap

/-- Translate(pos, va, acc) of R29: the leaf, or the TRANSLATION trap. -/
def translate (s : State) (w : Who) (a : Word) (acc : Acc) : State × Except Stop Leaf :=
  match leafFor s w (bits a.toNat 0 56) with
  | (s', .ok l) => if permits l acc then (s', .ok l) else (s', .error (some (accTrap .translation a acc 1)))
  | (s', .error (some (c, sub))) => (s', .error (some (accTrap c a acc sub)))
  | (s', .error none) => (s', .error none)

/-- R324, R306, R366: the checks on the instance that Resolve selects. -/
def instanceOk (s : State) (w : Who) (l : Leaf) (base : Nat) : Bool :=
  let size := pageSize l.size
  match w.part with
  | none => false
  | some n =>
    match rangeOf base, rangeOf (base + size - 1) with
    | .hbm d, .hbm d' => d == d' && inPartHbm s n base size
    | .vat q, .vat q' => q == q' && partOfQuire s q == some n && (l.coh == .coherent || l.coh == .uncached)
        && (q == w.quire || (Sparse.get 0 s.front.perm w.quire).getLsbD q)
    | .cxl, .cxl => l.coh == .coherent && !l.x
    | .pcie, .pcie => l.coh == .uncached && !l.x
    | _, _ => false

/-- What Resolve yields: locations, or the home rank of a REMOTE page. -/
inductive Res where
  | locs (l : List Loc)
  | remote (rank : Nat)
  deriving DecidableEq, Repr

/-- R27: whether a view byte is reserved. -/
def viewReserved (v : Nat) : Bool := (0x01 ≤ v && v ≤ 0x3F) || (0x44 ≤ v && v ≤ 0x7F)

/-- The instance numbers, and their offset within `l`, that Resolve selects for view `v` from quire `q`. -/
def instances (l : Leaf) (v q : Nat) (acc : Acc) (a : Word) : Except Trap (List Nat) :=
  let quire := if v = 0 then some q else if 0x80 ≤ v then some (v - 0x80) else none
  let die := match quire with
    | some x => x / 32
    | none => v - 0x40
  match l.kind with
  | .shared => .ok [0]
  | .privq => match quire with
    | some x => .ok [x]
    | none => .error (accTrap .address a acc 0)
  | .privd => .ok [die]
  | .repl =>
    if v ≠ 0 ∨ acc = .read ∨ acc = .fetch ∨ acc = .eread then .ok [die]
    else if acc = .atomic ∨ acc = .lease ∨ acc = .ewrite ∨ !l.all then .error (accTrap .storepolicy a acc 0)
    else .ok [0, 1, 2, 3]
  | .remote => .ok []

/-- Resolve(pos, a, acc) of R29 on a translated leaf. -/
def resolveLeaf (s : State) (w : Who) (a : Word) (acc : Acc) (l : Leaf) : Except Trap Res :=
  if l.kind = .remote then
    if acc = .eread ∨ acc = .ewrite ∨ acc = .fetch then .error (accTrap .address a acc 0) else .ok (.remote l.rank)
  else match instances l (bits a.toNat 56 8) w.quire acc a with
    | .error t => .error t
    | .ok is =>
      let off := bits a.toNat 0 56 % pageSize l.size
      if is.all fun i => instanceOk s w l (l.frame + i * l.stride) then
        .ok (.locs (is.map fun i => ⟨l.frame + i * l.stride + off, l.coh, a⟩))
      else .error (accTrap .translation a acc 2)

/-- Resolve(pos, a, acc) of R29. -/
def resolve (s : State) (w : Who) (a : Word) (acc : Acc) : State × Except Stop Res :=
  if viewReserved (bits a.toNat 56 8) then (s, .error (some (accTrap .address a acc 0)))
  else match translate s w a acc with
    | (s', .error t) => (s', .error t)
    | (s', .ok l) => match resolveLeaf s' w a acc l with
      | .ok r => (s', .ok r)
      | .error t => (s', .error (some t))

/-- Add to the virtual-address bits of an address, modulo 2^56, keeping its view byte. -/
def addrPlus (a : Word) (n : Nat) : Word :=
  BitVec.ofNat 64 (bits a.toNat 56 8 * 2 ^ 56 + (bits a.toNat 0 56 + n) % 2 ^ 56)

/-- The bytes of the page before an address and from it to the end, if it is mapped, and whether the page is REMOTE. -/
def pageSpan (s : State) (w : Who) (a : Word) : Option (Nat × Nat × Bool) :=
  match (leafFor s w (bits a.toNat 0 56)).2 with
  | .ok l =>
    let k := bits a.toNat 0 56 % pageSize l.size
    some (k, pageSize l.size - k, l.kind == .remote)
  | .error _ => none

/-- An access of more than one page, one of them REMOTE: the alignment step of R176, which comes before Resolve. -/
def spansRemote (s : State) (w : Who) (a : Word) (size : Nat) : Bool :=
  (match pageSpan s w a with
   | some (_, n, true) => n < size
   | _ => false) ||
  (match pageSpan s w (addrPlus a (size - 1)) with
   | some (k, _, true) => k < size - 1
   | _ => false)

/-- What Access of R176 finds: for each page piece, the bytes it holds and its locations; or a migration. -/
inductive Found where
  | pieces (l : List (Nat × List Loc))
  | remote (rank : Nat)
  deriving DecidableEq, Repr

/-- Resolve for the pages of an access of `size` bytes, at most 64, so at most two pages (R176). -/
def resolveAccess (s : State) (w : Who) (a : Word) (size : Nat) (acc : Acc) : State × Except Stop Found :=
  let n1 := match pageSpan s w a with
    | some (_, n, _) => min n size
    | none => size
  let a2 := addrPlus a n1
  if spansRemote s w a size then (s, .error (some (accTrap .align a acc 0)))
  else match resolve s w a acc with
    | (s1, .error t) => (s1, .error t)
    | (s1, .ok (.remote r)) => (s1, .ok (.remote r))
    | (s1, .ok (.locs l1)) =>
      if n1 = size then (s1, .ok (.pieces [(n1, l1)]))
      else match resolve s1 w a2 acc with
        | (s2, .error t) => (s2, .error t)
        | (s2, .ok (.remote r)) => (s2, .ok (.remote r))
        | (s2, .ok (.locs l2)) => (s2, .ok (.pieces [(n1, l1), (size - n1, l2)]))

/-- The unit an access is cut at. An atomic or a reduction is one event, of its whole size (R189 to R192). -/
def accGran (acc : Acc) (pa : Nat) : Nat :=
  match acc with
  | .atomic | .reduce => 32
  | _ => granSize pa

/-- One location cut at granule boundaries: offset in the access, length, location (R34). -/
def cutLoc (acc : Acc) (off : Nat) : Nat → Nat → Loc → List (Nat × Nat × Loc)
  | 0, _, _ => []
  | fuel + 1, n, l =>
    if n = 0 then []
    else
      let k := min n (accGran acc l.pa - l.pa % accGran acc l.pa)
      (off, k, l) :: cutLoc acc (off + k) fuel (n - k) { l with pa := l.pa + k, addr := addrPlus l.addr k }

/-- Granules of one piece in ascending address, and within a granule the replicas in die order (R176). -/
def cutPiece (acc : Acc) (off n : Nat) (ls : List Loc) : List (Nat × Nat × Loc) :=
  match ls with
  | [l] => cutLoc acc off n n l
  | _ =>
    let cuts := ls.map (cutLoc acc off n n)
    (List.range n).flatMap fun i => cuts.filterMap fun ps => ps[i]?

/-- The granule pieces of an access in the order of R176. -/
def cutAccess (acc : Acc) : Nat → List (Nat × List Loc) → List (Nat × Nat × Loc)
  | _, [] => []
  | off, (n, ls) :: r => cutPiece acc off n ls ++ cutAccess acc (off + n) r

end Sys2Proof.Machine
end

