-- ==== Sys2Proof/Machine/Ordering.lean ====
section
/-! DEFINITION. The ordering machine: what holds an event back, where it is performed, scoped copies with Fill,
Write-back and Drop, leases, the Host Port, and one granule event performed (R145 to R173, R191, R192, R314, R315,
R319). -/
namespace Sys2Proof.Machine

/-! ### What holds an event back (R149, R156, R161, R166, R363, R368) -/

/-- R166, R267: one of the access's bytes lies in a declared range at or above the watermark. -/
def aboveMark (s : State) (q pa len : Nat) : Bool :=
  (s.quire q).chans.any fun e =>
    let c := e.2
    c.st != .done && c.len != 0 && max pa c.wm < min (pa + len) (c.lo + c.len)

/-- A context of a task that has moved waits on a SCOPED page until its old quire's flush is acknowledged. -/
def flushHolds (s : State) (d : Doer) (coh : Coh) : Bool :=
  (coh == .scopedQ || coh == .scopedD)
  && (match d.task.bind (taskOf s) with
      | some t => t.oldQuire.isSome
      | none => false)

/-- Whether an event at these bytes must wait. A request to a PCIe mapping waits in the Host Port itself. -/
def mustWait (s : State) (d : Doer) (pa len : Nat) (coh : Coh) : Bool :=
  heldBack s d (lineOf pa) || flushHolds s d coh || granuleBusy s pa
  || (rangeOf pa == .cxl && ideHolds s (fnOf s d.task d.part))
  || (match d.party with
      | some (.ctx p) => aboveMark s (quireOf p) pa len
      | _ => false)

/-! ### What an event does to its bytes -/

/-- The bytes an operation writes, given the old bytes; none when it writes nothing (R187 to R190, R198). -/
def opWrites (op : GOp) (old : List Byte) : Option (List Byte) :=
  match op with
  | .read | .lease _ | .fence _ => none
  | .write d => some d
  | .rmw o sz v => some (toBytes (szBytes sz) (atomNew o sz (ofBytes old) v))
  | .cas c n => if ofBytes old = c then some (toBytes old.length n) else none
  | .barArrive =>
    let w := ofBytes old
    let cnt := bits w 0 16
    let ex := bits w 16 16
    let gen := bits w 32 32
    some (toBytes 8 (if ex ≤ cnt + 1 then pack [(16, 0), (16, ex), (32, gen + 1)]
      else pack [(16, cnt + 1), (16, ex), (32, gen)]))

def opReads : GOp → Bool
  | .write _ => false
  | _ => true

/-- R198: a barrier word with EXP 0 traps, and nothing is written. -/
def barFault (ev : GEv) (old : List Byte) : Option Trap :=
  if ev.op = .barArrive ∧ bits (ofBytes old) 16 16 = 0 then some (barTrap ev.addr) else none

/-- The address as issued of the first byte of an event's granule (R177, R328). -/
def granAddr (ev : GEv) : Word := ev.addr - BitVec.ofNat 64 (ev.pa % granSize ev.pa)

def poisonTrap (ev : GEv) : Trap := accTrap .poison (granAddr ev) ev.acc 0
def linkTrap (ev : GEv) : Trap := accTrap .link (granAddr ev) ev.acc 0

/-- The cycle at which the access of a context's event entered its Issue Port. -/
def enteredAt (s : State) (d : Doer) : Option Nat :=
  match d.party with
  | some (.ctx p) => (s.ctx p).port.map (·.since)
  | _ => none

def isStore : GOp → Bool
  | .write _ => true
  | _ => false

/-- R173: a store of another context on the granule that entered its port so long before this read that the read must see
it, and that nothing holds back. -/
def unseenStore (s : State) (d : Doer) (ev : GEv) : Bool :=
  match d.party, enteredAt s d with
  | some (.ctx p), some since =>
    opReads ev.op && ev.coh == .coherent && !rangeIsHost ev.pa && s.ctxs.any fun e =>
      e.1 != p && e.2.run == .running && (match e.2.port with
        | some x => x.remote.isNone && decide (x.since + seenWithin (dieOf p) ev.pa ≤ since)
            && (x.evs.any fun w => isStore w.op && w.coh == .coherent && w.pa / 32 == ev.pa / 32)
            && (match x.evs with
                | w :: _ => !mustWait s (doerOf s e.1) w.pa w.len w.coh && !linkCut s (quireOf e.1) w.pa
                | [] => false)
        | none => false)
  | _, _ => false

/-- The result of an event: the old bytes of a read, or a trap. -/
abbrev Got := Except Trap (List Byte)

/-- An event performed at the Home. -/
def performHome (s0 : State) (d : Doer) (ev : GEv) : State × Got :=
  let s := drainLine s0 (lineOf ev.pa)
  if opReads ev.op && poisoned s ev.pa ev.len then (s0, .error (poisonTrap ev))
  else
    let old := Memory.readBytes s.mem ev.pa ev.len
    match barFault ev old with
    | some t => (s0, .error t)
    | none =>
      let s1 := if opReads ev.op then countBytes s d.part ev.pa ev.len false else s
      match opWrites ev.op old with
      | none => (s1, .ok old)
      | some w => (countBytes (putHome s1 ev.pa w (enteredAt s d)) d.part ev.pa w.length true, .ok old)

/-! ### Scoped copies (R154, R155, R314) -/

/-- Bytes [off, off + n) of a list replaced. -/
def splice (l : List Byte) (off : Nat) (d : List Byte) : List Byte := l.take off ++ d ++ l.drop (off + d.length)

def maskOf (off n : Nat) : Nat := (2 ^ n - 1) * 2 ^ off

/-- Clear the poison bits of the granules that a write of [off, off + n) covers whole. -/
def clearCovered (p off n : Nat) : Nat :=
  (List.range 4).foldl (fun p i =>
    if off ≤ 32 * i ∧ 32 * i + 32 ≤ off + n then p - bits p i 1 * 2 ^ i else p) p

/-- Fill: the copy takes the line's Home value, its poison with it (R154, R319). -/
def fillCopy (s : State) (d : Doer) (line : Nat) : Copy :=
  let g := fun i => bit1 (Sparse.get false s.poison (4 * line + i))
  { line := line, data := Memory.readBytes s.mem (128 * line) 128, mask := 0,
    poison := pack [(1, g 0), (1, g 1), (1, g 2), (1, g 3)], task := d.task, part := d.part, mixed := false,
    users := [] }

/-- The copies that a page's scope names: the quire's or the die's. -/
def copiesAt (s : State) (q : Nat) (coh : Coh) : List Copy :=
  if coh = .scopedQ then (s.quire q).copies else (s.die (dieOfQuire q)).copies

def setCopies (s : State) (q : Nat) (coh : Coh) (l : List Copy) : State :=
  if coh = .scopedQ then s.setQuire q { s.quire q with copies := l }
  else s.setDie (dieOfQuire q) { s.die (dieOfQuire q) with copies := l }

def copyOf (s : State) (q : Nat) (coh : Coh) (line : Nat) : Option Copy :=
  (copiesAt s q coh).find? (·.line == line)

def putCopy (s : State) (q : Nat) (coh : Coh) (c : Copy) : State :=
  setCopies s q coh ((copiesAt s q coh).filter (·.line != c.line) ++ [c])

/-- R314: the first event of a party of another task, or of none, sets the mixed mark; the users are noted. -/
def touchCopy (c : Copy) (d : Doer) : Copy :=
  { c with
    mixed := c.mixed || d.task.isNone || c.task != d.task
    users := match d.task with
      | some t => if c.users.contains t then c.users else c.users ++ [t]
      | none => c.users }

/-- Whether a core shares the copies that a scope names for quire `q`: the quire's cores, or the die's (R314). -/
def sharesCopies (q : Nat) (coh : Coh) (core : Nat) : Bool :=
  if coh = .scopedQ then core / 8 == q else core / 256 == dieOfQuire q

/-- The L1Ds that share a copy after an event of one of their cores: a write leaves the line in its own only, a read
leaves it shared (R310, R314). -/
def shareCopyL1 (s : State) (d : Doer) (coh : Coh) (line : Nat) (wr : Bool) : State :=
  let c := coreFor s d
  let s1 := { s with cores := s.cores.map fun e =>
      if sharesCopies d.quire coh e.1 ∧ e.1 ≠ c.1 then
        (e.1, { e.2 with l1d := if wr then e.2.l1d.filter fun x => !(x.line == line && x.coh == coh)
          else e.2.l1d.map fun x => if x.line = line ∧ x.coh = coh then { x with hold := .shared } else x })
      else e }
  if c.2 then putL1d s1 c.1 line coh (if wr then .modified else .shared) else s1

/-- No L1D that shares a copy holds a line of it any more. -/
def dropCopyL1 (s : State) (q : Nat) (coh : Coh) (line : Nat) : State :=
  { s with cores := s.cores.map fun e =>
      if sharesCopies q coh e.1 then (e.1, { e.2 with l1d := e.2.l1d.filter fun x => !(x.line == line && x.coh == coh) })
      else e }

/-- An event performed on a copy: the present one, or the one that the Fill makes. -/
def performCopy (s0 : State) (d : Doer) (ev : GEv) : State × Got :=
  let line := lineOf ev.pa
  let sd := drainLine s0 line
  let present := copyOf sd d.quire ev.coh line
  let s := if present.isSome then sd else countBytes (claimLine sd .read line) none (128 * line) 128 false
  let c := touchCopy (present.getD (fillCopy s d line)) d
  let off := ev.pa % 128
  if opReads ev.op && bits c.poison (off / 32) 1 == 1 then (s0, .error (poisonTrap ev))
  else
    let old := (c.data.drop off).take ev.len
    match barFault ev old with
    | some t => (s0, .error t)
    | none => match opWrites ev.op old with
      | none => (shareCopyL1 (putCopy s d.quire ev.coh c) d ev.coh line false, .ok old)
      | some w =>
        let c' := { c with data := splice c.data off w, mask := c.mask ||| maskOf off w.length,
                           poison := clearCovered c.poison off w.length }
        (wakeAt (shareCopyL1 (putCopy s d.quire ev.coh c') d ev.coh line true) ev.pa w.length (fun q k =>
          k == ev.coh && (if k = .scopedQ then q == d.quire else dieOfQuire q == dieOfQuire d.quire)) none, .ok old)

/-- Masked bytes of one granule of a copy written at the Home, with its poison (R154, R319, R370). -/
def writeGranule (c : Copy) (s : State) (i : Nat) : State :=
  let m := bits c.mask (32 * i) 32
  let g := 4 * c.line + i
  if m = 0 then s
  else
    let mem := (List.range 32).foldl (fun mem j =>
      if bits m j 1 = 1 then Memory.write mem (32 * g + j) (c.data.getD (32 * i + j) 0) else mem) s.mem
    let p := if bits c.poison i 1 = 1 then Sparse.set false s.poison g true
      else if m = 2 ^ 32 - 1 then Sparse.set false s.poison g false
      else s.poison
    countBytes (wakeAt { s with mem := mem, poison := p } (32 * g) 32 atHome none) none (32 * g) (popCount m 32) true

/-- Masked bytes of a line written at the Home in one move, after the pending reductions there (R151, R154). -/
def writeLine (s : State) (c : Copy) : State :=
  (List.range 4).foldl (writeGranule c) (claimLine (drainLine s c.line) .own c.line)

def copyRef (q : Nat) (coh : Coh) (line : Nat) : CopyRef := ⟨coh != .scopedQ, if coh = .scopedQ then q else dieOfQuire q, line⟩

/-- The party that a Write-back is: it waits behind a lease on its line as any other (R161). -/
def copyDoer (q : Nat) (coh : Coh) (c : Copy) : Doer := ⟨some (.copy (copyRef q coh c.line)), q, none, c.part, true⟩

/-- Write-back (R154): every masked byte is written at the Home in one step, and the copy becomes absent; the L1Ds' dirty
bytes are the copy's already. -/
def writeBackCopy (s : State) (q : Nat) (coh : Coh) (c : Copy) : State :=
  let s1 := dropCopyL1 (setCopies s q coh ((copiesAt s q coh).filter (·.line != c.line))) q coh c.line
  if c.mask = 0 then s1 else (writeLine s1 c).tally c.part 42 (popCount c.mask 128)

/-- Whether a copy must wait before it is written back: its line is leased, or others wait there before it. -/
def copyHeld (s : State) (q : Nat) (coh : Coh) (c : Copy) : Bool :=
  c.mask != 0 && heldBack s (copyDoer q coh c) c.line

/-- Drop of a clean copy, Write-back of a dirty one; behind a lease the Write-back joins the queue and the copy stays. -/
def evictCopy (s : State) (q : Nat) (coh : Coh) (c : Copy) : State :=
  if copyHeld s q coh c then joinQueue s (.copy (copyRef q coh c.line)) c.line
  else writeBackCopy (leaveQueue s (copyDoer q coh c) c.line) q coh c

/-- R314, R157: the copies that a task's FENCE, FLUSHTAG or end must write back or drop. -/
def copyIsTasks (tag : Option (BitVec 16)) (part : Option Nat) (c : Copy) : Bool :=
  (c.task == tag && tag.isSome) || (match tag with
    | some t => c.users.contains t
    | none => false)
  || (c.mixed && c.part == part) || (c.task == tag && !c.mixed && c.part == part)

/-- Every copy in a list evicted, but those that a lease holds back. -/
def evictAll (s : State) (q : Nat) (coh : Coh) (l : List Copy) : State :=
  l.foldl (fun s c => evictCopy s q coh c) s

/-! ### Room for a copy (R304, R314) -/

/-- SCOPED-Q copies of a quire beyond the scoped ways of their sets: they stand in the Write Queue. -/
def queuedCopies (s : State) (q : Nat) : List Copy :=
  let l := (s.quire q).copies
  let ways := fun (c : Copy) => match c.part with
    | some n => (s.part n).scopedw
    | none => 0
  (l.zipIdx.filter fun e =>
    ways e.1 ≤ ((l.take e.2).filter fun c => c.line % 16384 == e.1.line % 16384).length).map (·.1)

/-- Write Queue entries in use: lines with pending reductions, and SCOPED-Q copies that have no way. -/
def queueUse (s : State) (q : Nat) : Nat :=
  (((s.quire q).pend.map fun p => lineOf p.pa).eraseDups).length + (queuedCopies s q).length

/-- The copies among which the next one to make for a line needs a place, oldest first, and whether there is one. -/
def copyRoom (s : State) (d : Doer) (coh : Coh) (line : Nat) : Bool × List Copy :=
  match coh with
  | .scopedQ =>
    let mine := (s.quire d.quire).copies.filter fun c => c.line % 16384 == line % 16384
    let ways := match d.part with
      | some n => (s.part n).scopedw
      | none => 0
    (mine.length < ways || queueUse s d.quire < 64, if mine.isEmpty then queuedCopies s d.quire else mine)
  | _ =>
    let x := s.die (dieOfQuire d.quire)
    let mine := x.copies.filter fun c => rdcSet c.line == rdcSet line && c.part == d.part
    (mine.length < max 1 (rdcWays s d.part (dieOfQuire d.quire)), mine)

/-- Room for a Fill is made by evicting the oldest copy that may go; none where all must stay. -/
def makeRoom (s : State) (d : Doer) (coh : Coh) (line : Nat) : Option State :=
  ((copyRoom s d coh line).2.find? fun c => !copyHeld s d.quire coh c).map fun c => evictCopy s d.quire coh c

/-! ### The place of performance (R150, R152) -/

inductive Place where
  | home | copy | backThenHome | pcie
  deriving DecidableEq, Repr

def isAtomic : GOp → Bool
  | .rmw .. | .cas .. | .barArrive => true
  | _ => false

def placeOf (d : Doer) (ev : GEv) : Place :=
  if rangeOf ev.pa = .pcie then .pcie
  else if d.home then .home
  else match ev.coh with
    | .coherent | .uncached => .home
    | .scopedQ => if isAtomic ev.op ∧ ev.sc ≠ .q then .backThenHome else .copy
    | .scopedD => if isAtomic ev.op ∧ (ev.sc = .v ∨ ev.sc = .s) then .backThenHome else .copy

/-- The request that an event at the Home makes of the Order Point (R310). -/
def kindOf (op : GOp) : CohKind :=
  match op with
  | .read => .read
  | _ => .own

/-! ### The lessee's own events (R161, R195) -/

/-- The Home bytes overlaid with the held bytes. -/
def overlay (s : State) (l : Lease) (pa len : Nat) : List Byte :=
  (List.range len).map fun i =>
    if bits l.mask (pa % 128 + i) 1 = 1 then l.data.getD (pa % 128 + i) 0 else Memory.read s.mem (pa + i)

def setLease (s : State) (core : Nat) (l : Lease) : State :=
  let k := s.core core
  s.setCore core { k with leases := k.leases.map fun x => if x.line = l.line ∧ x.owner = l.owner then l else x }

def performHeld (s0 : State) (l : Lease) (ev : GEv) : State × Got :=
  let s := drainLine s0 (lineOf ev.pa)
  if opReads ev.op && poisoned s ev.pa ev.len then (s0, .error (poisonTrap ev))
  else
    let old := overlay s l ev.pa ev.len
    match barFault ev old with
    | some t => (s0, .error t)
    | none => match opWrites ev.op old with
      | none => (s, .ok old)
      | some w =>
        let off := ev.pa % 128
        (setLease s (coreOf l.owner) { l with data := splice l.data off w, mask := l.mask ||| maskOf off w.length },
          .ok old)

/-! ### Leases granted, committed (R160, R162, R315) -/

/-- R160: the cases in which a LEASE fails at once. A thread that holds a lease never waits for another's. -/
def leaseFails (s : State) (pos : Nat) (ev : GEv) : Bool :=
  let mine := leasesOf s pos
  let line := lineOf ev.pa
  ev.coh != .coherent || rangeIsHost ev.pa || 2 ≤ mine.length || 8 ≤ (s.core (coreOf pos)).leases.length
  || mine.any (·.line == line)
  || (!mine.isEmpty && heldBack s (doerOf s pos) line)

/-- Grant: the entry is made, those that still wait for the line wait behind it, and ST.LC rises by 1; it is counted
(R160, R161, R370). -/
def grantLease (s0 : State) (pos line n : Nat) : State :=
  let s := drainLine s0 line
  let queue := s.releases.filter (·.1 == line)
  let k := s.core (coreOf pos)
  let l : Lease := { owner := pos, line := line, grant := s.cyc, n := n, data := List.replicate 128 0, mask := 0,
                     probes := (queue.take 8).map (·.2) }
  let s1 := s.setCore (coreOf pos) { k with leases := k.leases ++ [l] }
  let s2 := if queue.length ≤ 8 then s1
    else s1.setDie (heldDie line) { s1.die (heldDie line) with held := queue.drop 8 ++ (s1.die (heldDie line)).held }
  let s3 := { s2 with releases := s2.releases.filter (·.1 != line) }
  let c := s3.ctx pos
  (s3.setCtx pos { c with st := setLC c.st (stLC c.st + 1) }).tally (partOf s pos) 36 1

/-- The held bytes of a lease as a masked line. -/
def heldBytes (l : Lease) : Copy :=
  { line := l.line, data := l.data, mask := l.mask, poison := 0, task := none, part := none, mixed := false, users := [] }

/-- The held bytes of a lease written at the Home; the release takes its place in the die's sequence (R315). -/
def commitLease (s : State) (l : Lease) : State :=
  let s1 := writeLine s (heldBytes l)
  let die := l.owner / 4096
  sequence s1 ((homeDie l.line).getD die) ⟨l.line, die, coreOf l.owner, partOf s l.owner, .release, false⟩

/-- The LEND move (R162): every held byte in one event, the entries freed, ST.LC cleared. -/
def commitAll (s : State) (pos : Nat) : State :=
  let s1 := dropLeases ((leasesOf s pos).foldl commitLease s) pos
  let c := s1.ctx pos
  s1.setCtx pos { c with st := setLC c.st 0 }

/-- R163: leases whose cycle grant + 64 × n has come break, with every other lease of their contexts. -/
def expireLeases (s : State) : State :=
  let due := (s.cores.flatMap fun e => e.2.leases).filter fun l => l.grant + 64 * l.n ≤ s.cyc
  due.foldl (fun s l => if (leasesOf s l.owner).isEmpty then s else breakLeases s l.owner) s

/-! ### The Host Port (R172, R192, R363) -/

/-- The outcome of trying an event: performed with its old bytes, trapped, gone to the Host Port to wait for a
completion, or still waiting. -/
inductive Tried where
  | did (s : State) (old : List Byte)
  | trap (s : State) (t : Trap)
  | gone (s : State)
  | waits (s : State)
  deriving Repr

/-- R192: the atomics that a PCIe mapping carries. -/
def pcieAtomicOk : GOp → Bool
  | .rmw o sz _ => (o == .add || o == .swap) && (sz == .b32 || sz == .b64)
  | .cas .. => true
  | _ => false

def pcieAtomicSize (ev : GEv) : Bool := ev.len == 4 || ev.len == 8 || ev.len == 16

/-- The SLOTGEN of the thread whose request it is; for a streamed read, its entry's number. -/
def hostGen (s : State) (d : Doer) : BitVec 32 :=
  match d.party with
  | some (.ctx p) | some (.ownRacc p) => (s.ctx p).slotgen
  | some (.stream k) => match (s.core k).queue with
    | e :: _ => BitVec.ofNat 32 e.id
    | [] => 0
  | _ => 0

/-- A request accepted by the Host Port, behind all earlier ones. -/
def hostPush (s : State) (d : Doer) (ev : GEv) (wait : Bool) : State :=
  let r : HostReq := ⟨s.front.nextId, d.party.getD .host, hostGen s d, d.part, fnOf s d.task d.part, ev.pa, ev.len, ev.addr, ev.acc,
    ev.op, wait, none⟩
  (s.setDev { s.dev with hostQ := s.dev.hostQ ++ [r] }).setFront { s.front with nextId := s.front.nextId + 1 }

/-- A party's request at these bytes has not been answered yet. -/
def hostPending (s : State) (d : Doer) (pa : Nat) : Bool :=
  (s.dev.hostQ ++ s.dev.hostSent).any fun r => some r.by_ == d.party && r.wait && r.pa == pa && r.gen == hostGen s d

/-- The operand bytes of an AtomicOp: a CAS carries two. -/
def operandBytes (op : GOp) (len : Nat) : Nat :=
  match op with
  | .cas .. => 2 * len
  | .rmw .. => len
  | _ => 0

/-- One request reaches the host: a posted write is in its memory, an MSI-X message is delivered, any other request waits
there for its completion. -/
def hostSend (s : State) (r : HostReq) : State :=
  match r.msi with
  | some m => s.setDev { s.dev with msix := s.dev.msix ++ [m] }
  | none => match r.op with
    | .write d => countBytes (s.setMem (Memory.writeBytes s.mem r.pa d)) r.part r.pa r.len true
    | _ =>
      let s1 := s.setDev { s.dev with hostSent := s.dev.hostSent ++ [r] }
      countBytes s1 r.part r.pa (operandBytes r.op r.len) true

/-- Everything that the Host Port has accepted is sent, in order. -/
def hostFlush (s : State) : State := s.dev.hostQ.foldl hostSend (s.setDev { s.dev with hostQ := [] })

/-- An event on a non-coherent PCIe mapping (R172, R183, R192, R363). The front end's read is made in one move, behind all
that the Host Port has accepted. A masked write comes without bytes: its maker gives the Host Port its runs. -/
def tryPcie (s : State) (d : Doer) (ev : GEv) : Tried :=
  match ev.op with
  | .read => match d.party with
    | some (.front fn) =>
      if ideHolds s fn ∨ s.dev.hostQ.any (fun r => ideHolds s r.fn) then .waits s
      else
        let s1 := countBytes (hostFlush s) d.part ev.pa ev.len false
        .did s1 (Memory.readBytes s1.mem ev.pa ev.len)
    | _ => if hostPending s d ev.pa then .waits s else .gone (hostPush s d ev true)
  | .write [] => .did s []
  | .write _ => .did (hostPush s d ev false) []
  | .lease _ | .fence _ => .did s []
  | _ =>
    if pcieAtomicOk ev.op && pcieAtomicSize ev && Sparse.get false s.dev.atomicEn (fnOf s d.task d.part) then
      (if hostPending s d ev.pa then .waits s else .gone (hostPush s d ev true))
    else .trap s (accTrap .translation ev.addr ev.acc 1)

/-! ### One granule event (R147, R150) -/

def ofGot (r : State × Got) : Tried :=
  match r with
  | (s, .ok old) => .did s old
  | (s, .error t) => .trap s t

/-- R186, R191: a RED at scope .Q on a COHERENT page of device memory counts as performed in the Write Queue. -/
def isQueued (ev : GEv) : Bool :=
  ev.acc == .reduce && ev.sc == .q && ev.coh == .coherent && !rangeIsHost ev.pa

/-- A reduction enters the quire's Write Queue entry for its line, if an entry is free (R191); `w` is the state in which it
has not yet left the line's queue. -/
def enqueueRed (w s0 : State) (d : Doer) (ev : GEv) (o : AtomOp) (sz : Sz) (v : Nat) : Tried :=
  let line := lineOf ev.pa
  let here := (s0.quire d.quire).pend.any fun p => lineOf p.pa == line
  if poisoned s0 ev.pa ev.len then .trap s0 (poisonTrap ev)
  else if !here && 64 ≤ queueUse s0 d.quire then .waits w
  else
    let s := if here then s0 else drainLine s0 line
    let q := s.quire d.quire
    .did (s.setQuire d.quire { q with pend := q.pend ++ [⟨ev.pa, o, sz, v, ev.coh, d.task⟩] }) []

/-- An event behind a lease waits in the line's queue. -/
def waitInLine (s : State) (d : Doer) (line : Nat) : Tried :=
  match d.party with
  | some p => .waits (joinQueue s p line)
  | none => .waits s

/-- The LEASE move (R160, R193): it fails at once, or waits as a probe and is then no longer tested for failing, or is
granted. A LEASE yields the byte 1 when it is granted, else 0. -/
def tryLease (s : State) (d : Doer) (pos n : Nat) (ev : GEv) : Tried :=
  let line := lineOf ev.pa
  if !inQueue s (.ctx pos) line && leaseFails s pos ev then .did s [0]
  else if heldBack s d line then waitInLine s d line
  else if mustWait s d ev.pa ev.len ev.coh || 8 ≤ (s.core (coreOf pos)).leases.length then .waits s
  else if linkCut s d.quire ev.pa then .trap s (linkTrap ev)
  else match orderTake (leaveQueue s d line) d .own line with
    | some s1 => .did (grantLease s1 pos line n) [1]
    | none => .waits s

/-- An event at the Home with its request. On an UNCACHED page no cache takes the line; a die that owns it gives it up. -/
def tryHome (s s1 : State) (d : Doer) (ev : GEv) : Tried :=
  if ev.coh = .uncached then ofGot (performHome (claimLine s1 (kindOf ev.op) (lineOf ev.pa)) d ev)
  else match orderTake s1 d (kindOf ev.op) (lineOf ev.pa) with
    | some s2 => ofGot (performHome s2 d ev)
    | none => .waits s

/-- One event tried at its place of performance. -/
def tryEvent (s : State) (d : Doer) (ev : GEv) : Tried :=
  let line := lineOf ev.pa
  match ev.op, d.party with
  | .lease n, some (.ctx pos) => tryLease s d pos n ev
  | _, _ =>
    if heldBack s d line then waitInLine s d line
    else if mustWait s d ev.pa ev.len ev.coh || unseenStore s d ev then .waits s
    else if linkCut s d.quire ev.pa then .trap s (linkTrap ev)
    else
      let s1 := leaveQueue s d line
      match leaseOn s1 line with
      | some l => ofGot (performHeld s1 l ev)
      | none =>
        match placeOf d ev with
        | .home =>
          match ev.op with
          | .rmw o sz v => if isQueued ev then enqueueRed s s1 d ev o sz v else tryHome s s1 d ev
          | _ => tryHome s s1 d ev
        | .copy =>
          if (copyOf s1 d.quire ev.coh line).isSome || (copyRoom s1 d ev.coh line).1 then ofGot (performCopy s1 d ev)
          else match makeRoom s d ev.coh line with
            | some s2 => .waits s2
            | none => .waits s
        | .backThenHome =>
          match copyOf s1 d.quire ev.coh line with
          | some c => .waits (evictCopy s1 d.quire ev.coh c)
          | none => tryHome s s1 d ev
        | .pcie => tryPcie s1 d ev

end Sys2Proof.Machine
end

