-- ==== Sys2Proof/Machine/Fetch.lean ====
section
/-! DEFINITION. Instruction fetch: the held fetch block, requests to the quire's fetch port and their delivery,
the bytes at PC, and the passing of core cycles (R62, R63, R76, R138, R284). -/
namespace Sys2Proof.Machine

/-- The 32-byte-aligned address of the block that holds an address (R62). -/
def blockAddr (pc : BitVec 56) : Nat := pc.toNat / 32 * 32

/-- The next sequential block, modulo 2^56. -/
def nextBlock (pc : BitVec 56) : Nat := (blockAddr pc + 32) % 2 ^ 56

/-- A context asks its quire's fetch port for a block, in the order of asking (R138). -/
def requestBlock (s : State) (pos a : Nat) : State :=
  let q := s.quire (quireOf pos)
  if q.fetches.contains (pos, a) then s
  else s.setQuire (quireOf pos) { q with fetches := q.fetches ++ [(pos, a)] }

/-- Whether a context has asked for a block that has not come. -/
def hasRequested (s : State) (pos a : Nat) : Bool := (s.quire (quireOf pos)).fetches.contains (pos, a)

/-- The context's current block at its PC: the held one, or the one requested ahead once PC reaches it. -/
def currentBlock (c : Ctx) : Option Block :=
  match c.block, c.ahead with
  | some b, a => if b.addr = blockAddr c.pc then some b else match a with
    | some x => if x.addr = blockAddr c.pc then some x else none
    | none => none
  | none, some x => if x.addr = blockAddr c.pc then some x else none
  | none, none => none

/-- Make the current block the held one. -/
def promote (c : Ctx) (b : Block) : Ctx :=
  if c.block = some b then c else { c with block := some b, ahead := none }

/-- PC moves to a taken branch's target: the branch asks for its target's block, and a block requested ahead
that PC has not reached is dropped, its fault unraised (R76, R138). -/
def jumpTo (s : State) (pos : Nat) (target : BitVec 56) : State :=
  let c := s.ctx pos
  let keep := match c.block with
    | some b => b.addr == blockAddr target
    | none => false
  let q := s.quire (quireOf pos)
  let s1 := s.setQuire (quireOf pos)
    { q with fetches := if keep then q.fetches else q.fetches.filter (·.1 != pos) }
  let s2 := s1.setCtx pos { c with pc := target, refused := 0, ahead := if keep then c.ahead else none }
  (if keep then s2 else requestBlock s2 pos (blockAddr target)).tally (partOf s pos) 32 1

/-- The bytes from PC to the end of its block. -/
def bytesAt (b : Block) (pc : BitVec 56) : List Byte := b.data.drop (pc.toNat % 32)

/-- One block read for FETCH for the context at `pos` (R62, R29): its bytes, or the trap that the fetch met; none while it
must wait. The record of a fault in fetch names the block's address with view byte 0x00 (R76). -/
def fetchBlock (s : State) (w : Who) (pos a : Nat) : State × Option Block :=
  let va : Word := BitVec.ofNat 64 a
  match resolve s w va .fetch with
  | (s1, .error (some t)) => (s1, some ⟨a, [], some { t with info := va }⟩)
  | (s1, .error none) => (s1, none)
  | (s1, .ok (.remote _)) => (s1, some ⟨a, [], some (accTrap .address va .fetch 0)⟩)
  | (s1, .ok (.locs [])) => (s1, some ⟨a, [], some (accTrap .translation va .fetch 2)⟩)
  | (s1, .ok (.locs (l :: _))) =>
    let q := s1.quire w.quire
    let line := Sparse.get [] q.l1i (l.pa / 32)
    let f := s1.fresh
    if line ≠ [] ∧ Config.l1iKeeps f.1 then (f.2, some ⟨a, line, none⟩)
    else
      let s2 := if line = [] then s1 else f.2
      let d : Doer := ⟨some (.fetch pos), w.quire, none, w.part, false⟩
      match tryEvent s2 d ⟨l.pa, 32, l.coh, va, .fetch, .v, .read⟩ with
      | .did s3 data =>
        let q3 := s3.quire w.quire
        (s3.setQuire w.quire { q3 with l1i := Sparse.set [] q3.l1i (l.pa / 32) data }, some ⟨a, data, none⟩)
      | .trap s3 t => (s3, some ⟨a, [], some { t with info := va }⟩)
      | .gone s3 | .waits s3 => (s3, none)

/-- A delivered block reaches a context that asked for it: as its current block if PC lies in it, else as the one
further block (R138). -/
def takeBlock (c : Ctx) (b : Block) : Ctx :=
  if b.addr = blockAddr c.pc then { c with block := some b } else { c with ahead := some b }

/-- One delivery serves every outstanding request of the quire for a block under an identifier (R138). -/
def giveBlock (s : State) (q a : Nat) (asid : Option Nat) (b : Block) : State :=
  let who := (s.quire q).fetches.filter fun r => r.2 == a && asidOf s r.1 == asid
  let x := s.quire q
  let s1 := s.setQuire q { x with fetches := x.fetches.filter (fun r => !who.contains r), served := s.cyc + 1 }
  who.foldl (fun s r => s.setCtx r.1 (takeBlock (s.ctx r.1) b)) s1

/-- R138: the port delivers at most one block in a cycle, for the oldest request. A block that must wait keeps its
requests. -/
def deliver (s : State) (q : Nat) : Option State :=
  match (s.quire q).fetches with
  | [] => none
  | (pos, a) :: _ =>
    let w := whoIs s pos
    if (s.quire q).served = s.cyc + 1 then none
    else match fetchBlock s w pos a with
      | (s1, none) => if s1 = s then none else some s1
      | (s1, some b) => some (giveBlock s1 q a w.asid b)

def execFetchBlockDelivery (q : Nat) (s : State) : Out :=
  match deliver s q with
  | some t => .next t
  | none => .fault (.notEnabled "no fetch request that can be served")

/-! ### Cycles (R163, R284, R329, R369) -/

/-- The counters that rise with each cycle: quire-cycles with a resident task, context-cycles in IDLE. -/
def countCycle (s : State) : State :=
  let busy := (s.front.tasks.map (·.quire)).eraseDups
  let s1 := busy.foldl (fun s q => s.tally (partOfQuire s q) 30 1) s
  let idle := s1.ctxs.filter fun e => match e.2.wait with
    | .idle _ | .service => e.2.run == .running
    | _ => false
  idle.foldl (fun s e => s.tally (partOf s e.1) 31 1) s1

/-- Records that waited for their ring are posted once it takes them (R329). -/
def postWaiting (s : State) : State :=
  (s.front.parts.filter fun e => !e.2.unposted.isEmpty).foldl (fun s e => postAllHeld s e.1) s

/-- Bring-up's first two steps take place as cycles pass (log 126): the link trains; then the root of trust measures its boot
ROM into index 1 and draws EPOCH (R374). -/
def bootStep (s : State) : State :=
  match s.dev.bstep with
  | 0 => s.setDev { s.dev with bstep := 1 }
  | 1 => s.setDev { s.dev with
      bstep := 2
      epoch := Config.epoch s.dev.resets
      measured := Sparse.set 0 s.dev.measured 1 (Config.measurement 1 s.dev.resets) }
  | _ => s

/-- One core cycle passes: CYC rises, and leases whose end has come break (R14, R163). -/
def tick (s : State) : State :=
  bootStep (postWaiting (expireLeases (countCycle { s with cyc := s.cyc + 1, issued := [], shown := [], taken := [] })))

def tickN : Nat → State → State
  | 0, s => s
  | n + 1, s => tickN n (tick s)

/-- Cycles to wait until a context's slot comes, when it has not issued in this cycle (R284). -/
def cyclesToSlot (s : State) (pos : Nat) : Nat :=
  let k := (slotOf pos + 16 - s.cyc % 16) % 16
  if k = 0 ∧ s.issued.contains pos then 16 else k

end Sys2Proof.Machine
end

