-- ==== Sys2Proof/Machine/Operands.lean ====
section
/-! DEFINITION. The operand forms: integer types and sources, immediates, memory addresses and the length each
form gives its instruction, and floating reads (R66 to R68, R112, R115, R127). -/
namespace Sys2Proof.Machine

/-! ### Lengths of the forms (R66, R67, R70) -/

def immBytes : Imm → Nat
  | .i28 _ => 8
  | .i60 _ => 12
  | .i64 _ => 16

def srcBytes : Src → Nat
  | .reg _ => 8
  | .imm i => immBytes i

def addrBytes : Addr → Nat
  | .base8 .. | .index .. => 8
  | .base40 .. => 12
  | .abs .. => 16

/-! ### Integer sources (R66, R112) -/

def immWord : Imm → Word
  | .i28 v => v.signExtend 64
  | .i60 v => v.signExtend 64
  | .i64 v => v

def srcWord (c : Ctx) : Src → Word
  | .reg r => c.reg r
  | .imm i => immWord i

/-- The format that an integer type field names; 0x00 is read as S64 (R112). -/
def ityFmt : ITy → Fmt
  | .dflt | .s64 => .s64
  | .s8 => .s8 | .s16 => .s16 | .s32 => .s32
  | .n8 => .n8 | .n16 => .n16 | .n32 => .n32 | .n64 => .n64

/-- Int(x, TY). -/
def intOf (ty : ITy) (x : Word) : Int := intVal (ityFmt ty) x.toNat

/-- Ext(r, TY). -/
def extOf (ty : ITy) (r : Int) : Word :=
  let f := ityFmt ty
  BitVec.ofInt 64 (intVal f (wrapTo (fmtBits f) r))

/-- The low w bits of a source, unsigned. -/
def lowOf (ty : ITy) (x : Word) : Nat := x.toNat % 2 ^ fmtBits (ityFmt ty)

/-- The signed counterpart of an integer type, for SHA (R115). -/
def signedTy : ITy → ITy
  | .n8 => .s8 | .n16 => .s16 | .n32 => .s32 | .n64 => .s64 | t => t

/-! ### Memory operands (R68) -/

def withView (a : Word) (vw : BitVec 8) : Word := if vw = 0 then a else putBits a 56 8 vw.toNat

/-- EA. -/
def eaOf (c : Ctx) : Addr → Word
  | .base8 ra d vw => withView (c.reg ra + d.signExtend 64) vw
  | .base40 ra d vw => withView (c.reg ra + d.signExtend 64) vw
  | .index ra rb scl vw => withView (c.reg ra + (c.reg rb <<< scl.toNat)) vw
  | .abs a vw => withView a vw

/-! ### Floating sources (R91, R127) -/

/-- Scalar floating arithmetic accepts FP64, FP32, BF16 and FP16 (R91). -/
def scalarFloat : Fmt → Bool
  | .f64 | .f32 | .bf16 | .f16 => true
  | _ => false

/-- FRead: the register's low bits in a format, with DAZ. -/
def fread (c : Ctx) (f : Fmt) (r : Reg) : Val := dazVal f (stDAZ c.st) (floatVal f (c.reg r).toNat)

/-- The rounding control of a scalar operation (R94, R127). -/
def ctlOf (c : Ctx) : Ctl := ⟨opMode (stRM c.st), false, stFTZ c.st, 0⟩

end Sys2Proof.Machine
end

