-- ==== Sys2Proof/Machine/Control.lean ====
section
/-! DEFINITION. Control instructions, ALIGN with its release, the iteration counters and FMT (R73, R78, R79,
R132 to R144). -/
namespace Sys2Proof.Machine

/-! ### Tile and channel states as tests see them (R16, R18, R69) -/

def tileAt (s : State) (q : Nat) (t : Handle) : Tile := Sparse.get Tile.reset (s.quire q).tiles t.toNat

def chanAt (s : State) (q ch : Nat) : Chan := Sparse.get Chan.reset (s.quire q).chans ch

def TState.code : TState → Nat
  | .empty => 0 | .filling => 1 | .ready => 2 | .draining => 3 | .faulted => 4

def ChSt.code : ChSt → Nat
  | .idle => 0 | .active => 1 | .done => 2 | .faulted => 3

/-! ### Branches (R132 to R137) -/

/-- The PC-relative target: (PC + OFF × 4) mod 2^56. -/
def relTarget (pc : BitVec 56) (off : BitVec 34) : BitVec 56 := pc + (off.signExtend 56 <<< 2)

/-- Branch to the PC-relative target when the test holds. -/
def branchIf (t : Bool) (c : Ctx) (off : BitVec 34) (s : State) : Eff :=
  ok (if t then jumpTo s s.cur (relTarget c.pc off) else retire s c 8)

def execNop (g : Guard) (s : State) : Out := guarded g false 8 s fun c => ok (retire s c 8)

def execBr (g : Guard) (off : BitVec 34) (s : State) : Out := guarded g false 8 s fun c => branchIf true c off s

def execBrTile (g : Guard) (t : Handle) (cv : BitVec 3) (cn : Bool) (off : BitVec 34) (s : State) : Out :=
  guarded g false 8 s fun c =>
    branchIf (((tileAt s (quireOf s.cur) t).st.code == cv.toNat) != cn) c off s

def execBrChan (g : Guard) (ch : BitVec 3) (cv : BitVec 3) (cn : Bool) (off : BitVec 34) (s : State) : Out :=
  guarded g false 8 s fun c =>
    branchIf (((chanAt s (quireOf s.cur) ch.toNat).st.code == cv.toNat) != cn) c off s

/-- A register target: bits [55:0]; low bits other than 0b00 raise ALIGN (R78). `c` holds what the branch writes
besides PC. -/
def branchReg (s : State) (target : Word) (c : Ctx) : Eff :=
  if bits target.toNat 0 2 = 0 then ok (jumpTo (s.setCtx s.cur c) s.cur (target.setWidth 56))
  else bad s (trapOf .align target)

/-- The link register g15 takes next, zero-extended (R135). -/
def linked (c : Ctx) : Ctx := c.setReg 15 ((c.pc + 8).setWidth 64)

def execJmp (g : Guard) (n : Reg) (s : State) : Out := guarded g false 8 s fun c => branchReg s (c.reg n) c

def execCall (g : Guard) (off : BitVec 34) (s : State) : Out :=
  guarded g false 8 s fun c => ok (jumpTo (s.setCtx s.cur (linked c)) s.cur (relTarget c.pc off))

def execCallReg (g : Guard) (n : Reg) (s : State) : Out :=
  guarded g false 8 s fun c => branchReg s (c.reg n) (linked c)

def execRet (g : Guard) (s : State) : Out := guarded g false 8 s fun c => branchReg s (c.reg 15) c

/-! ### ALIGN (R139) -/

def execAlign (g : Guard) (limit : BitVec 20) (s : State) : Out :=
  guarded g false 8 s fun c =>
    let n := if limit = 0 then 4096 else limit.toNat
    ok (s.setCtx s.cur { c with wait := .align c.pc s.cyc n })

/-- A participant of a task's ALIGN: not halted, not in WFW, no posted record. A FAULTED context whose record waits for ring
space is still one. -/
def participates (q : Nat) (task : Option (BitVec 16)) (e : Nat × Ctx) : Bool :=
  quireOf e.1 == q && e.2.task == task && task.isSome
  && (match e.2.run, e.2.wait with
      | .running, .wfw _ => false
      | .running, _ => true
      | .faulted, _ => e.2.handle.isNone
      | _, _ => false)

def waitsAt (pc : BitVec 56) (c : Ctx) : Bool :=
  match c.wait with
  | .align a _ _ => a == pc && c.run == .running
  | _ => false

/-- Whether an ALIGN waiter at `pc` is released: every participant of its task waits there, or, at its slot, its limit has
passed. -/
def alignFree (s : State) (q : Nat) (pc : BitVec 56) (e : Nat × Ctx) : Bool :=
  quireOf e.1 == q && waitsAt pc e.2
  && ((s.ctxs.all fun p => !participates q e.2.task p || waitsAt pc p.2)
      || (match e.2.wait with
          | .align _ t n => decide (t + n ≤ s.cyc) && s.cyc % 16 == slotOf e.1
          | _ => false))

/-- A context back in the rotation past its instruction. -/
def resumePast (s : State) (pos len : Nat) : State := retireAt (leaveRotation s pos .none) pos len

def execAlignRelease (q : Nat) (pc : BitVec 56) (s : State) : Out :=
  let l := s.ctxs.filter (alignFree s q pc)
  when (!l.isEmpty) "no ALIGN waiter to release" (l.foldl (fun s e => resumePast s e.1 8) s)

/-! ### Iteration counters (R140 to R144) -/

def ctrAt (t : Task) (n : BitVec 2) : IterCtr := t.ctrs.getD n.toNat IterCtr.reset

def setCtr (t : Task) (n : BitVec 2) (x : IterCtr) : Task :=
  { t with ctrs := (List.range 4).map fun i => if i = n.toNat then x else t.ctrs.getD i IterCtr.reset }

def execGchunkInit (g : Guard) (n : BitVec 2) (ra rb rc : Reg) (s : State) : Out :=
  guarded g false 8 s fun c =>
    match c.task.bind (taskOf s) with
    | none => bad s (operand 0)
    | some t =>
      let w := (c.reg rc).toNat
      if bits w 0 16 = 0 ∨ bits w 16 32 = 0 ∨ bits w 48 16 ≠ 0 then bad s (operand w)
      else
        let x : IterCtr := ⟨c.reg ra, c.reg rb, BitVec.ofNat 16 w, BitVec.ofNat 32 (bits w 16 32)⟩
        ok (retire (s.setTask (setCtr t n x)) c 8)

/-- R142: the size of the next chunk. -/
def chunkOf (x : IterCtr) : Nat :=
  if x.remain = 0 then 0
  else min (max (x.remain.toNat / (2 * x.p.toNat)) x.minc.toNat) x.remain.toNat

def execGchunk (g : Guard) (pd : Pred) (rd : Reg) (n : BitVec 2) (s : State) : Out :=
  guarded g false 8 s fun c =>
    if regOdd rd then bad s (operandAt rd.toNat)
    else match c.task.bind (taskOf s) with
      | none => bad s (operand 0)
      | some t =>
        let x := ctrAt t n
        let k := chunkOf x
        let kw : Word := BitVec.ofNat 64 k
        let x' : IterCtr := { x with next := x.next + kw, remain := x.remain - kw }
        let c' := ((c.setReg rd x.next).setReg (regSucc rd) kw).setPred pd (0 < k)
        ok (retire (s.setTask (setCtr t n x')) c' 8)

/-! ### FMT (R73, R79) -/

/-- The 16-bit payload. -/
def pfxOf (p : FmtPay) : Nat :=
  pack [(5, p.fa.toNat), (5, p.fb.toNat), (1, bit1 p.psc), (1, 0), (1, bit1 p.sf), (3, p.rmo.toNat)]

def execFmt (p : FmtPay) (s : State) : Out :=
  guarded ⟨0, false⟩ false 8 s fun c =>
    ok (retire s { c with st := putBits (putBits c.st 32 16 (pfxOf p)) 49 1 1 } 8)

end Sys2Proof.Machine
end

