-- ==== Sys2Proof/Machine/Deckle.lean ====
section
/-! DEFINITION. Deckle records and their check, slices, element addresses, and the conditions on named tiles (R9,
R17, R19 to R24, R90, R202, R210). -/
namespace Sys2Proof.Machine

/-! ### Fields of a deckle record (R20) -/

abbrev DkRec := BitVec 512

def dkBase (r : DkRec) : Word := r.extractLsb' 0 64
def dkExt (r : DkRec) (i : Nat) : Nat := bits r.toNat (64 + 32 * i) 32
def dkStr (r : DkRec) (i : Nat) : Int := (r.extractLsb' (224 + 32 * i) 32).toInt
def dkCode (r : DkRec) : Nat := bits r.toNat 384 5
def dkRank (r : DkRec) : Nat := bits r.toNat 389 3
def dkPsh (r : DkRec) (i : Nat) : Nat := bits r.toNat (448 + 8 * i) 5
def dkPlev (r : DkRec) (i : Nat) : Nat := bits r.toNat (453 + 8 * i) 3

def axes : List Nat := [0, 1, 2, 3, 4]

/-- R21: the check of DKLD, DKSET and a launch's deckle records. -/
def dkOk (r : DkRec) : Bool :=
  match fmtOf (dkCode r) with
  | none => false
  | some f =>
    1 ≤ dkRank r && dkRank r ≤ 5
    && axes.all fun i =>
      (dkRank r ≤ i || dkExt r i != 0)
      && (fmtBits f < 8 || dkRank r ≤ i || dkStr r i % (fmtBits f / 8 : Nat) == 0)
      && dkPlev r i != 7 && (i < dkRank r || dkPlev r i == 0)

def deckleAt (s : State) (q n : Nat) : DkRec := Sparse.get 0 (s.quire q).deckles n

def setDeckle (s : State) (q n : Nat) (r : DkRec) : State :=
  s.setQuire q { s.quire q with deckles := Sparse.set 0 (s.quire q).deckles n r }

/-! ### Work-identifier levels (R9, R288) -/

/-- WID.L; a level that the widths do not define yields 0. -/
def widLevel (wid levels : Word) (l : Nat) : Nat :=
  let ws := levelWidths levels
  match ws[l - 1]? with
  | some w => bits wid.toNat (ws.take (l - 1)).sum w
  | none => 0

/-! ### Slices (R22, R23, R90) -/

/-- Formats whose STR[0] the device ignores: narrower than a byte, or block-scaled. -/
def packedFmt (f : Fmt) : Bool := fmtBits f < 8 || fmtBlock f

/-- The multiple that EXT[0] and a slice's origin along axis 0 must be of (R22, R23). -/
def packUnit (f : Fmt) : Nat :=
  if fmtBlock f then 64
  else match fmtBits f with
    | 4 => 2
    | 6 => 4
    | _ => 1

/-- Origin and extent along an axis for a thread (R23); `cut` is false where partition fields are ignored. -/
def axisSlice (r : DkRec) (wid levels : Word) (cut : Bool) (i : Nat) : Nat × Nat :=
  if dkRank r ≤ i then (0, 1)
  else if cut ∧ dkPlev r i ≠ 0 then
    let o := widLevel wid levels (dkPlev r i) * 2 ^ dkPsh r i
    (o, if o < dkExt r i then min (2 ^ dkPsh r i) (dkExt r i - o) else 0)
  else (0, dkExt r i)

/-- The slice of a deckle from an origin address, or none where R22 and R23 raise OPERAND. -/
def sliceOf (r : DkRec) (wid levels : Word) (cut : Bool) (base : Word) (vat : Bool) (lo hi : Nat) : Option Slice :=
  match fmtOf (dkCode r) with
  | none => none
  | some f =>
    let ax := axes.map (axisSlice r wid levels cut)
    let o0 := (ax.getD 0 (0, 1)).1
    let move : Int := ((axes.map fun i =>
      if i = 0 ∧ packedFmt f then (0 : Int) else ((ax.getD i (0, 1)).1 : Int) * dkStr r i)).sum
    if dkOk r && dkExt r 0 % packUnit f == 0 && (!packedFmt f || o0 % packUnit f == 0) then
      some { fmt := f, base := base + BitVec.ofInt 64 move, rank := dkRank r, ext := ax.map (·.2),
             str := axes.map fun i => if i < dkRank r then dkStr r i else 0,
             org := if packedFmt f then o0 else 0, full := dkExt r 0, vat := vat, lo := lo, hi := hi }
    else none

def Slice.count (sl : Slice) : Nat := sl.ext.foldl (· * ·) 1

/-- The indices of a linear slice index, axis 0 fastest (R99). -/
def unlin : List Nat → Nat → List Nat
  | [], _ => []
  | e :: r, l => l % e :: unlin r (l / e)

/-- The linear index of indices. -/
def relin : List Nat → List Nat → Nat
  | e :: er, i :: ir => i + e * relin er ir
  | _, _ => 0

/-- The first byte of the row of an element, from axes 1 to 4 (R90). -/
def rowAddr (sl : Slice) (ix : List Nat) : Int :=
  sl.base.toNat + (([1, 2, 3, 4].map fun k => (ix.getD k 0 : Int) * sl.str.getD k 0)).sum

/-- An element's first byte, and its bit position there (R22, R90). -/
def elemAddr (sl : Slice) (ix : List Nat) : Int × Nat :=
  let i0 := ix.getD 0 0
  if packedFmt sl.fmt then
    let b := (sl.org + i0) * fmtBits sl.fmt
    (rowAddr sl ix + (b / 8 : Nat), b % 8)
  else (rowAddr sl ix + (i0 : Int) * sl.str.getD 0 0, 0)

/-- Bytes an element touches. -/
def elemSpan (f : Fmt) (bit : Nat) : Nat := (bit + fmtBits f + 7) / 8

/-- The byte that holds the block scale of an element of a block-scaled slice (R90). -/
def scaleAddr (sl : Slice) (ix : List Nat) : Int :=
  let e := if sl.fmt = .bs4 then sl.full / 2 else sl.full
  rowAddr sl ix + e + ((sl.org + ix.getD 0 0) / 64 : Nat)

/-- Every element, in increasing linear index, with its indices. -/
def Slice.indices (sl : Slice) : List (List Nat) := (List.range (Slice.count sl)).map (unlin sl.ext)

/-- The bytes of the physical or virtual space that a slice's elements, and their scales, occupy. -/
def sliceBytes (sl : Slice) : List Int :=
  (Slice.indices sl).flatMap fun ix =>
    let a := elemAddr sl ix
    ((List.range (elemSpan sl.fmt a.2)).map fun (i : Nat) => a.1 + (i : Int))
    ++ (if fmtBlock sl.fmt then [scaleAddr sl ix] else [])

/-- R210: every element of a tile's slice lies in its tile's bytes. -/
def inTile (sl : Slice) : Bool := (sliceBytes sl).all fun a => (sl.lo : Int) ≤ a && a < (sl.hi : Int)

/-- Elements to a whole number of bytes along axis 0 (R22, R90). -/
def byteUnit (f : Fmt) : Nat := if f = .bs8 then 1 else if f = .bs4 then 2 else packUnit f

/-- R210, R257: a slice of a format narrower than a byte begins and ends along axis 0 at a byte boundary. -/
def evenSlice (sl : Slice) : Bool := Slice.count sl == 0 || sl.ext.getD 0 0 % byteUnit sl.fmt == 0

/-- The vat's first byte of a tile, and the byte past its last. -/
def tileRange (q : Nat) (t : Tile) : Nat × Nat :=
  let n := if t.len = 0 then 65536 else t.len
  (vatBase q + t.voff * 128, vatBase q + (t.voff + n) * 128)

/-- A tile's slice for a context (R210), or none for OPERAND. -/
def tileSlice (s : State) (q : Nat) (t : Handle) (wid levels : Word) (cut : Bool) : Option Slice :=
  let e := tileAt s q t
  let rg := tileRange q e
  match sliceOf (deckleAt s q e.dk) wid levels cut (BitVec.ofNat 64 rg.1) true rg.1 rg.2 with
  | some sl => if inTile sl && evenSlice sl then some sl else none
  | none => none

/-- A memory deckle's slice for a context; a handle of 64 or more names none (R75). -/
def memSlice (s : State) (q : Nat) (d : Handle) (wid levels : Word) (cut : Bool) : Option Slice :=
  if d.toNat < 64 then sliceOf (deckleAt s q d.toNat) wid levels cut (dkBase (deckleAt s q d.toNat)) false 0 0
  else none

/-! ### Elements as bits -/

/-- An element's bits from its bytes. -/
def takeElem (f : Fmt) (bit : Nat) (bs : List Byte) : Nat := bits (ofBytes bs) bit (fmtBits f)

/-- The bit mask that an element covers in its bytes, and its bits in place. -/
def putElem (f : Fmt) (bit v : Nat) : Nat × Nat := ((2 ^ fmtBits f - 1) * 2 ^ bit, v % 2 ^ fmtBits f * 2 ^ bit)

/-! ### Conditions on named tiles (R17, R202) -/

inductive TileTest where
  | ok | wait | trap (t : Trap)
  deriving DecidableEq, Repr

def owns (c : Ctx) (t : Tile) : Bool := t.owner.isSome && t.owner == c.task

/-- R202, then R17, for every tile an instruction names. -/
def testTiles (s : State) (c : Ctx) (q : Nat) (l : List Handle) : TileTest :=
  match l.find? fun t => !owns c (tileAt s q t) with
  | some t => .trap (operand t.toNat)
  | none => match l.find? fun t => (tileAt s q t).st == .faulted with
    | some t => .trap (trapOf .tile (freeInfo .tile t.toNat))
    | none => if l.all fun t => (tileAt s q t).st == .ready then .ok else .wait

/-- The context is out of the rotation until it is re-tested (R17). -/
def waitRetest (s : State) (pos : Nat) : Eff := ok (leaveRotation s pos .retest)

/-- An instruction's body behind the tile conditions of R17. -/
def withTiles (s : State) (c : Ctx) (l : List Handle) (body : Eff) : Eff :=
  match testTiles s c (quireOf s.cur) l with
  | .ok => body
  | .wait => waitRetest s s.cur
  | .trap t => bad s t

def setTile (s : State) (q t : Nat) (x : Tile) : State :=
  s.setQuire q { s.quire q with tiles := Sparse.set Tile.reset (s.quire q).tiles t x }

def setChan (s : State) (q ch : Nat) (x : Chan) : State :=
  s.setQuire q { s.quire q with chans := Sparse.set Chan.reset (s.quire q).chans ch x }

/-- Slots in use whose arrived count is below their expected count (R16). -/
def slotPending (p : PSlot) : Bool := p.used && p.arrived < p.expect

def tilePend (t : Tile) : Nat := pack (t.slots.map fun p => (1, bit1 (slotPending p)))
def tileUsed (t : Tile) : Nat := pack (t.slots.map fun p => (1, bit1 p.used))

/-- The entry word of R16; an unallocated entry reads as zero. -/
def tileWord (t : Tile) : Word :=
  if t.owner.isNone then 0
  else BitVec.ofNat 64 (pack [(3, t.st.code), (5, 0), (16, t.len), (16, t.voff), (4, 0), (4, tilePend t),
    (4, tileUsed t), (6, t.dk)])

/-- The issuer of a job or entry: what its records and its translation need. -/
def issuerOf (s : State) (c : Ctx) : Issuer :=
  { pos := s.cur, slotgen := c.slotgen, pc := c.pc, enc := encOf c, task := c.task, part := partOf s s.cur,
    asid := asidOf s s.cur }

/-! ### Elements of tiles in vat memory (R168, R216) -/

/-- A write of some bits of a byte: address, mask, bits. -/
abbrev BitWrite := Nat × Nat × Nat

/-- The bit writes of an element's value at an address (R22). -/
def elemWrites (f : Fmt) (a : Nat) (bit v : Nat) : List BitWrite :=
  let m := putElem f bit v
  (List.range (elemSpan f bit)).map fun i => (a + i, bits m.1 (8 * i) 8, bits m.2 (8 * i) 8)

def writeBitsMem (m : Memory) (w : BitWrite) : Memory :=
  Memory.write m w.1 (BitVec.ofNat 8 (((Memory.read m w.1).toNat &&& (255 - w.2.1)) ||| w.2.2))

/-- Granules that the writes touch. -/
def granulesOf (l : List BitWrite) : List Nat := (l.map fun w => w.1 / 32).eraseDups

/-- Whether the writes cover every bit of a granule. -/
def coversGranule (l : List BitWrite) (g : Nat) : Bool :=
  (List.range 32).all fun i => ((l.filter fun w => w.1 == 32 * g + i).foldl (fun m w => m ||| w.2.1) 0) == 255

/-- Masked writes at the Home, granule by granule: whole granules lose their poison, others keep it (R259,
R319); the bytes are counted (R370), for the party's partition where they cross the host link. -/
def applyBits (s0 : State) (part : Option Nat) (l : List BitWrite) : State :=
  let gs := granulesOf l
  let s := gs.foldl (fun s g => drainLine s (g / 4)) s0
  let s1 := { s with
    mem := l.foldl writeBitsMem s.mem
    poison := gs.foldl (fun p g => if coversGranule l g then Sparse.set false p g false else p) s.poison }
  gs.foldl (fun s g =>
    let at_ := ((l.filter fun w => w.1 / 32 == g).map (·.1)).eraseDups
    countBytes (at_.foldl (fun s a => wakeAt s a 1 atHome none) s) part (32 * g) at_.length true) s1

/-- The bit writes that put values into a vat slice's elements, in increasing linear index. -/
def sliceWrites (sl : Slice) (vals : List Nat) : List BitWrite :=
  ((Slice.indices sl).zip vals).flatMap fun e =>
    let a := elemAddr sl e.1
    elemWrites sl.fmt a.1.toNat a.2 e.2

end Sys2Proof.Machine
end

