-- ==== Sys2Proof/Machine/Fabric.lean ====
section
/-! DEFINITION. The fabric's registers read as fields, the calendar, packets enqueued, the choice of a slot, and
what a sender and a relay do at a slot's start and at a receipt (R336 to R351, R356). -/
namespace Sys2Proof.Machine

/-! ### Registers as fields (R358) -/

def myDev (s : State) : Nat := bits s.fabric.fid.toNat 0 10
def blkLog (s : State) : Nat := bits s.fabric.fid.toNat 16 4

/-- Whether a device lies in this device's block (R337). -/
def inBlock (s : State) (d : Nat) : Bool := d < 1024 && d / 2 ^ blkLog s == myDev s / 2 ^ blkLog s

def stOff : Nat := 0
def stConfig : Nat := 1
def stRun : Nat := 2

/-- R339: the default calendar for j = 10, which CAL resets to. -/
def defaultKey (e : Nat) : Nat := if e = 0 then 0 else 1 + (e - 1) % 1023

/-- K[p][s] as CAL holds it (R337, R339). -/
def calKey (s : State) (plane slot : Nat) : Nat :=
  match Sparse.get none s.fabric.cal (64 * plane + slot % 64) with
  | some k => k.toNat
  | none => defaultKey (64 * plane + slot % 64)

/-- PKEYT: a partition's key, if it is valid (R343); 0x0000 never is (R341). -/
def pkeyOf (s : State) (n : Nat) : Option (BitVec 16) :=
  let e := Sparse.get 0 s.fabric.pkeyt n
  if e.getLsbD 31 && bits e.toNat 0 16 != 0 then some (e.setWidth 16) else none

/-- The partition that a key names. -/
def partOfKey (s : State) (k : BitVec 16) : Option Nat :=
  (List.range 128).find? fun n => pkeyOf s n == some k

/-- A routing table entry of a generation (R345). -/
def rtab (s : State) (gen : Bool) (d : Nat) : BitVec 128 :=
  Sparse.get 0 (if gen then s.fabric.rtab1 else s.fabric.rtab0) d

def pmask (e : BitVec 128) (p : Nat) : Bool := e.getLsbD p

/-- Relay choice n of an entry: V, VIA, CR. -/
def relayChoice (e : BitVec 128) (n : Nat) : Option (Nat × Nat) :=
  let f := bits e.toNat (16 + 19 * n) 19
  if bits f 18 1 = 1 then some (bits f 8 10, bits f 0 8) else none

def chKey (dst cls : Nat) : Nat := 4 * dst + cls

def pairCh (s : State) (dst cls : Nat) : PairCh := Sparse.get PairCh.reset s.fabric.chans (chKey dst cls)

def setPairCh (s : State) (dst cls : Nat) (c : PairCh) : State :=
  s.setFabric { s.fabric with chans := Sparse.set PairCh.reset s.fabric.chans (chKey dst cls) c }

/-- R348: whether a device can be reached at all; a partition without a valid key has no packet that can be made (log 124). -/
def reachable (s : State) (part : Option Nat) (dst : Nat) : Bool :=
  s.fabric.state == stRun && !s.fabric.failed.contains dst && part.any fun n => (pkeyOf s n).isSome

/-- The rank under which a partition's map lists a device (R343). -/
def rankOf (s : State) (part dev : Nat) : Option Nat :=
  (List.range 1024).find? fun r => rankDev s part r == some dev

/-! ### Types and classes (R342) -/

def tBDATA : Nat := 0
def tBEND : Nat := 1
def tMIGRATE : Nat := 2
def tACCEPT : Nat := 3
def tREFUSE : Nat := 4
def tRACC : Nat := 5
def tRREPLY : Nat := 6
def tACKS : Nat := 7
def tSPDM : Nat := 8

def cMIG : Nat := 0
def cBULK : Nat := 1
def cRESP : Nat := 2
def cCTL : Nat := 3

/-- The class of a type; none for the reserved types. -/
def classOf (t : Nat) : Option Nat :=
  if t = tBDATA then some cBULK
  else if t = tMIGRATE ∨ t = tRACC then some cMIG
  else if t = tBEND ∨ t = tACCEPT ∨ t = tREFUSE ∨ t = tRREPLY then some cRESP
  else if t = tACKS ∨ t = tSPDM then some cCTL
  else none

/-! ### Packets (R341, R356, R357) -/

/-- The session of R357 with a device under a partition key. -/
def sessionWith (s : State) (k : BitVec 16) (dev : Nat) : Option Session :=
  s.fabric.sessions.find? fun x => x.pkey == k && x.dev.toNat == dev

/-- The key phase in which this device sends to a device. -/
def phaseOf (s : State) (k : BitVec 16) (dst : Nat) : Bool := (sessionWith s k dst).any (·.phase)

/-- Header bytes 0 to 47 with HOP and CREDIT as 0: GCM's additional data. -/
def headerAad (p : Packet) : List Byte :=
  toBytes 8 (pack [(12, 0), (1, 0), (2, p.hlim.toNat), (1, bit1 p.gen), (2, p.cls.toNat), (10, p.via.toNat), (10, p.dst.toNat),
    (10, p.src.toNat), (16, p.pkey.toNat)])
  ++ toBytes 4 p.seq.toNat ++ toBytes 4 p.ack.toNat
  ++ toBytes 8 (pack [(13, p.payload.length), (3, 0), (4, p.typ.toNat), (1, bit1 p.kph)])
  ++ toBytes 12 p.nonce.toNat ++ toBytes 12 p.arg.toNat

/-- TAG of a packet that this device sends; SPDM's payload is not encrypted and its TAG is 0 (R356, log 110). -/
def sealTag (s : State) (p : Packet) : BitVec 128 :=
  if p.typ.toNat = tSPDM then 0
  else Config.gcmTag (((sessionWith s p.pkey p.dst.toNat).map (·.sendKey)).getD 0) (headerAad p) p.payload

/-- The nonce of R356: the class above the count of packets enqueued to the device on it. -/
def nonceOf (cls : Nat) (count : BitVec 64) : BitVec 96 := BitVec.ofNat 96 (pack [(64, count.toNat), (30, 0), (2, cls)])

/-- A packet as its source enqueues it: the next SEQ of its pair and class, NEXT as ACK, the active generation. -/
def mkPacket (s : State) (part dst typ : Nat) (arg : Nat) (payload : List Byte) : Packet :=
  let cls := (classOf typ).getD cCTL
  let c := pairCh s dst cls
  let key := (pkeyOf s part).getD 0
  let p : Packet :=
    { pkey := key, src := BitVec.ofNat 10 (myDev s), dst := BitVec.ofNat 10 dst, via := BitVec.ofNat 10 dst,
      cls := BitVec.ofNat 2 cls, gen := s.fabric.gensel, hlim := if cls = cCTL then 1 else 2, hop := false, credit := 0,
      seq := c.seq, ack := c.next, kph := phaseOf s key dst, typ := BitVec.ofNat 4 typ, nonce := nonceOf cls c.count,
      arg := BitVec.ofNat 96 arg, tag := 0, payload := payload }
  { p with tag := sealTag s p }

/-! ### Choose (R346, R347) -/

/-- The first slot from `u` on, within `fuel` slots, in which `test` holds. -/
def firstSlot (test : Nat → Bool) : Nat → Nat → Option Nat
  | 0, _ => none
  | fuel + 1, u => if test u then some u else firstSlot test fuel (u + 1)

def planes : List Nat := List.range 16

/-- Whether a plane of a mask carries key k in slot u. -/
def carries (s : State) (mask : Nat → Bool) (k u : Nat) : Bool := planes.any fun p => mask p && calKey s p u == k

/-- The slot, the next hop, of R346's Choose for a packet of this device's own. -/
def choose (s : State) (p : Packet) (u : Nat) : Option (Nat × Nat) :=
  let i := myDev s
  let d := p.dst.toNat
  let e := rtab s p.gen d
  let direct := firstSlot (carries s (pmask e) (i ^^^ d)) 64 u
  let relays := if p.hlim.toNat = 2 then
      (List.range 4).filterMap fun n => match relayChoice e n with
        | some (j, cr) =>
          if Sparse.get 0 s.fabric.heldAt j < cr then
            match firstSlot (carries s (pmask (rtab s p.gen j)) (i ^^^ j)) 64 u with
            | some a1 => (firstSlot (carries s (fun _ => true) (j ^^^ d)) 64 (a1 + 1)).map fun a2 => (a2, a1, j)
            | none => none
          else none
        | none => none
    else []
  let best := relays.foldl (fun (b : Option Nat × Option (Nat × Nat)) r =>
    match b.1 with
    | some x => if r.1 < x then (some r.1, some (r.2.1, r.2.2)) else b
    | none => (some r.1, some (r.2.1, r.2.2))) (direct, none)
  match best.2 with
  | some v => some v
  | none => direct.map fun x => (x, d)

/-- Beats of a packet (R341). -/
def beats (p : Packet) : Nat := (72 + p.payload.length + 63) / 64

/-- Whether one more packet fits a window that already carries these (R344). -/
def fits (l : List OutPkt) (p : Packet) : Bool :=
  l.length < 1024 && (l.map fun o => beats o.pkt).sum + beats p ≤ 9998

/-- Class order of R344: CTL, RESP, MIG, BULK. -/
def classRank (p : Packet) : Nat :=
  if p.cls.toNat = cCTL then 0 else if p.cls.toNat = cRESP then 1 else if p.cls.toNat = cMIG then 2 else 3

/-- R349: a source sends no packet whose SEQ is 512 or more beyond the last ACK. -/
def inSendWindow (s : State) (p : Packet) : Bool :=
  (p.seq - (pairCh s p.dst.toNat p.cls.toNat).ack).toNat < 512

/-- The planes on which a packet may go toward a device in slot u. -/
def planesTo (s : State) (o : OutPkt) (toward u : Nat) : List Nat :=
  let e := rtab s o.pkt.gen toward
  planes.filter fun p => pmask e p && calKey s p u == (myDev s ^^^ toward)

/-- The packets placed on a plane in the current window. -/
def onPlane (s : State) (p : Nat) : List OutPkt := s.fabric.out.filter fun o => match o.sentAs with
  | some (q, _) => q == p
  | none => false

/-- The slot from which a packet is chosen (R346); a relay sends only after the slot of arrival (R347). -/
def chooseFrom (s : State) (o : OutPkt) : Nat :=
  let u := if s.fabric.open_ then s.fabric.slot else s.fabric.slot + 1
  if o.relayed then max u (o.readySlot + 1) else u

/-- The slot and the next hop of a packet: Choose for this device's own, directly to the destination for a relayed one
(R346, R347). -/
def chosen (s : State) (o : OutPkt) : Option (Nat × Nat) :=
  let d := o.pkt.dst.toNat
  if o.relayed then (firstSlot (carries s (pmask (rtab s o.pkt.gen d)) (myDev s ^^^ d)) 64 (chooseFrom s o)).map fun x => (x, d)
  else choose s o.pkt (chooseFrom s o)

/-- Choose writes VIA into this device's own packet, whose TAG covers it (R346, R356). -/
def setVia (s : State) (o : OutPkt) (via : Nat) : OutPkt :=
  if o.relayed ∨ o.pkt.via.toNat = via then o
  else
    let p := { o.pkt with via := BitVec.ofNat 10 via }
    { o with pkt := { p with tag := sealTag s p } }

/-- A packet chosen a slot, and placed in the current window if that is the slot: on the lowest eligible plane with room
(R346). A transmitter that is blanked sends nothing (R376). -/
def placed (s : State) (o : OutPkt) : OutPkt :=
  match chosen s o with
  | none => o
  | some (x, via) =>
    let o1 := { setVia s o via with slot := x, toward := via }
    if s.fabric.open_ ∧ x = s.fabric.slot ∧ s.dev.trip = false ∧ (o.relayed ∨ inSendWindow s o.pkt) then
      match (planesTo s o via x).find? fun p => fits (onPlane s p) o.pkt with
      | some p => { o1 with plane := p, sentAs := some (p, (onPlane s p).length) }
      | none => o1
    else o1

/-- R370: a packet's bytes, 64 + LEN. -/
def packetBytes (p : Packet) : Nat := 64 + p.payload.length

def putOut (s : State) (o : OutPkt) : State :=
  s.setFabric { s.fabric with out := s.fabric.out.map fun x => if x.readyNo = o.readyNo then o else x }

/-- The ACK values that a packet carries become the last ones sent (R342, R350). -/
def noteTold (s : State) (p : Packet) : State :=
  let d := p.dst.toNat
  let put := fun (s : State) (c : Nat) (v : BitVec 32) => setPairCh s d c { pairCh s d c with told := v }
  if p.typ.toNat = tACKS then
    put (put (put (put s cMIG (p.arg.extractLsb' 0 32)) cBULK (p.arg.extractLsb' 32 32)) cRESP (p.arg.extractLsb' 64 32)) cCTL p.ack
  else put s p.cls.toNat p.ack

/-- A packet goes out: its bytes are counted; sent to a relay it holds a cell there; and the cells due to the next hop ride
in its CREDIT field, as many as that holds (R347, R350, R370). -/
def sendOut (s : State) (o : OutPkt) : State :=
  let part := partOfKey s o.pkt.pkey
  let s1 := s.tally part (if o.relayed then 26 else 18 + o.pkt.cls.toNat) (packetBytes o.pkt)
  let due := Sparse.get 0 s.fabric.due o.toward
  let now := min due 4095
  let f := { s1.fabric with
    heldAt := if o.toward ≠ o.pkt.dst.toNat then Sparse.modify 0 s1.fabric.heldAt o.toward (· + 1) else s1.fabric.heldAt
    due := Sparse.set 0 s1.fabric.due o.toward (due - now) }
  let s2 := putOut (s1.setFabric f) { o with pkt := { o.pkt with credit := BitVec.ofNat 12 now } }
  if o.relayed then s2 else noteTold s2 o.pkt

/-- A packet becomes ready, or is chosen afresh: this device's own goes out in the window it is placed in, and a relayed one
waits there for its RELAY_FORWARD. -/
def placeNow (s : State) (no : Nat) : State :=
  match s.fabric.out.find? fun o => o.readyNo == no && o.sentAs.isNone with
  | none => s
  | some o =>
    let o1 := placed s o
    let s1 := putOut s o1
    if o1.sentAs.isSome ∧ !o.relayed then sendOut s1 o1 else s1

/-! ### Enqueueing (R341, R346, R349 to R351) -/

/-- A packet joins those that the device holds, and is chosen a slot. -/
def addOut (s : State) (p : Packet) (relayed : Bool) (job : Option (Nat × Nat)) (pos : Option Nat) : State :=
  let no := s.fabric.made
  let o : OutPkt := { pkt := p, tries := 0, slot := 0, plane := 0, toward := p.dst.toNat, sentAs := none, relayed := relayed,
                      readyNo := no, readySlot := s.fabric.slot, job := job, pos := pos }
  placeNow (s.setFabric { s.fabric with out := s.fabric.out ++ [o], made := no + 1 }) no

/-- Enqueue a packet to another device. `job` names a COPYR send job, `pos` a waiting context. -/
def enqueue (s : State) (part dst typ arg : Nat) (payload : List Byte) (job : Option (Nat × Nat))
    (pos : Option Nat) : State :=
  let p := mkPacket s part dst typ arg payload
  let c := pairCh s dst p.cls.toNat
  addOut (setPairCh s dst p.cls.toNat { c with seq := c.seq + 1, count := c.count + 1 }) p false job pos

/-! ### The start of a slot (R344, R346, R348, R350) -/

/-- The cells that ride in a packet whose window has passed without a receipt are due again (log 57). -/
def takeBack (s : State) (o : OutPkt) : State :=
  s.setFabric { s.fabric with due := Sparse.modify 0 s.fabric.due o.toward (· + o.pkt.credit.toNat) }

/-- A packet whose window has passed without a receipt has gone one more time unreceipted (R348); a relayed one is to be
forwarded again. -/
def missed (o : OutPkt) : OutPkt :=
  if o.sentAs.isSome then
    { o with tries := o.tries + 1, sentAs := none, pkt := { o.pkt with credit := 0, hop := o.pkt.hop && !o.relayed } }
  else o

/-- The sent packets among these have met no receipt. -/
def missAll (s : State) (which : OutPkt → Bool) : State :=
  let lost := s.fabric.out.filter fun o => which o && o.sentAs.isSome
  lost.foldl takeBack (s.setFabric { s.fabric with out := s.fabric.out.map fun o => if which o then missed o else o })

/-- Insert by class, behind those of the same class. -/
def insertByClass (o : OutPkt) : List OutPkt → List OutPkt
  | [] => [o]
  | x :: r => if classRank x.pkt ≤ classRank o.pkt then x :: insertByClass o r else o :: x :: r

/-- The packets of a window are sent by class, within a class in the order in which they were placed; a bit of the receipt
reports each in that order (R344). -/
def sendOrder (s : State) : State :=
  planes.foldl (fun s p =>
    let l := (onPlane s p).foldl (fun l o => insertByClass o l) []
    (l.foldl (fun (r : State × Nat) o => (putOut r.1 { o with sentAs := some (p, r.2) }, r.2 + 1)) (s, 0)).1) s

/-- Whether this device's own packet of a class goes directly to a device in the current window. -/
def sendsNow (s : State) (d cls : Nat) : Bool :=
  s.fabric.out.any fun o => o.sentAs.isSome && o.pkt.dst.toNat == d && o.toward == d && !o.relayed && o.pkt.cls.toNat == cls

/-- The partition under whose key ACKS travel: the first that has one (log 10). -/
def acksPart (s : State) : Nat := ((List.range 128).find? fun p => (pkeyOf s p).isSome).getD 0

/-- Devices to which an ACKS packet goes: the slot joins them, and either some NEXT has changed since the last value sent
and no packet of its class goes to them in this window, or cells are still due to them (R350). -/
def ackTargets (s : State) : List Nat :=
  let known : List Nat := ((s.fabric.chans.map fun (e : Nat × PairCh) => e.1 / 4)
    ++ s.fabric.due.map fun (e : Nat × Nat) => e.1).eraseDups
  known.filter fun d =>
    !s.dev.trip && reachable s (some (acksPart s)) d && carries s (pmask (rtab s s.fabric.gensel d)) (myDev s ^^^ d) s.fabric.slot
    && (Sparse.get 0 s.fabric.due d != 0
      || (List.range 4).any fun c => (pairCh s d c).next != (pairCh s d c).told && !sendsNow s d c)

/-- An ACKS packet: NEXT of MIG, BULK and RESP in ARG, of CTL in ACK (R342). -/
def sendAcks (s : State) (d : Nat) : State :=
  let n := fun c => (pairCh s d c).next.toNat
  enqueue s (acksPart s) d tACKS (pack [(32, n cMIG), (32, n cBULK), (32, n cRESP)]) [] none none

/-- A slot begins: the receipts of the last window are no longer awaited; every unsent packet is chosen a slot afresh, in
the order in which they became ready; then the ACKS that R350 asks for. -/
def slotStart (s0 : State) : State :=
  let s1 := missAll s0 fun _ => true
  let s2 := s1.setFabric { s1.fabric with slot := s1.fabric.slot + 1, open_ := true, rcpt := [] }
  let s3 := (s2.fabric.out.map (·.readyNo)).foldl placeNow s2
  sendOrder ((ackTargets s3).foldl sendAcks s3)

/-- A relayed packet that has its place in the window and has not gone yet. -/
def toForward (o : OutPkt) : Bool := o.relayed && o.sentAs.isSome && !o.pkt.hop

/-- The window still owes a forward; a blanked transmitter owes none (R376). -/
def owesForward (s : State) : Bool := !s.dev.trip && s.fabric.out.any toForward

/-- A pair that has failed by 16 missed receipts and whose failure is still to be taken (R348). -/
def pairBroken (o : OutPkt) : Bool := 16 ≤ o.tries

/-- SLOT_START: an event of the optical core, while the fabric is in RUN (R336). What the ending window still owes comes
first: the relayed packets placed in it, and the failure of a pair. -/
def execSlotStart (s : State) : Out :=
  when (s.fabric.state == stRun && !owesForward s && !s.fabric.out.any pairBroken)
    "the fabric is not in RUN, or the last slot's moves are not over" (slotStart s)

/-! ### Receipts (R347, R348) -/

/-- A relay whose destination's receipt covers a packet frees its cell, due to the source (R347). -/
def freeCell (s : State) (o : OutPkt) : State :=
  if o.relayed then
    s.setFabric { s.fabric with due := Sparse.modify 0 s.fabric.due o.pkt.src.toNat (· + 1) }
  else s

def sentOn (port : Nat) (o : OutPkt) : Bool := match o.sentAs with
  | some (p, _) => p == port
  | none => false

def coveredBy (port : Nat) (bitmap : List Bool) (o : OutPkt) : Bool := match o.sentAs with
  | some (p, j) => p == port && bitmap.getD j false
  | none => false

/-- The receipt of a window on a port, at the window's end: the packets it covers are freed; the others have gone
unreceipted. -/
def receipt (s : State) (port : Nat) (bitmap : List Bool) : State :=
  let freed := s.fabric.out.filter (coveredBy port bitmap)
  let s1 := s.setFabric { s.fabric with out := s.fabric.out.filter fun o => !coveredBy port bitmap o, open_ := false }
  freed.foldl freeCell (missAll s1 (sentOn port))

def execReceipt (port : Nat) (bitmap : List Bool) (s : State) : Out :=
  when (s.fabric.state == stRun && !owesForward s) "the fabric is not in RUN, or the window is not over"
    (receipt s port bitmap)

/-! ### Relaying (R347) -/

/-- RELAY_FORWARD: the `i`-th held packet, placed in the current slot's window, goes directly to its destination with HOP 1;
a blanked transmitter sends nothing (R376). -/
def execRelayForward (i : Nat) (s : State) : Out :=
  match s.fabric.out[i]? with
  | none => .fault (.notEnabled "no such packet")
  | some o =>
    when (s.fabric.state == stRun && toForward o && s.fabric.open_ && !s.dev.trip) "no held packet can be forwarded"
      (sendOut s { o with pkt := { o.pkt with hop := true } })

/-- The share of relay cells that a partition has, and those it uses (R347). -/
def cellsFree (s : State) (part : Nat) (k : BitVec 16) : Bool :=
  (s.fabric.out.filter fun o => o.relayed && o.pkt.pkey == k).length
    < (Sparse.get 0 s.fabric.rcells part).toNat

/-- R347: whether a relay takes a packet. -/
def relayTakes (s : State) (p : Packet) : Bool :=
  let me := myDev s
  match partOfKey s p.pkey with
  | none => false
  | some n =>
    !p.hop && p.via.toNat == me && planes.any (pmask (rtab s p.gen p.dst.toNat))
      && inBlock s p.src.toNat && inBlock s p.dst.toNat && p.src.toNat != me && p.dst.toNat != me && cellsFree s n p.pkey

/-- R340: the source of an arrival on a plane, or the relay of a relayed packet, must be this slot's partner. -/
def pairingOk (s : State) (a : Arrival) : Bool :=
  a.plane < 16 && a.sender.toNat == (myDev s ^^^ calKey s a.plane s.fabric.slot)
  && (if a.pkt.hop then a.pkt.via == a.sender else a.pkt.src == a.sender)

/-- R341, R342: type, class, HLIM, reserved bits, and a LEN of 0 to 4,096. -/
def formOk (a : Arrival) : Bool :=
  a.rsvOk && a.pkt.payload.length ≤ 4096 && classOf a.pkt.typ.toNat == some a.pkt.cls.toNat && (a.pkt.hlim == 1 || a.pkt.hlim == 2)

/-- Note an acceptance or a refusal in the receipt being made for a plane. -/
def noteReceipt (s : State) (plane : Nat) (ok : Bool) : State :=
  s.setFabric { s.fabric with rcpt := Sparse.modify [] s.fabric.rcpt plane (· ++ [ok]) }

/-- CREDIT of a packet: the cells this device held at the sender fall (R347). -/
def takeCredit (s : State) (a : Arrival) : State :=
  s.setFabric { s.fabric with
    heldAt := Sparse.modify 0 s.fabric.heldAt a.sender.toNat (· - a.pkt.credit.toNat) }

/-- One more packet discarded: DISCNT, saturating, and no receipt. -/
def countDiscard (s : State) (plane : Nat) : State :=
  let n := s.fabric.discnt
  noteReceipt (s.setFabric { s.fabric with discnt := if n = 0xFFFFFFFF then n else n + 1 }) plane false

/-- RELAY_RECEIVE: taken into a cell, or discarded, counted and left without a receipt (R347). -/
def execRelayReceive (a : Arrival) (s : State) : Out :=
  let good := a.crcOk && pairingOk s a && formOk a && relayTakes s a.pkt
  when (s.fabric.state == stRun && !s.dev.trip && !a.own && !a.pkt.hop && a.pkt.via.toNat == myDev s
      && a.pkt.dst.toNat != myDev s) "the packet does not name this device as its relay"
    (if good then addOut (noteReceipt (takeCredit s a) a.plane true) { a.pkt with credit := 0 } true none none
     else countDiscard s a.plane)

end Sys2Proof.Machine
end

