-- ==== Sys2Proof/Machine/Access.lean ====
section
/-! DEFINITION. An access from its instruction to its completion: the steps of R176, the Issue Port, migration and
remote access, the completion of each kind of access, and the events that perform them (R148, R176 to R199, R274,
R353, R354). -/
namespace Sys2Proof.Machine

/-! ### Messages of a slot (R32, R302) -/

/-- The slot tag: the sending slot's device, position and SLOTGEN (R32, log 11). -/
def slotTag (s : State) (pos : Nat) : Nat :=
  pack [(32, (s.ctx pos).slotgen.toNat), (8, 0), (14, pos), (10, myDev s)]

def tagPos (tag : Nat) : Nat := bits tag 40 14
def tagGen (tag : Nat) : BitVec 32 := BitVec.ofNat 32 tag

/-- A message discarded without effect (R302). `status` names the device and the tag to which a DISCARDED status goes
back. -/
def discardStale (s : State) (q : Nat) (status : Option (Nat × Nat)) : State :=
  let x := s.quire q
  let s1 := s.setQuire q { x with stale := if x.stale = 0xFFFFFFFF then x.stale else x.stale + 1 }
  (s1.setFabric { s1.fabric with discarded := s1.fabric.discarded ++ status.toList }).tally (partOfQuire s q) 43 1

/-! ### Migration (R32, R33, R274, R275) -/

/-- The 192 bytes of the migrating context; after MIGR it goes on behind the instruction with g[RD] = 0 (R275). -/
def migPayload (s : State) (pos : Nat) (m : Migration) : List Byte :=
  let c := s.ctx pos
  let c' := match m.rd with
    | some rd => { c.setReg rd 0 with pc := c.pc + 8 }
    | none => c
  let key := ((partOf s pos).bind (pkeyOf s)).getD 0
  c'.g.toList.flatMap (fun w => toBytes 8 w.toNat)
  ++ toBytes 8 c'.pc.toNat ++ toBytes 8 (setLC c'.st 0).toNat ++ toBytes 8 (widRead c').toNat
  ++ toBytes 8 (slotTag s pos)
  ++ toBytes 2 key.toNat ++ toBytes 2 m.rank ++ toBytes 1 m.acc.code
  ++ toBytes 1 (match m.quire with
      | some q => q + 128
      | none => 0)
  ++ toBytes 1 m.tries ++ [0] ++ toBytes 8 m.addr.toNat ++ toBytes 8 c'.levels.toNat ++ toBytes 8 0

/-- After the fourth refusal: MIGR writes 1 and goes on; an access is issued again, as a remote access. -/
def giveUpMigration (s : State) (pos : Nat) (m : Migration) : State :=
  let c := s.ctx pos
  match m.rd with
  | some rd => retireAt (s.setCtx pos { c.setReg rd 1 with wait := .none }) pos 8
  | none => s.setCtx pos { c with wait := .none, refused := 4 }

/-- A context leaves the rotation to migrate: its leases break, and its message goes out, over the die links to
the own rank, else by the fabric; a destination that cannot be reached refuses at once (R33, R275, R348). -/
def startMigration (s0 : State) (pos : Nat) (m : Migration) : State :=
  let s := breakLeases s0 pos
  let w := s.setCtx pos { s.ctx pos with wait := .migrate m, port := none }
  if m.dst = myDev s then w
  else if reachable s (partOf s pos) m.dst then
    enqueue w ((partOf s pos).getD 0) m.dst tMIGRATE 0 (migPayload s pos m) none (some pos)
  else giveUpMigration s pos m

/-- One refusal met: the next try at once, up to the limit of 4 (R274, R353). -/
def refuseMigration (s : State) (pos : Nat) (m : Migration) : State :=
  if 4 ≤ m.tries + 1 then giveUpMigration s pos m else startMigration s pos { m with tries := m.tries + 1 }

/-! ### Remote access requests (R354) -/

/-- The data of a request: stored bytes, an operand, or the compare value before the new value. -/
def raccData (ev : GEv) : List Byte :=
  match ev.op with
  | .write d => d
  | .rmw _ sz v => toBytes (szBytes sz) v
  | .cas c n => toBytes ev.len c ++ toBytes ev.len n
  | _ => []

/-- The payload of RACC. Byte 12 tells the instruction's major, which the manual's layout leaves out (log 12). -/
def raccPayload (p : Port) (ev : GEv) : List Byte :=
  let d := raccData ev
  toBytes 8 ev.addr.toNat ++ toBytes 1 ev.acc.code ++ toBytes 1 ev.len ++ toBytes 1 p.minor ++ toBytes 1 ev.sc.code
  ++ toBytes 1 p.major ++ toBytes 3 0 ++ d ++ List.replicate (32 - d.length) 0

/-- Send the request for the port's next event; LINK at once when the home cannot be reached (R348). -/
def sendRacc (s : State) (pos : Nat) : State :=
  let c := s.ctx pos
  match c.port with
  | some p => match p.remote, p.evs with
    | some dev, ev :: _ =>
      let w := s.setCtx pos { c with port := some { p with sent := true }, wait := .port }
      if dev = myDev s then w
      else if reachable s (partOf s pos) dev then
        enqueue w ((partOf s pos).getD 0) dev tRACC (slotTag s pos) (raccPayload p ev) none (some pos)
      else takeTrap s pos (linkTrap ev)
    | _, _ => s
  | none => s

/-! ### Placing an access (R148, R176) -/

/-- What an instruction asks of the Issue Port. -/
structure Ask where
  ea : Word
  size : Nat
  align : Nat
  acc : Acc
  sc : Scope
  op : Nat → Nat → GOp
  fin : PortDone
  len : Nat
  major : Nat
  minor : Nat
  po : Pol

def mkPort (s : State) (a : Ask) (evs : List GEv) (remote : Option Nat) : Port :=
  { evs := evs, got := [], fin := a.fin, len := a.len, remote := remote, sent := false, minor := a.minor,
    major := a.major, since := s.cyc, po := a.po, work := none }

/-- The granule event at `off` of an access. A LEASE's event is its whole line (R193). -/
def mkEv (a : Ask) (e : Nat × Nat × Loc) : GEv :=
  match a.acc with
  | .lease => { pa := e.2.2.pa / 128 * 128, len := 128, coh := e.2.2.coh, addr := e.2.2.addr, acc := a.acc, sc := a.sc,
                op := a.op e.1 e.2.1 }
  | _ => { pa := e.2.2.pa, len := e.2.1, coh := e.2.2.coh, addr := e.2.2.addr, acc := a.acc, sc := a.sc,
           op := a.op e.1 e.2.1 }

/-! ### The home of a remote access (R274, R320, R354) -/

/-- A partition's lowest-numbered quire here. -/
def lowQuire (s : State) (n : Nat) : Option Nat := (quiresOf s n).head?

/-- Who accesses for a partition at its home: its lowest quire, under MIGASID (R320, R354). -/
def homeWho (s : State) (n q : Nat) : Who := ⟨q, none, some (s.part n).migasid, some n⟩

/-- The state as R274's choice reads it: permission to send (R366) plays no part in where a location lies. -/
def allMaySend (s : State) (q : Nat) : State :=
  s.setFront { s.front with perm := Sparse.set 0 s.front.perm q (BitVec.allOnes 128) }

/-- Where an address of a partition lies at its home, if it resolves there. -/
def homePa (s : State) (n low : Nat) (a : Word) (acc : Acc) : Option Nat :=
  match (resolve (allMaySend s low) (homeWho s n low) a acc).2 with
  | .ok (.locs (x :: _)) => some x.pa
  | _ => none

/-- R274: the quire that serves an access arriving for a partition. An address that does not resolve here goes to the
lowest quire, where the access meets its trap. -/
def accessQuire (s : State) (n : Nat) (a : Word) (acc : Acc) : State × Option Nat :=
  match lowQuire s n with
  | none => (s, none)
  | some low =>
    let w := homeWho s n low
    let byPos : Bool := match (translate s w a acc).2 with
      | .ok l => bits a.toNat 56 8 == 0 && (l.kind == .privq || l.kind == .privd || l.kind == .repl)
      | .error _ => true
    let s1 := (resolve s w a acc).1
    if byPos then (s1, some low)
    else match (homePa s n low a acc).map rangeOf, homePa s n low a acc with
      | some (.vat q), _ => (s1, some q)
      | some (.hbm _), some pa => (s1, some ((homeQuire s n pa).getD low))
      | _, _ => (s1, some low)

/-- The granule at which the requests of a remote access are cut: that of the memory at its home, where the home is this
device; another device's memory is not seen from here, and its granule is a free value (log 122). -/
def remoteGran (s : State) (n dev : Nat) (a : Word) : Nat :=
  if dev = myDev s then
    match (lowQuire s n).bind fun low => homePa s n low a .read with
    | some pa => granSize pa
    | none => 32
  else 8 * 2 ^ (Config.remoteGran (a.toNat / 32) % 3)

/-- The pieces of a remote access, cut at the granules of the memory at its home (R34, R354). -/
def cutRemote (s : State) (n dev : Nat) (ea : Word) (off : Nat) : Nat → Nat → List (Nat × Nat × Loc)
  | 0, _ => []
  | fuel + 1, len =>
    if len = 0 then []
    else
      let a := addrPlus ea off
      let g := remoteGran s n dev a
      let k := min len (g - a.toNat % g)
      (off, k, ⟨0, .coherent, a⟩) :: cutRemote s n dev ea (off + k) fuel (len - k)

/-- The requests of a remote access: an atomic or a reduction is one event (R192, R354). -/
def remotePieces (s : State) (n dev : Nat) (a : Ask) : List (Nat × Nat × Loc) :=
  match a.acc with
  | .atomic | .reduce => [(0, a.size, ⟨0, .coherent, a.ea⟩)]
  | _ => cutRemote s n dev a.ea 0 a.size a.size

/-- A REMOTE page: the head, and an access refused four times, make a remote access; a LEASE so made fails at
once; otherwise the context migrates (R29, R160, R274). -/
def goRemote (s : State) (c : Ctx) (a : Ask) (rank : Nat) : Eff :=
  match partOf s s.cur with
  | none => bad s (accTrap .translation a.ea a.acc 2)
  | some n => match rankDev s n rank with
    | none => bad s (accTrap .translation a.ea a.acc 2)
    | some dev =>
      if slotOf s.cur = 0 ∨ 4 ≤ c.refused then
        match a.fin with
        | .lease pd => ok (retire s (c.setPred pd false) a.len)
        | _ =>
          let evs := (remotePieces s n dev a).map (mkEv a)
          ok (sendRacc (s.setCtx s.cur { c with port := some (mkPort s a evs (some dev)), wait := .port }) s.cur)
      else
        ok (startMigration (s.setCtx s.cur c) s.cur
          { dst := dev, rank := rank, quire := none, rd := none, acc := a.acc, addr := a.ea, tries := 0 })

/-- Access of R176: alignment, Resolve for every page, then the granule events in the Issue Port. `extra` is a
test of the entry after Resolve. -/
def access (s : State) (c : Ctx) (a : Ask) (extra : List Loc → Option Trap) : Eff :=
  if bits a.ea.toNat 0 56 % a.align ≠ 0 then bad s (accTrap .align a.ea a.acc 0)
  else match resolveAccess s (whoIs s s.cur) a.ea a.size a.acc with
    | (s1, .error (some t)) => bad s1 t
    | (s1, .error none) => waitRetest s1 s1.cur
    | (s1, .ok (.remote rank)) => goRemote s1 c a rank
    | (s1, .ok (.pieces ps)) =>
      let cuts := cutAccess a.acc 0 ps
      match extra (cuts.map (·.2.2)) with
      | some t => bad s1 t
      | none => ok (s1.setCtx s1.cur { c with port := some (mkPort s1 a (cuts.map (mkEv a)) none), wait := .port })

def noTest (_ : List Loc) : Option Trap := none

/-! ### Completion (R180 to R199, R208, R227, R228) -/

/-- Whether the remote form of a wait is in use. -/
def isRemote (c : Ctx) : Bool :=
  match c.port with
  | some p => p.remote.isSome
  | none => false

/-- The context takes its access's results, leaves the port and goes on past the instruction. -/
def portRetire (s : State) (pos : Nat) (c : Ctx) (len : Nat) : State :=
  retireAt (s.setCtx pos { c with port := none, wait := .none }) pos len

/-- DKLD's record checked and put in place (R208). -/
def finishDkld (s : State) (pos : Nat) (p : Port) (dn : Nat) : State :=
  let r : DkRec := BitVec.ofNat 512 (ofBytes p.got)
  if dkOk r then
    let s1 := setDeckle s (quireOf pos) dn r
    portRetire s1 pos (s1.ctx pos) p.len
  else takeTrap s pos (operand (dkCode r))

/-- A state that has changed, for a move that could only wait. -/
def moved (s t : State) : Option State := if t = s then none else some t

/-- Vector element-operations are counted by their widest format (R369, R370). -/
def vecCounter (bitsWide : Nat) : Nat :=
  if bitsWide ≤ 8 then 12 else if bitsWide = 16 then 13 else if bitsWide = 32 then 14 else 15

/-- Cut a list into pieces of `n`. -/
def chunks {α : Type} (n : Nat) : Nat → List α → List (List α)
  | 0, _ => []
  | fuel + 1, l => if l.isEmpty then [] else l.take n :: chunks n fuel (l.drop n)

/-! ### The vector unit's operation of a context (R80, R215, R227, R228) -/

/-- The operations of a core's vector unit after its head has left at this cycle: each starts when the one before it
ends. -/
def restart (t : Nat) : List VecOp → List VecOp
  | [] => []
  | v :: r => let st := max v.start t; { v with start := st } :: restart (st + v.cycles) r

/-- The head operation of a core leaves the vector unit, which is free for the next one: after the cycles that R215 gives it,
or, for a gather or scatter, now. -/
def freeUnit (s : State) (core : Nat) : State :=
  let k := s.core core
  let t := match k.vec.head? with
    | some v => if v.cycles = 0 then s.cyc else v.start + v.cycles
    | none => s.cyc
  let l := restart t (k.vec.drop 1)
  let till := match l.getLast? with
    | some v => v.start + v.cycles
    | none => t
  (withdraw s (.vec core)).setCore core { (withdraw s (.vec core)).core core with vec := l, vecFree := till }

/-- A context's operation leaves the vector unit without completing, and gives its prefix back (R80). -/
def leaveVec (s : State) (pos : Nat) : State :=
  let core := coreOf pos
  let l := (s.core core).vec
  match l.find? (·.by_.pos == pos) with
  | none => s
  | some v =>
    let s1 := if (l.head?.map (·.id)) = some v.id then freeUnit s core
      else s.setCore core { s.core core with vec := l.filter (·.id != v.id) }
    match v.pfx with
    | some p => s1.setCtx pos { s1.ctx pos with st := putBits (putBits (s1.ctx pos).st 32 16 p.toNat) 49 1 1 }
    | none => s1

/-- A trap met in the Issue Port; a gather's or scatter's leaves the unit (R227, R228). -/
def portTrap (s : State) (pos : Nat) (t : Trap) : State := takeTrap (leaveVec s pos) pos t

/-- The next element of VGATH or VSCAT: one access of the Issue Port (R227, R228). -/
def nextElement (s : State) (pos : Nat) (p : Port) (a : Word) (n : Nat) (acc : Acc) (op : Nat → Nat → GOp)
    (fin : PortDone) : State :=
  match resolveAccess s (whoIs s pos) a n acc with
  | (s1, .error none) => s1
  | (s1, .error (some t)) => portTrap s1 pos t
  | (s1, .ok (.remote _)) => portTrap s1 pos (accTrap .address a acc 0)
  | (s1, .ok (.pieces ps)) =>
    let ask : Ask := ⟨a, n, 1, acc, .v, op, fin, p.len, p.major, p.minor, p.po⟩
    let c := s1.ctx pos
    s1.setCtx pos { c with
      port := some { mkPort s1 ask ((cutAccess acc 0 ps).map (mkEv ask)) none with got := p.got }, wait := .port }

/-- A gather whose reads have returned writes its tile, a scatter has nothing more to write (R216, R227, R228). -/
def elementsDone (s : State) (pos : Nat) (writes : List (Nat × Nat × Nat)) : State :=
  let k := s.core (coreOf pos)
  let c := s.ctx pos
  match k.vec with
  | v :: r =>
    (s.setCore (coreOf pos) { k with vec := { v with out := some ⟨writes, 0, none⟩ } :: r }).setCtx pos
      { c with port := none, wait := .vector v.id }
  | [] => s

/-- The last event of an access has been performed: its results, and what the context does next. -/
def finishPort (s : State) (pos : Nat) (p : Port) : State :=
  let c := s.ctx pos
  let x := ofBytes p.got
  match p.fin with
  | .load rd sx =>
    let n := 8 * p.got.length
    let v : Word := if sx ∧ 2 ^ (n - 1) ≤ x then BitVec.ofInt 64 ((x : Int) - 2 ^ n) else BitVec.ofNat 64 x
    portRetire s pos (c.setReg rd v) p.len
  | .loadPair rd =>
    portRetire s pos ((c.setReg rd (BitVec.ofNat 64 x)).setReg (regSucc rd) (BitVec.ofNat 64 (x / 2 ^ 64))) p.len
  | .store | .red | .fence => portRetire s pos c p.len
  | .atom rd | .barArrive rd => portRetire s pos (c.setReg rd (BitVec.ofNat 64 x)) p.len
  | .cas rd pd cmp => portRetire s pos ((c.setReg rd (BitVec.ofNat 64 x)).setPred pd (x == cmp)) p.len
  | .cas2 rd pd cmp =>
    portRetire s pos (((c.setReg rd (BitVec.ofNat 64 x)).setReg (regSucc rd) (BitVec.ofNat 64 (x / 2 ^ 64))).setPred pd
      (x == cmp)) p.len
  | .lease pd => portRetire s pos (c.setPred pd (x == 1)) p.len
  | .barWait ticket =>
    if bits x 32 32 ≠ ticket.toNat then portRetire s pos c p.len
    else s.setCtx pos { c with port := some { p with got := [], sent := false }, wait := .barWait s.cyc false }
  | .waitline rd pd cmp t0 =>
    if x ≠ cmp then portRetire s pos ((c.setReg rd (BitVec.ofNat 64 x)).setPred pd true) p.len
    else if 65536 ≤ s.cyc - t0 then portRetire s pos ((c.setReg rd (BitVec.ofNat 64 x)).setPred pd false) p.len
    else s.setCtx pos { c with port := some { p with got := [], sent := false }, wait := .waitline s.cyc false }
  | .dkld dn => finishDkld s pos p dn
  | .gather td rest size => match rest with
    | a :: r => nextElement s pos { p with evs := [] } a size .read (fun _ _ => .read) (.gather td r size)
    | [] => elementsDone s pos (sliceWrites td ((chunks size (p.got.length + 1) p.got).map ofBytes))
  | .scatter rest => match rest with
    | (a, d) :: r => nextElement s pos { p with evs := [] } a d.length .write (fun off n => .write ((d.drop off).take n)) (.scatter r)
    | [] => elementsDone s pos []

/-- A wait's single event stays in the port between its reads. -/
def keepsEvent : PortDone → Bool
  | .barWait _ | .waitline .. => true
  | _ => false

/-- An event of the port has been performed with these bytes read: the next event, or the completion (R148). -/
def advancePort (s : State) (pos : Nat) (old : List Byte) : State :=
  let c := s.ctx pos
  match c.port with
  | none => s
  | some p => match p.evs with
    | [] => finishPort s pos p
    | ev :: rest =>
      let got := if opReads ev.op then p.got ++ old else p.got
      let p' := { p with got := got, sent := false, evs := if keepsEvent p.fin then p.evs else rest }
      if rest.isEmpty then finishPort (s.setCtx pos { c with port := some p' }) pos p'
      else if p.remote.isSome then sendRacc (s.setCtx pos { c with port := some p' }) pos
      else s.setCtx pos { c with port := some p' }

/-! ### FENCE (R157) -/

/-- The copies that a FENCE of a context at a scope still needs gone. -/
def fenceCopies (s : State) (pos : Nat) (sc : Scope) : List Copy :=
  let mine := fun (l : List Copy) => l.filter (copyIsTasks (s.ctx pos).task (partOf s pos))
  match sc with
  | .q => []
  | .d => mine (s.quire (quireOf pos)).copies
  | .v | .s => mine (s.quire (quireOf pos)).copies ++ mine (s.die (dieOf pos)).copies

/-- A posted write of the context still stands in the Host Port (R172). -/
def postedLeft (s : State) (pos : Nat) : Bool :=
  s.dev.hostQ.any fun r => isStore r.op && r.gen == (s.ctx pos).slotgen && (r.by_ == .ctx pos || r.by_ == .ownRacc pos)

def fenceDone (s : State) (pos : Nat) (sc : Scope) : Bool :=
  (fenceCopies s pos sc).isEmpty && (sc != .s || !postedLeft s pos)

/-! ### Events of the port -/

/-- A word on which BAR.ARRIVE or BAR.WAIT has been performed is known as a barrier word (R300, log 34). -/
def noteBar (s : State) (pa : Nat) : State :=
  s.setFront { s.front with barriers := Sparse.set false s.front.barriers (pa / 8) true }

def isBar : PortDone → Bool
  | .barArrive _ | .barWait _ => true
  | _ => false

/-- A context's port with an event to perform here. -/
def portReady (c : Ctx) : Option Port :=
  if c.run = .running ∧ c.wait = .port then
    match c.port with
    | some p => if p.sent ∨ p.remote.isSome then none else some p
    | none => none
  else none

/-- GRANULE_EVENT_PERFORM (R147): one event at its place of performance. -/
def execGranuleEventPerform (pos : Nat) (s : State) : Out :=
  match portReady (s.ctx pos) with
  | none => .fault (.notEnabled "no event in the Issue Port")
  | some p => match p.evs with
    | [] =>
      let t := finishPort s pos p
      when (t != s) "the elements still wait" t
    | ev :: _ => match ev.op with
      | .fence sc => when (fenceDone s pos sc) "the FENCE still waits" (finishPort s pos p)
      | _ => match tryEvent s (doerOf s pos) ev with
        | .did s1 old => .next (advancePort (if isBar p.fin then noteBar s1 ev.pa else s1) pos old)
        | .trap s1 t => .next (portTrap s1 pos t)
        | .gone s1 =>
          .next (s1.setCtx pos { s1.ctx pos with port := some { p with sent := true } })
        | .waits s1 => if s1 = s then .fault (.notEnabled "the event waits") else .next s1

/-- The waiting read is made again: in the port here, or as one more remote access. -/
def reread (s : State) (pos : Nat) : State :=
  let c := s.ctx pos
  if isRemote c then sendRacc s pos
  else s.setCtx pos { c with wait := .port, wakeBy := none, port := c.port.map fun p => { p with since := s.cyc } }

/-- WAITLINE_REREAD (R185): on a write at the place of the read, or 1,024 cycles after the last read. -/
def execWaitlineReread (pos : Nat) (s : State) : Out :=
  let c := s.ctx pos
  match c.wait with
  | .waitline since woken =>
    when (c.run == .running && ((woken && !isRemote c) || since + 1024 ≤ s.cyc)) "WAITLINE still waits" (reread s pos)
  | _ => .fault (.notEnabled "no WAITLINE waits")

/-- BAR_WAIT_WAKE (R199): on a write to the word. -/
def execBarWaitWake (pos : Nat) (s : State) : Out :=
  let c := s.ctx pos
  match c.wait with
  | .barWait _ woken => when (c.run == .running && woken && !isRemote c) "BAR.WAIT is not woken" (reread s pos)
  | _ => .fault (.notEnabled "no BAR.WAIT waits")

/-- BAR_WAIT_REMOTE_REREAD (R199): 1,024 cycles after the previous reply. -/
def execBarWaitRemoteReread (pos : Nat) (s : State) : Out :=
  let c := s.ctx pos
  match c.wait with
  | .barWait since _ =>
    when (c.run == .running && isRemote c && decide (since + 1024 ≤ s.cyc)) "BAR.WAIT still waits" (reread s pos)
  | _ => .fault (.notEnabled "no BAR.WAIT waits")

/-- LEASE_EXPIRY (R163): a lease of the context has come to its end; all of its leases break. -/
def execLeaseExpiry (pos : Nat) (s : State) : Out :=
  when ((leasesOf s pos).any fun l => l.grant + 64 * l.n ≤ s.cyc) "no lease has expired" (breakLeases s pos)

end Sys2Proof.Machine
end

