-- ==== Sys2Proof/Machine/Coherence.lean ====
section
/-! DEFINITION. The caches behind the ordering machine: the Order Point's sequence with the requests that cross a die link,
the notification network, recalls and write-backs, host accesses and snoops, and the errors that the memories meet (R307,
R310, R312, R313, R315, R316, R318, R359, R362). Memory holds every line's Home value: what these events change is who
holds a line, and what a write-back, a host or an error puts there. -/
namespace Sys2Proof.Machine

/-! ### ORDER_POINT_TAKE (R307, R310, R312, R313, R315, R316) -/

/-- The first request that a die has sent to another and that has not been taken there. -/
def firstReq (s : State) (src dst : Nat) : Option CohReq := (s.die src).reqs.find? fun r => homeDie r.line == some dst

/-- A queued request waits no longer. -/
def reqDoer (r : CohReq) : Doer := ⟨some (.req r), quireOfCore r.core, none, r.part, false⟩

/-- A request at the Order Point of its line's die: held behind a lease; sent on to the owner as a recall; or applied and
sequenced. -/
def takeAtHome (s : State) (die : Nat) (r : CohReq) : Option State :=
  let d := s.die die
  if heldBack s (reqDoer r) r.line then
    (if inQueue s (.req r) r.line then none else some (joinQueue s (.req r) r.line))
  else if d.recalls.any (·.line == r.line) then none
  else
    let s1 := leaveQueue s (reqDoer r) r.line
    if !cacheable r.line then some (sequence s1 die r)
    else match otherOwner s1 r.die r.line with
      | some o => some (s1.setDie die { s1.die die with recalls := (s1.die die).recalls ++ [⟨r.line, o, r⟩] })
      | none => some (takeHome s1 die r)

/-- An eviction: an L1D's line of the home die goes back to its slice; a line of a remote-data cache leaves it, through the
leaving buffer where it is modified (R313). -/
def evictLine (s : State) (die : Nat) (r : CohReq) : Option State :=
  if homeDie r.line = some die then
    if l1dAt s r.core r.line = .modified ∧ r.core / 256 = die then some (sequence (setL1d s r.core r.line .none) die r) else none
  else if (rdcAt s die r.line).1 = .none then none
  else some (evictRdc s die r.line)

/-- A read or ownership request: one of the die's own for a line homed elsewhere enters the die link's queue; one that has
crossed a die link is the first of that queue; a host line is taken where it is asked for. A die asks for no line whose
write-back it has not had answered (R313). -/
def takeRequest (s : State) (die : Nat) (r : CohReq) : Option State :=
  if rangeOf (128 * r.line) = .cxl then (if r.die = die then some (takeHost s r) else none)
  else match homeDie r.line with
    | none => none
    | some home =>
      if die ≠ home then
        if r.die ≠ die ∨ linkDown s die home ∨ (s.die die).leaving.any (·.line == r.line) then none
        else some (s.setDie die { s.die die with reqs := (s.die die).reqs ++ [r] })
      else if r.die = home ∨ inQueue s (.req r) r.line then takeAtHome s home r
      else if firstReq s r.die home = some r then
        takeAtHome (s.setDie r.die { s.die r.die with reqs := (s.die r.die).reqs.erase r }) home r
      else none

def execOrderPointTake (die : Nat) (r : CohReq) (s : State) : Out :=
  let t := match r.kind with
    | .writeBack => if r.die = die then evictLine s die r else none
    | .read | .own => takeRequest s die r
    | .release | .hostSnoop => none
  match t with
  | some x => when (die < 4 && r.die < 4 && r.core / 256 == r.die) "the request cannot be made" x
  | none => .fault (.notEnabled "the Order Point cannot take this request now")

/-! ### The notification network (R310) -/

/-- Whether a quire's cores act on a request: those of the requester's partition. A host's snoop has none. -/
def inKey (s : State) (core : Nat) (r : CohReq) : Bool :=
  r.kind == .hostSnoop || r.part.isNone || partOfQuire s (quireOfCore core) == r.part

/-- What an L1D other than the requester's does at a request. -/
def snooped (h : Hold) (k : CohKind) : Hold :=
  match h, k with
  | .none, _ => .none
  | _, .own | _, .hostSnoop => .none
  | .modified, .read => .shared
  | h, _ => h

/-- What the L1Ds of a die do at a request of another core. -/
def snoopL1ds (s : State) (die : Nat) (r : CohReq) : State :=
  { s with cores := s.cores.map fun e =>
      if e.1 / 256 = die ∧ e.1 ≠ r.core ∧ inKey s e.1 r then
        (e.1, { e.2 with l1d := (e.2.l1d.map fun x =>
          if x.line = r.line ∧ x.coh = .coherent then { x with hold := snooped x.hold r.kind } else x).filter (·.hold != .none) })
      else e }

/-- The requester's own L1D after its request, on the requester's die. -/
def fillL1d (s : State) (die : Nat) (r : CohReq) : State :=
  if !cacheable r.line ∨ !r.fill ∨ r.core / 256 ≠ die then s
  else match r.kind with
    | .read => setL1d s r.core r.line (if l1dAt s r.core r.line = .modified then .modified else .shared)
    | .own => setL1d s r.core r.line .modified
    | .writeBack | .release | .hostSnoop => s

/-- NOTIFICATION_DELIVERY: the oldest request of the sequence is acted on; pending reductions on its line go to the
Home first. -/
def execNotificationDelivery (die : Nat) (s : State) : Out :=
  let d := s.die die
  match d.seq with
  | [] => .fault (.notEnabled "the sequence is empty")
  | r :: rest => .next (fillL1d (snoopL1ds (drainLine (s.setDie die { d with seq := rest }) r.line) die r) die r)

/-! ### Recalls and write-backs (R312, R313, R316) -/

/-- RECALL_RESPONSE: the answers of one owner come in the order of its recalls. -/
def execRecallResponse (die line : Nat) (s : State) : Out :=
  match (s.die die).recalls.find? (·.line == line) with
  | none => .fault (.notEnabled "no recall of this line is under way")
  | some c =>
    let d := s.die die
    let s1 := s.setDie die { d with recalls := d.recalls.erase c }
    when ((d.recalls.find? fun x => x.owner == c.owner) == some c) "an earlier recall of this owner is unanswered"
      (takeHome (afterRecall s1 c.owner c.line c.req.kind) die c.req)

/-- The line, byte mask and poison of a write-back as a masked line. -/
def leavingLine (w : Leaving) : Copy :=
  { line := w.line, data := w.data, mask := w.mask, poison := w.poison, task := none, part := none, mixed := false, users := [] }

/-- REMOTE_WRITE_BACK: accepted while the directory names this owner and version, else cancelled; the leaving buffer
frees on either reply. The write-backs between two dies arrive in their order. -/
def execRemoteWriteBack (die line : Nat) (s : State) : Out :=
  match (s.die die).leaving.find? (·.line == line), homeDie line with
  | some w, some home =>
    let d := s.die die
    let s1 := s.setDie die { d with leaving := d.leaving.erase w }
    let x := dirAt s1 line
    let accepted := x.owned && x.owner.toNat == die && x.ver == w.ver
    when ((d.leaving.find? fun y => homeDie y.line == some home) == some w) "an earlier write-back to this die is unanswered"
      (if accepted then
        (List.range 4).foldl (writeGranule (leavingLine w)) (setDir s1 line { x with owned := false, owner := 0 })
      else s1)
  | _, _ => .fault (.notEnabled "no write-back of this line is under way")

/-! ### The host (R359, R362, R363, R376) -/

/-- An HBM byte range in one granule that the HDM decoder covers: its GRAN entry has H set (R359, R368). -/
def hostReach (s : State) (pa len : Nat) : Bool :=
  match granuleOf pa with
  | some k => (Sparse.get 0 s.front.gran k).getLsbD 14 && len != 0 && pa / 32 == (pa + len - 1) / 32 && !granuleBusy s pa
  | none => false

/-- The host performs at the Home and holds no copy; it waits behind leases as any other party (R161, R359). -/
def hostDoer (pa : Nat) : Doer := ⟨some .host, 32 * (pa / 0x4000000000), none, none, true⟩

def hostEv : HostAcc → GEv
  | .read pa len => ⟨pa, len, .coherent, 0, .read, .v, .read⟩
  | .write pa data => ⟨pa, data.length, .coherent, 0, .write, .v, .write data⟩

/-- The host's access performed, in the line's die's order. A read of a poisoned granule delivers nothing. -/
def hostPerform (s : State) (a : HostAcc) : State :=
  let ev := hostEv a
  let line := lineOf a.pa
  let s1 := (leaveQueue s (hostDoer a.pa) line).setDev { s.dev with hostHeld := s.dev.hostHeld.erase a }
  (performHome (claimLine s1 (kindOf ev.op) line) (hostDoer a.pa) ev).1

/-- HOST_CXL_MEM_ACCESS: it joins the queue behind a lease on its line, or is performed. The link carries no memory traffic
while IDE is required and the physical function's streams are not secure (R363). -/
def execHostCxlMemAccess (a : HostAcc) (s : State) : Out :=
  let line := lineOf a.pa
  if s.dev.trip ∨ ideHolds s 0 ∨ !hostReach s a.pa (hostEv a).len then .fault (.notEnabled "the host cannot reach these bytes now")
  else if heldBack s (hostDoer a.pa) line then
    if s.dev.hostHeld.contains a then .fault (.notEnabled "the host's access waits behind a lease")
    else .next (joinQueue (s.setDev { s.dev with hostHeld := s.dev.hostHeld ++ [a] }) .host line)
  else .next (hostPerform s a)

/-- The snoop takes its place in every die's sequence; no remote-data cache holds the line any more (R310, R362). -/
def snoopDies (s : State) (line : Nat) : State :=
  (List.range 4).foldl (fun s e => sequence (dropRdcLine s e line) e ⟨line, e, 256 * e, none, .hostSnoop, false⟩) s

/-- HOST_SNOOP: the device gives up its copies of a host line, and the host's new bytes, if any, stand there. Bytes that the
host writes in its memory behind a PCIe mapping meet no snoop, since nothing there is cached. -/
def execHostSnoop (pa : Nat) (data : List Byte) (s : State) : Out :=
  let line := lineOf pa
  let fits := pa % 128 + data.length ≤ 128 && !s.dev.trip && !ideHolds s 0
  match rangeOf pa with
  | .cxl => when fits "the host cannot snoop now" (if data.isEmpty then snoopDies s line else putHome (snoopDies s line) pa data none)
  | .pcie => when fits "the host cannot snoop now" (s.setMem (Memory.writeBytes s.mem pa data))
  | _ => .fault (.notEnabled "no host memory there")

/-! ### Errors of the memories (R318, R319, R376) -/

/-- A corrected error is counted, saturating, in its row's counter. -/
def countError (s : State) (row : Nat) : State :=
  let c := Sparse.get 0 s.dev.cecnt row
  if c = 0xFFFFFFFF then s else s.setDev { s.dev with cecnt := Sparse.set 0 s.dev.cecnt row (c + 1) }

def deviceByte (pa : Nat) : Bool :=
  match rangeOf pa with
  | .hbm _ | .vat _ => true
  | _ => false

/-- A granule of a scoped copy is poisoned. -/
def poisonCopy (s : State) (c : CopyRef) (i : Nat) : State :=
  let hit := fun (l : List Copy) => l.map fun x =>
    if x.line = c.line ∧ bits x.poison i 1 = 0 then { x with poison := x.poison + 2 ^ i } else x
  if c.ofDie then s.setDie c.unit { s.die c.unit with copies := hit (s.die c.unit).copies }
  else s.setQuire c.unit { s.quire c.unit with copies := hit (s.quire c.unit).copies }

/-- What an error does: poison of a granule, of a copy's granule, or of every granule of a line at its Home; a POISON trap
of the context whose registers fail; an instruction line discarded (R318). -/
def memError (s : State) (pa row : Nat) : MemErr → Option State
  | .none => some s
  | .corrected => some (countError s row)
  | .granule => if deviceByte pa then some { s with poison := Sparse.set false s.poison (pa / 32) true } else none
  | .copy c i => if i < 4 then some (poisonCopy s c i) else none
  | .line =>
    if deviceByte pa then
      some { s with poison := (List.range 4).foldl (fun p i => Sparse.set false p (4 * lineOf pa + i) true) s.poison }
    else none
  | .registers pos =>
    if posOk pos && (s.ctx pos).run == .running then some (portTrap s pos (trapOf .poison (freeInfo .poison pos))) else none
  | .fetch q =>
    some (countError (s.setQuire q { s.quire q with l1i := Sparse.set [] (s.quire q).l1i (pa / 32) [] }) row)

/-- PATROL_SCRUB: a word read, corrected and rewritten changes no value; what is wrong with a word, found so or by an
access, has its effect here. -/
def execPatrolScrub (pa row : Nat) (err : MemErr) (s : State) : Out :=
  match memError s pa row err with
  | some t => when (row < 6) "no such row of memories" t
  | none => .fault (.notEnabled "no such word")

end Sys2Proof.Machine
end

