-- ==== Sys2Proof/Machine/Tile.lean ====
section
/-! DEFINITION. Tile and deckle instructions: TALLOC, TFREE, TSTATE, TWAIT, DKLD and DKSET (R202 to R209). -/
namespace Sys2Proof.Machine

/-- A tile's length in 128-byte units; the field 0 means 65,536 (R16). -/
def tileUnits (len : Nat) : Nat := if len = 0 then 65536 else len

/-- R204: the range lies in the part of the task's vat region that TALLOC may use. -/
def inRegion (t : Task) (voff len : Nat) : Bool :=
  t.region ≤ voff && voff + tileUnits len ≤ t.region + t.vatlen

/-- TALLOC and TALLOC.READY (R204). -/
def execTalloc (g : Guard) (ready : Bool) (td dk : Handle) (voff len : BitVec 16) (s : State) : Out :=
  guarded g false 12 s fun c =>
    let q := quireOf s.cur
    match c.task.bind (taskOf s) with
    | none => bad s (operand td.toNat)
    | some t =>
      if (tileAt s q td).owner.isSome ∨ 64 ≤ dk.toNat ∨ !inRegion t voff.toNat len.toNat then bad s (operand td.toNat)
      else
        let st : TState := if ready then .ready else .empty
        let e : Tile := { Tile.reset with owner := some t.tag, dk := dk.toNat, voff := voff.toNat, len := len.toNat,
                                          st := st }
        ok (retire (setTile s q td.toNat e) c 12)

def slotAt (t : Tile) (n : Nat) : PSlot := t.slots.getD n PSlot.reset

def setSlot (t : Tile) (n : Nat) (p : PSlot) : Tile :=
  { t with slots := (List.range 4).map fun i => if i = n then p else slotAt t i }

/-- TALLOC.PROD (R205). -/
def execTallocProd (g : Guard) (td : Handle) (slot : BitVec 2) (rx : Reg) (s : State) : Out :=
  guarded g false 8 s fun c =>
    let q := quireOf s.cur
    let t := tileAt s q td
    let w := (c.reg rx).toNat
    if !owns c t ∨ t.st ≠ .empty ∨ (slotAt t slot.toNat).used ∨ bits w 48 16 ≠ 0 then bad s (operand td.toNat)
    else
      let p : PSlot := ⟨true, BitVec.ofNat 16 w, BitVec.ofNat 32 (bits w 16 32), 0⟩
      ok (retire (setTile s q td.toNat (setSlot t slot.toNat p)) c 8)

/-- TFREE (R206): a FILLING or DRAINING tile is waited for. -/
def execTfree (g : Guard) (t : Handle) (s : State) : Out :=
  guarded g false 8 s fun c =>
    let q := quireOf s.cur
    let e := tileAt s q t
    if !owns c e then bad s (operand t.toNat)
    else match e.st with
      | .filling | .draining => waitRetest s s.cur
      | .empty | .ready | .faulted => ok (retire (setTile s q t.toNat Tile.reset) c 8)

/-- TSTATE (R207): it never traps. -/
def execTstate (g : Guard) (rx : Reg) (pd : Pred) (t : Handle) (s : State) : Out :=
  guarded g false 8 s fun c =>
    let e := tileAt s (quireOf s.cur) t
    ok (retire s ((c.setReg rx (tileWord e)).setPred pd (owns c e)) 8)

/-- TWAIT (R207). -/
def execTwait (g : Guard) (t : Handle) (st : BitVec 3) (s : State) : Out :=
  guarded g false 8 s fun c =>
    let e := tileAt s (quireOf s.cur) t
    if !owns c e then bad s (operand t.toNat)
    else if e.st.code = st.toNat then ok (retire s c 8)
    else if e.st = .faulted then bad s (trapOf .tile (freeInfo .tile t.toNat))
    else waitRetest s s.cur

/-- DKLD (R208): a 64-byte aligned read; the record is checked when both its granules have come. A handle of 64 or
above raises OPERAND (R75). -/
def execDkld (g : Guard) (dn : Handle) (ra : Reg) (disp : BitVec 32) (s : State) : Out :=
  guarded g false 12 s fun c =>
    if 64 ≤ dn.toNat then bad s (operand dn.toNat)
    else
      access s c ⟨c.reg ra + disp.signExtend 64, 64, 64, .read, .v, fun _ _ => .read, .dkld dn.toNat, 12, 0x59, 0, .dflt⟩ noTest

/-- First bit and width of the field that DKSET writes (R20, R209). -/
def dkFieldAt : DkField → Nat × Nat
  | .base => (0, 64)
  | .ext0 => (64, 32) | .ext1 => (96, 32) | .ext2 => (128, 32) | .ext3 => (160, 32) | .ext4 => (192, 32)
  | .str0 => (224, 32) | .str1 => (256, 32) | .str2 => (288, 32) | .str3 => (320, 32) | .str4 => (352, 32)
  | .ctl => (384, 64)
  | .part => (448, 64)

/-- A record with one field replaced by the low bits of a word. -/
def dkPut (r : DkRec) (f : DkField) (v : Word) : DkRec :=
  let a := dkFieldAt f
  BitVec.ofNat 512 (r.toNat - bits r.toNat a.1 a.2 * 2 ^ a.1 + v.toNat % 2 ^ a.2 * 2 ^ a.1)

def dkSrcWord (c : Ctx) : DkSrc → Word
  | .reg r => c.reg r
  | .imm i => i.signExtend 64

def dkSrcBytes : DkSrc → Nat
  | .reg _ => 8
  | .imm _ => 12

/-- DKSET (R209): the entry changes only if the whole of it passes R21. -/
def execDkset (g : Guard) (dn : Handle) (f : DkField) (src : DkSrc) (s : State) : Out :=
  guarded g false (dkSrcBytes src) s fun c =>
    let q := quireOf s.cur
    if 64 ≤ dn.toNat then bad s (operand dn.toNat)
    else
      let r := dkPut (deckleAt s q dn.toNat) f (dkSrcWord c src)
      if dkOk r then ok (retire (setDeckle s q dn.toNat r) c (dkSrcBytes src)) else bad s (operand dn.toNat)

end Sys2Proof.Machine
end

