-- ==== Sys2Proof/Machine/Save.lean ====
section
/-! DEFINITION. The save area of a time-sliced task: where it lies, its context and tile records, and the tile entries
of a parked task (R300, R333, R334). -/
namespace Sys2Proof.Machine

/-! ### Addresses (R333) -/

/-- The first byte of a task's save area: the first of the top SAVELEN units of its region. -/
def saveBase (t : Task) : Nat := vatBase t.quire + (t.region + t.vatlen) * 128

/-- The bytes of the save area. -/
def saveSize (t : Task) : Nat := t.savelen * 128

def hasCore (mask core : Nat) : Bool := bits mask core 1 == 1

/-- The place of a core among the cores of a mask, ascending. -/
def coreRank (mask core : Nat) : Nat := ((List.range core).filter (hasCore mask)).length

/-- The block of a core (R333). -/
def blockBase (t : Task) (core : Nat) : Nat := saveBase t + 0x6400 + coreRank t.cores (core % 8) * 0x81800

/-- The record of a position's context (R334). -/
def ctxRecAddr (t : Task) (pos : Nat) : Nat := blockBase t (coreOf pos) + 256 * slotOf pos

def queueRecAddr (t : Task) (core i : Nat) : Nat := blockBase t core + 0x1000 + 512 * i
def accAddr (t : Task) (core : Nat) (acc promo : Bool) (i : Nat) : Nat :=
  blockBase t core + 0x1800 + (if acc then 0x20000 else 0) + (if promo then 0x40000 else 0) + 4 * i
def tileRecAddr (t : Task) (n : Nat) : Nat := saveBase t + 0x1400 + 64 * n
def deckleRecAddr (t : Task) (n : Nat) : Nat := saveBase t + 0x400 + 64 * n

/-! ### Context records (R334) -/

def Run.code : Run → Nat
  | .free => 0 | .running => 1 | .faulted => 2 | .halted => 3

/-- The defined bytes of a context record; LC is 0. -/
def ctxBytes (c : Ctx) : List Byte :=
  c.g.toList.flatMap (fun w => toBytes 8 w.toNat)
  ++ toBytes 8 c.pc.toNat ++ toBytes 8 (stSaved c.st).toNat ++ toBytes 8 (widRead c).toNat ++ toBytes 8 c.slotgen.toNat
  ++ toBytes 8 c.seed.toNat ++ toBytes 8 (c.run.code + (if c.aborted then 4 else 0))
  ++ toBytes 8 ((c.handle.getD 0).toNat) ++ toBytes 8 c.levels.toNat

def memWord (s : State) (a : Nat) : Nat := ofBytes (Memory.readBytes s.mem a 8)

/-- A word of a save area as a restore loads it. A poisoned one is not delivered: what stands in its place is a free value
(R319, log 134). -/
def saveWord (s : State) (a : Nat) : Nat := if poisoned s a 8 then (Config.lost s.cyc a).toNat else memWord s a

/-- A context as its record loads it; a recorded answer takes effect, LC stays 0, reserved bits of ST read 0, and the slot's
SLOTGEN rises by 1 (R5, R14, R331, R335). The handle of a FAULTED one is kept though no record may bear it. -/
def ctxOfRec (s : State) (a : Nat) (old : Ctx) (task : BitVec 16) : Ctx :=
  let w := fun i => BitVec.ofNat 64 (saveWord s (a + 8 * i))
  let state := saveWord s (a + 168)
  let answered := bits state 3 1 == 1
  let abort := bits state 4 1 == 1
  let run : Run := match bits state 0 2 with
    | 0 => .free
    | 1 => .running
    | 2 => if answered then (if abort then .halted else .running) else .faulted
    | _ => .halted
  { Ctx.reset with
    g := Vector.ofFn fun i => w i.val
    pc := BitVec.ofNat 56 (saveWord s (a + 128))
    st := stSaved (w 17)
    wid := w 18
    levels := w 23
    slotgen := old.slotgen + 1
    seed := w 20
    run := run
    aborted := bits state 2 1 == 1 || (answered && abort)
    task := if run = .free then none else some task
    handle := if run = .faulted then some (w 22) else none }

/-! ### Tile records (R333) -/

def slotBytes (p : PSlot) : List Byte :=
  toBytes 2 p.src.toNat ++ toBytes 2 0 ++ toBytes 4 p.expect.toNat ++ toBytes 4 p.arrived.toNat

/-- The defined bytes of a tile record of the owning task. -/
def tileBytes (t : Tile) : List Byte :=
  toBytes 8 (tileWord t).toNat ++ t.slots.flatMap slotBytes ++ [1]

def tstateOf : Nat → TState
  | 0 => .empty | 1 => .filling | 2 => .ready | 3 => .draining | _ => .faulted

/-- A tile entry as its record loads it. `before` is the state held before a fault, and `voff` moves the tile. -/
def tileOfRec (s : State) (a : Nat) (tag : BitVec 16) (before : TState) (shift : Int) : Tile :=
  let w := saveWord s a
  { owner := some tag, dk := bits w 52 6, voff := ((bits w 24 16 : Int) + shift).toNat, len := bits w 8 16,
    st := tstateOf (bits w 0 3), before := before,
    slots := (List.range 4).map fun i =>
      let b := a + 8 + 12 * i
      { used := bits w (48 + i) 1 == 1, src := BitVec.ofNat 16 (saveWord s b),
        expect := BitVec.ofNat 32 (bits (saveWord s b) 32 32), arrived := BitVec.ofNat 32 (saveWord s (b + 8)) } }

/-! ### Tiles of a job's task, parked or not (R300) -/

def parkedOf (s : State) (task : Option (BitVec 16)) : Option Task :=
  match task.bind (taskOf s) with
  | some t => if t.parked then some t else none
  | none => none

/-- A tile entry as a job of a task sees it: the quire's, or the saved one while the task is parked. -/
def tileFor (s : State) (q : Nat) (task : Option (BitVec 16)) (t : Nat) : Tile :=
  match parkedOf s task with
  | some p => match p.savedTiles.find? (·.1 == t) with
    | some e => e.2
    | none => Tile.reset
  | none => Sparse.get Tile.reset (s.quire q).tiles t

/-- Change it: the saved entry changes with its record in the save area. -/
def setTileFor (s : State) (q : Nat) (task : Option (BitVec 16)) (t : Nat) (x : Tile) : State :=
  match parkedOf s task with
  | some p =>
    let s1 := s.setTask { p with savedTiles := p.savedTiles.map fun e => if e.1 = t then (t, x) else e }
    homeWrite s1 (tileRecAddr p t) (tileBytes x)
  | none => setTile s q t x

end Sys2Proof.Machine
end

