-- ==== Sys2Proof/Machine/Copy.lean ====
section
/-! DEFINITION. Copy jobs and channels: COPY, COPYM, COPYR, WMARK, CHWAIT, the element events of the engine, job
faults, Advance and Publish (R164 to R167, R255 to R268). -/
namespace Sys2Proof.Machine

/-! ### The bytes of a slice in its linear order (R90, R99, R257) -/

/-- Rows of a slice: the index lists with axis 0 at 0. -/
def rowIndices (sl : Slice) : List (List Nat) :=
  if sl.ext.getD 0 0 = 0 then []
  else (List.range (Slice.count sl / sl.ext.getD 0 0)).map fun r => 0 :: unlin (sl.ext.drop 1) r

/-- Bytes of one row's elements in a packed format. -/
def rowSize (sl : Slice) : Nat := sl.ext.getD 0 0 * fmtBits sl.fmt / 8

/-- Block scales of one row of a block-scaled slice: those of R90's whole row, which is the unit of a copy (R257). -/
def rowScales (sl : Slice) : Nat := sl.full / 64

def byteRun (a : Int) (n : Nat) : List Int := (List.range n).map fun (i : Nat) => a + (i : Int)

/-- Byte addresses of the elements, in linear order. -/
def elemBytes (sl : Slice) : List Int :=
  if packedFmt sl.fmt then (rowIndices sl).flatMap fun ix => byteRun (elemAddr sl ix).1 (rowSize sl)
  else (Slice.indices sl).flatMap fun ix => byteRun (elemAddr sl ix).1 (fmtBits sl.fmt / 8)

/-- Byte addresses of the scales of a block-scaled slice, row by row. -/
def scaleBytes (sl : Slice) : List Int :=
  if fmtBlock sl.fmt then
    (rowIndices sl).flatMap fun ix =>
      byteRun (scaleAddr sl ix - ((sl.org / 64 : Nat) : Int)) (rowScales sl)
  else []

/-- Element entries and scale entries in R90's order: rows in order, and in a row the elements before the
scales. -/
def byRows {α : Type} (sl : Slice) (e sc : List α) : List α :=
  if fmtBlock sl.fmt then
    ((chunks (rowSize sl) (e.length + 1) e).zip (chunks (rowScales sl) (sc.length + 1) sc)).flatMap fun r => r.1 ++ r.2
  else e

/-- A byte address of a slice as a key: a physical address in a vat, else a 64-bit address with its view. -/
def byteKey (sl : Slice) (a : Int) : Nat := if sl.vat then a.toNat else (BitVec.ofInt 64 a).toNat

/-- A slice's bytes in linear byte order (R342). -/
def linearBytes (sl : Slice) : List Nat := (byRows sl (elemBytes sl) (scaleBytes sl)).map (byteKey sl)

/-- Source and destination bytes of a copy, paired by linear element index, in the order of the destination
(R257). -/
def copyPairs (src dst : Slice) : List (Nat × Nat) :=
  (byRows dst ((elemBytes src).zip (elemBytes dst)) ((scaleBytes src).zip (scaleBytes dst))).map fun p =>
    (byteKey src p.1, byteKey dst p.2)

/-- R257: the two slices match. -/
def slicesMatch (a b : Slice) : Bool :=
  Slice.count a == Slice.count b && a.fmt == b.fmt && evenSlice a && evenSlice b
    && (!fmtBlock a.fmt || a.full == b.full)

/-! ### Jobs and their tiles and channels (R25, R203, R255, R256, R258) -/

def isRecv (j : Job) : Bool :=
  match j.kind with
  | .copyrRecv .. => true
  | _ => false

/-- Jobs not yet published that count for a channel. -/
def chanJobs (s : State) (q ch : Nat) : Nat := ((s.quire q).jobs.filter fun j => j.ch == ch && !isRecv j).length

def jobOf (s : State) (q id : Nat) : Option Job := (s.quire q).jobs.find? (·.id == id)

def setJob (s : State) (q : Nat) (j : Job) : State :=
  s.setQuire q { s.quire q with jobs := (s.quire q).jobs.map fun x => if x.id = j.id then j else x }

def dropJob (s : State) (q id : Nat) : State :=
  s.setQuire q { s.quire q with jobs := (s.quire q).jobs.filter (·.id != id) }

/-- A job's tile becomes FAULTED and keeps the state it had (R203). -/
def faultTile (s : State) (q : Nat) (j : Job) (t : Nat) : State :=
  let x := tileFor s q j.by_.task t
  if x.owner.isNone ∨ x.st = .faulted then s
  else setTileFor s q j.by_.task t { x with before := x.st, st := .faulted }

def jobTiles (j : Job) : List Nat := j.srcTile.toList ++ j.dstTile.toList

/-- The record of a job's fault (R260, R328). -/
def jobRec (s : State) (q : Nat) (j : Job) (t : Trap) : FRec :=
  { seq := 0, trap := t, src := .job q j.id, ch := j.ch % 8, pos := posWord s j.by_.pos, slotgen := j.by_.slotgen,
    pc := j.by_.pc, enc := j.by_.enc, tile := (jobTiles j).headD 0, grp := 0, kdone := 0, slot := 0,
    task := if isRecv j then none else j.by_.task,
    launch := if isRecv j then none else (j.by_.task.bind (taskOf s)).map (·.launch), delivered := false }

def postFor (s : State) (part : Option Nat) (r : FRec) : State :=
  match part with
  | some n => post s n r
  | none => s

/-- A job becomes faulted, and with it its tiles and its channel; its record is posted (R260). -/
def jobFault (s : State) (q : Nat) (j : Job) (t : Trap) : State :=
  let s1 := setJob s q { j with faulted := true, cause := some t.cause }
  let s2 := (jobTiles j).foldl (fun s h => faultTile s q j h) s1
  let s3 := if isRecv j then s2 else setChan s2 q j.ch { chanAt s2 q j.ch with st := .faulted }
  postFor s3 j.by_.part (jobRec s3 q j t)

/-- A tile that a new job writes or reads (R203). -/
def useTile (s : State) (q : Nat) (h : Option Nat) (st : TState) : State :=
  match h with
  | some t => setTile s q t { Sparse.get Tile.reset (s.quire q).tiles t with st := st }
  | none => s

/-- What a copy instruction asks for. -/
structure NewJob where
  ch : Nat
  kind : JobKind
  src : Slice
  dst : Slice
  srcTile : Option Nat
  dstTile : Option Nat
  dk : BitVec 512
  slot : Option Nat

def newJob (s : State) (c : Ctx) (n : NewJob) : Job :=
  { id := s.front.nextId, by_ := issuerOf s c, ch := n.ch, kind := n.kind, src := n.src, dst := n.dst,
    srcTile := n.srcTile, dstTile := n.dstTile, dk := n.dk, slot := n.slot, got := [], wr := [], landed := 0, inbox := [],
    faulted := false, cause := none }

/-- The entry into the channel and the tile's change, in one move; a full channel is waited for (R255, R258). -/
def makeJob (s : State) (c : Ctx) (n : NewJob) : Eff :=
  let q := quireOf s.cur
  if 4 ≤ chanJobs s q n.ch then waitRetest s s.cur
  else
    let j := newJob s c n
    let s1 := s.setFront { s.front with nextId := s.front.nextId + 1 }
    let s2 := s1.setQuire q { s1.quire q with jobs := (s1.quire q).jobs ++ [j] }
    let s3 := useTile (useTile s2 q n.srcTile .draining) q n.dstTile .filling
    let x := chanAt s3 q n.ch
    let s4 := setChan s3 q n.ch { x with st := if x.st = .faulted then .faulted else .active }
    ok (retire s4 c 12)

/-- The tile conditions of R258, which stand in for R17: the written tile, or the read tile. -/
def copyTile (s : State) (c : Ctx) (t : Handle) (writes : Bool) : TileTest :=
  let e := tileAt s (quireOf s.cur) t
  if !owns c e then .trap (operand t.toNat)
  else match e.st with
    | .faulted => .trap (trapOf .tile (freeInfo .tile t.toNat))
    | .draining => if writes then .wait else .ok
    | .empty | .filling => if writes then .ok else .wait
    | .ready => .ok

/-- A copy instruction's body behind its channel number and its tile's condition. -/
def withCopyTile (s : State) (c : Ctx) (ch t : Handle) (writes : Bool) (body : Eff) : Eff :=
  if 8 ≤ ch.toNat then bad s (operand ch.toNat)
  else match copyTile s c t writes with
    | .trap x => bad s x
    | .wait => waitRetest s s.cur
    | .ok => body

/-- R258: the producer slot that a COPY.IN counts toward; the outer none is the OPERAND case. -/
def slotFor (t : Tile) (ident : Nat) : Option (Option Nat) :=
  if (List.range 4).all fun i => !(slotAt t i).used then some none
  else ((List.range 4).find? fun i => (slotAt t i).used && (slotAt t i).src.toNat == ident).map some

/-! ### COPY and COPYM (R261, R262) -/

def execCopyIn (g : Guard) (td dk ch : Handle) (s : State) : Out :=
  guarded g false 12 s fun c =>
    let q := quireOf s.cur
    withCopyTile s c ch td true
      (match memSlice s q dk (widRead c) c.levels true, tileSlice s q td (widRead c) c.levels true with
       | some m, some t =>
         if slicesMatch m t then match slotFor (tileAt s q td) (0x8000 + q) with
           | some sl => makeJob s c ⟨ch.toNat, .copyIn, m, t, none, some td.toNat, deckleAt s q dk.toNat, sl⟩
           | none => bad s (operand td.toNat)
         else bad s (operand dk.toNat)
       | _, _ => bad s (operand dk.toNat))

def execCopyOut (g : Guard) (ts dk ch : Handle) (s : State) : Out :=
  guarded g false 12 s fun c =>
    let q := quireOf s.cur
    withCopyTile s c ch ts false
      (match memSlice s q dk (widRead c) c.levels true, tileSlice s q ts (widRead c) c.levels true with
       | some m, some t =>
         if slicesMatch m t then makeJob s c ⟨ch.toNat, .copyOut, t, m, some ts.toNat, none, deckleAt s q dk.toNat, none⟩
         else bad s (operand dk.toNat)
       | _, _ => bad s (operand dk.toNat))

def execCopym (g : Guard) (ts dk ch : Handle) (s : State) : Out :=
  guarded g false 12 s fun c =>
    let q := quireOf s.cur
    withCopyTile s c ch ts false
      (match memSlice s q dk (widRead c) c.levels true, tileSlice s q ts (widRead c) c.levels true with
       | some m, some t =>
         if slicesMatch m t && bits (dkBase (deckleAt s q dk.toNat)).toNat 56 8 == 0 then
           makeJob s c ⟨ch.toNat, .copym, t, m, some ts.toNat, none, deckleAt s q dk.toNat, none⟩
         else bad s (operand dk.toNat)
       | _, _ => bad s (operand dk.toNat))

/-! ### COPYR (R263) -/

/-- The next job number toward a device (R355). -/
def jobNumber (s : State) (dev : Nat) : Nat := (Sparse.get 0 s.fabric.jobNo dev).toNat

def bumpJobNumber (s : State) (dev : Nat) : State :=
  s.setFabric { s.fabric with jobNo := Sparse.modify 0 s.fabric.jobNo dev (· + 1) }

def execCopyr (g : Guard) (ch : Handle) (ra : Reg) (quire : BitVec 7) (td ts : Handle) (s : State) : Out :=
  guarded g false 12 s fun c =>
    let q := quireOf s.cur
    withCopyTile s c ch ts false
      (let r := (c.reg ra).toNat
       match tileSlice s q ts (widRead c) c.levels true, (partOf s s.cur).bind fun n => rankDev s n r with
       | some t, some dev =>
         let total := (linearBytes t).length
         let k : JobKind := .copyrSend dev r quire.toNat td.toNat (jobNumber s dev) total 0 (total == 0)
         match makeJob s c ⟨ch.toNat, k, t, t, some ts.toNat, none, 0, none⟩ with
         | (s1, e) => (if s1.front.nextId = s.front.nextId then s1 else bumpJobNumber s1 dev, e)
       | _, _ => bad s (operand r))

/-! ### Element events (R259, R260) -/

/-- The bytes a job reads, in linear order. -/
def jobReads (j : Job) : List Nat :=
  match j.kind with
  | .copyrRecv .. => []
  | _ => linearBytes j.src

/-- A memory address seen by a die view (R262). -/
def dieAddr (a die : Nat) : Nat := a % 2 ^ 56 + (0x40 + die) * 2 ^ 56

/-- Source and destination bytes of a job, in the order that decides shared bytes. -/
def jobPairs (j : Job) : List (Nat × Nat) :=
  match j.kind with
  | .copyIn | .copyOut => copyPairs j.src j.dst
  | .copym => [0, 1, 2, 3].flatMap fun d => (copyPairs j.src j.dst).map fun p => (p.1, dieAddr p.2 d)
  | .copyrSend .. | .copyrRecv .. => []

def gotByte (j : Job) (a : Nat) : Option Byte := Sparse.get none j.got a

/-- Whether a destination byte has been written: `wr` numbers 8-byte units. -/
def written (j : Job) (a : Nat) : Bool := j.wr.contains (a / 8)

/-- The place of a granule of a job's slice: the first byte's key, the granule event, or the fault of its Resolve, an inner
none where its walk must wait (R29, R259). -/
def granuleAt (s : State) (q : Nat) (j : Job) (vat : Bool) (a : Nat) (acc : Acc) (op : GOp) :
    State × Except Stop (Nat × GEv) :=
  if vat then
    let b := a / 32 * 32
    (s, .ok (b, ⟨b, 32, .coherent, BitVec.ofNat 64 b, acc, .v, op⟩))
  else
    let w : Word := BitVec.ofNat 64 (a / 32 * 32)
    match resolve s (j.by_.who q) (BitVec.ofNat 64 a) acc with
    | (s1, .error e) => (s1, .error (e.map fun t => { t with info := w }))
    | (s1, .ok (.remote _)) => (s1, .error (some (accTrap .address w acc 0)))
    | (s1, .ok (.locs [])) => (s1, .error (some (accTrap .translation w acc 2)))
    | (s1, .ok (.locs (l :: _))) =>
      let n := granSize l.pa
      (s1, .ok (a / n * n, ⟨l.pa / n * n, n, l.coh, BitVec.ofNat 64 (a / n * n), acc, .v, op⟩))

def jobDoer (q : Nat) (j : Job) : Doer := ⟨some (.job q j.id), q, j.by_.task, j.by_.part, false⟩

def inRange (b n a : Nat) : Bool := b ≤ a && a < b + n

/-- The bytes of a COPYR slice that one BDATA packet carries: up to 4 KiB (R342). -/
def chunkBytes : Nat := 4096

/-- ARG of BDATA (R342). -/
def bdataArg (quire tile off total num : Nat) : Nat :=
  pack [(7, quire), (1, 0), (8, tile), (32, off), (32, total), (16, num)]

/-- An earlier COPYR to the same device has packets still to send (R265, R355). -/
def earlierSend (s : State) (dev id : Nat) : Bool :=
  s.quires.any fun e => e.2.jobs.any fun j => match j.kind with
    | .copyrSend d _ _ _ _ total sent _ => d == dev && j.id < id && sent < total && !j.faulted
    | _ => false

/-- A COPYR within the rank whose die link has failed (R263, R303). -/
def ownCut (s : State) (j : Job) : Bool :=
  match j.kind with
  | .copyrSend dev _ quire _ _ _ _ acked => dev == myDev s && !acked && linkDown s (dieOf j.by_.pos) (dieOfQuire quire)
  | _ => false

/-- The next packet of a send job whose bytes have been read goes out, in ascending offset, after those of every earlier
COPYR to the device (R265, R355); to the own rank the bytes wait for their BDATA events (R263). A destination that cannot be
reached, or a failed die link within the rank, faults the job with LINK (R303, R348, R401). -/
def sendChunk (s : State) (q : Nat) (j : Job) : Option State :=
  match j.kind with
  | .copyrSend dev rank quire tile num total sent acked =>
    let part := (linearBytes j.src).drop sent |>.take chunkBytes
    if ownCut s j then some (jobFault s q j (accTrap .link (freeInfo .link num) .none 0))
    else if part.isEmpty || (part.any fun a => (gotByte j a).isNone) || earlierSend s dev j.id then none
    else if dev ≠ myDev s ∧ !reachable s j.by_.part dev then some (jobFault s q j (accTrap .link (freeInfo .link num) .none 0))
    else
      let data := part.map fun a => (gotByte j a).getD 0
      let s1 := setJob s q { j with kind := .copyrSend dev rank quire tile num total (sent + data.length) acked }
      some (if dev = myDev s then s1
        else enqueue s1 (j.by_.part.getD 0) dev tBDATA (bdataArg quire tile sent total num) data (some (q, j.id)) none)
  | _ => none

/-- Source bytes that an event has read, from the byte whose key is `b`. -/
def jobGot (s : State) (q : Nat) (j : Job) (b : Nat) (data : List Byte) : State :=
  let want := (jobReads j).filter fun x => inRange b data.length x && (gotByte j x).isNone
  setJob s q { j with got := want.foldl (fun m x => Sparse.set none m x (some (data.getD (x - b) 0))) j.got }

/-- One EREAD event of a job; through the Host Port its bytes come with the completion (R172). -/
def jobRead (s : State) (q : Nat) (j : Job) (a : Nat) : Option State :=
  match granuleAt s q j j.src.vat a .eread .read with
  | (s1, .error (some t)) => some (jobFault s1 q j t)
  | (s1, .error none) => moved s s1
  | (s1, .ok (b, ev)) =>
    if (jobReads j).any fun x => inRange b ev.len x && (gotByte j x).isNone then
      match tryEvent s1 (jobDoer q j) ev with
      | .did s2 data => some (jobGot s2 q j b data)
      | .trap s2 t => some (jobFault s2 q j t)
      | .gone s2 => some s2
      | .waits s2 => moved s s2
    else none

/-- Bytes at offsets as runs of neighbours. -/
def byteRuns : List (Nat × Byte) → List (Nat × List Byte)
  | [] => []
  | (a, x) :: r => match byteRuns r with
    | (b, d) :: m => if b = a + 1 then (a, x :: d) :: m else (a, [x]) :: (b, d) :: m
    | [] => [(a, [x])]

/-- Bytes in ascending offset. -/
def sortBytes (l : List (Nat × Byte)) : List (Nat × Byte) :=
  (List.range 32).filterMap fun i => (l.find? (·.1 == i)).map fun e => (i, e.2)

/-- Bytes put into a granule whose event has been allowed at its place: a copy's bytes and mask, the Host Port's posted
writes, or the Home's (R150, R154, R172, R259). -/
def putBytes (s : State) (d : Doer) (ev : GEv) (l : List (Nat × Byte)) : State :=
  match placeOf d ev with
  | .copy =>
    match copyOf s d.quire ev.coh (lineOf ev.pa) with
    | some c =>
      let data := l.foldl (fun x e => splice x ((ev.pa + e.1) % 128) [e.2]) c.data
      let mask := l.foldl (fun m e => m ||| maskOf ((ev.pa + e.1) % 128) 1) c.mask
      let full := (List.range 32).all fun i => l.any fun e => (ev.pa + e.1) % 32 == i
      let s1 := putCopy s d.quire ev.coh { c with
          data := data, mask := mask,
          poison := if full then clearCovered c.poison (ev.pa % 128 / 32 * 32) 32 else c.poison }
      l.foldl (fun s e => wakeAt s (ev.pa + e.1) 1 (fun q k =>
          k == ev.coh && (if k = .scopedQ then q == d.quire else dieOfQuire q == dieOfQuire d.quire)) none) s1
    | none => s
  | .pcie => (byteRuns (sortBytes l)).foldl (fun s r =>
      hostPush s d { ev with pa := ev.pa + r.1, len := r.2.length, addr := addrPlus ev.addr r.1, op := .write r.2 } false) s
  | _ => applyBits s d.part (l.map fun e => (ev.pa + e.1, 255, e.2.toNat))

/-- Bytes added to a producer slot's arrived count, or none where they would take it above its expected count
(R167, R203). -/
def arrive (s : State) (q : Nat) (j : Job) (n : Nat) : Option State :=
  match j.slot, j.dstTile with
  | some i, some t =>
    let x := tileFor s q j.by_.task t
    let p := slotAt x i
    if p.expect.toNat < p.arrived.toNat + n then none
    else some (setTileFor s q j.by_.task t (setSlot x i { p with arrived := p.arrived + BitVec.ofNat 32 n }))
  | _, _ => some s

/-- The bytes of a write event, one for each destination byte: offset and value, later pairs winning. -/
def writeBytesOf (j : Job) (b : Nat) (l : List (Nat × Nat)) : List (Nat × Byte) :=
  l.foldl (fun m p => m.filter (·.1 != p.2 - b) ++ [(p.2 - b, (gotByte j p.1).getD 0)]) []

/-- COPYM stores to REPL pages only: any other page faults the job with ADDRESS (R262). -/
def copymFault (s : State) (q : Nat) (j : Job) (a : Nat) : Option Trap :=
  match j.kind with
  | .copym =>
    match (translate s (j.by_.who q) (BitVec.ofNat 64 a) .ewrite).2 with
    | .ok l => if l.kind = .repl then none else some (accTrap .address (BitVec.ofNat 64 (a / 32 * 32)) .ewrite 0)
    | .error _ => none
  | _ => none

/-- A channel's declared range notes the bytes that its own jobs have written there (R166, R267). -/
def noteFilled (s : State) (q : Nat) (j : Job) (l : List Nat) : State :=
  let x := chanAt s q j.ch
  setChan s q j.ch { x with
    filled := l.foldl (fun m a => if inRange x.lo x.len a then Sparse.set false m a true else m) x.filled }

/-- One EWRITE event of a job: the job's bytes in one granule, with their producer arrival (R167, R259). An arrival that
would take its slot above the expected count faults the job: the manual gives no cause, the model OPERAND with the tile's
number (log 123). -/
def jobWrite (s : State) (q : Nat) (j : Job) (a : Nat) : Option State :=
  match copymFault s q j a with
  | some t => some (jobFault s q j t)
  | none => match granuleAt s q j j.dst.vat a .ewrite (.write []) with
    | (s1, .error (some t)) => some (jobFault s1 q j t)
    | (s1, .error none) => moved s s1
    | (s1, .ok (b, ev)) =>
      let mine := (jobPairs j).filter fun p => inRange b ev.len p.2
      if mine.isEmpty || written j a || mine.any fun p => (gotByte j p.1).isNone then none
      else match tryEvent s1 (jobDoer q j) ev with
        | .did s2 _ =>
          let l := writeBytesOf j b mine
          match arrive s2 q j l.length with
          | none => some (jobFault s1 q j (operand (j.dstTile.getD 0)))
          | some s3 =>
            let s4 := setJob (putBytes s3 (jobDoer q j) ev l) q
              { j with wr := j.wr ++ (List.range (ev.len / 8)).map fun i => b / 8 + i }
            some ((noteFilled s4 q j (l.map fun e => ev.pa + e.1)).tally (partOfQuire s q) 29 l.length)
        | .trap s2 t => some (jobFault s2 q j t)
        | .gone _ => none
        | .waits s2 => moved s s2

/-! ### Receive jobs (R263 to R265, R355) -/

/-- The send job toward a device that a BEND names. -/
def sendJobOf (s : State) (dev num : Nat) (part : Option Nat) : Option (Nat × Job) :=
  s.quires.findSome? fun e => (e.2.jobs.find? fun j => match j.kind with
    | .copyrSend d _ _ _ n _ _ _ => d == dev && n == num && j.by_.part == part
    | _ => false).map fun j => (e.1, j)

/-- The end of a COPYR reaches its send job: acknowledged, or faulted with OPERAND (R264, R355). -/
def takeBend (s : State) (dev num : Nat) (part : Option Nat) (refused : Bool) : State :=
  match sendJobOf s dev num part with
  | none => s
  | some (q, j) =>
    if refused then (if j.faulted then s else jobFault s q j (operand num))
    else match j.kind with
      | .copyrSend d r qq tl n total sent _ => setJob s q { j with kind := .copyrSend d r qq tl n total sent true }
      | _ => s

/-- BEND goes back to the source, over the die links to the own rank (R263, R355). -/
def sendBend (s : State) (dev num : Nat) (part : Option Nat) (refused : Bool) : State :=
  if dev = myDev s then takeBend s dev num part refused
  else if reachable s part dev then
    enqueue s (part.getD 0) dev tBEND (pack [(16, num), (8, bit1 refused)]) [] none none
  else s

/-- How an arriving COPYR meets its tile (R264). -/
inductive Meet where
  | ok (dst : Slice) (slot : Option Nat)
  | held
  | refused
  deriving DecidableEq, Repr

/-- R264, for a transfer of `total` bytes, of `count` elements in format code `fmt`, from rank `rank` of partition `n`. -/
def meetTile (s : State) (q t n rank total fmt count : Nat) : Meet :=
  let x := Sparse.get Tile.reset (s.quire q).tiles t
  match x.owner.bind (taskOf s) with
  | none => .refused
  | some k =>
    if k.part ≠ n ∨ x.st = .faulted then .refused
    else match tileSlice s q (BitVec.ofNat 8 t) 0 0 false with
      | none => .refused
      | some d =>
        if (linearBytes d).length ≠ total ∨ fmtOf fmt ≠ some d.fmt ∨ Slice.count d ≠ count then .refused
        else match slotFor x rank with
          | none => .refused
          | some sl => if x.st = .draining then .held else .ok d sl

/-- An earlier transfer from the same device has bytes still to write (R265). -/
def earlierRecv (s : State) (dev id : Nat) : Bool :=
  s.quires.any fun e => e.2.jobs.any fun j => match j.kind with
    | (.copyrRecv d _ _ total _ _ _) => d == dev && j.id < id && j.landed < total && !j.faulted
    | _ => false

/-- A held receive job meets its tile again once the tile has left DRAINING (R264). -/
def recvStart (s : State) (q : Nat) (j : Job) (dev rank num total fmt count : Nat) : Option State :=
  match j.dstTile with
  | none => none
  | some t => match meetTile s q t (j.by_.part.getD 0) rank total fmt count with
    | .held => none
    | .refused => some (sendBend (dropJob s q j.id) dev num j.by_.part true)
    | .ok d sl =>
      some (useTile (setJob s q { j with kind := .copyrRecv dev rank num total true fmt count, dst := d, slot := sl }) q (some t)
        .filling)

/-- The bytes of the oldest packet that fall in its next granule: the granule, and each byte's offset and value. -/
def recvPiece (j : Job) (off : Nat) (data : List Byte) : Nat × List (Nat × Byte) :=
  let addrs := ((linearBytes j.dst).drop off).take data.length
  let g := addrs.headD 0 / 32 * 32
  (g, ((addrs.takeWhile (inRange g 32)).zip data).map fun e => (e.1 - g, e.2))

/-- One masked write of a receive job, with its producer arrival; a packet that would take the slot above its expected
count is not written; the last byte sends BEND (R263, R264, R355). -/
def recvWrite (s : State) (q : Nat) (j : Job) (dev num total off : Nat) (data : List Byte) (rest : List (Nat × List Byte)) :
    Option State :=
  let p := recvPiece j off data
  let n := p.2.length
  let ev : GEv := ⟨p.1, 32, .coherent, BitVec.ofNat 64 p.1, .ewrite, .v, .write []⟩
  let over_ := some (sendBend (jobFault s q j (operand (j.dstTile.getD 0))) dev num j.by_.part true)
  if n = 0 then none
  else if (arrive s q j data.length).isNone then over_
  else match tryEvent s (jobDoer q j) ev with
    | .did s2 _ => match arrive s2 q j n with
      | none => over_
      | some s3 =>
        let inbox := if n = data.length then rest else (off + n, data.drop n) :: rest
        let j' := { j with landed := j.landed + n, inbox := inbox }
        let s4 := (setJob (putBytes s3 (jobDoer q j) ev p.2) q j').tally (partOfQuire s q) 29 n
        some (if j'.landed = total then sendBend s4 dev num j.by_.part false else s4)
    | .trap s2 t => some (jobFault s2 q j t)
    | .gone _ => none
    | .waits s2 => moved s s2

/-- The next move of a receive job, if it can make one. -/
def recvStep (s : State) (q : Nat) (j : Job) : Option State :=
  match j.kind with
  | .copyrRecv dev rank num total started fmt count =>
    if j.faulted || earlierRecv s dev j.id then none
    else if !started then recvStart s q j dev rank num total fmt count
    else match j.inbox with
      | [] => none
      | (off, data) :: rest => recvWrite s q j dev num total off data rest
  | _ => none

/-- A send job has packets still to send, or finds that it cannot. -/
def unsent (s : State) (j : Job) : Bool :=
  (match j.kind with
   | .copyrSend _ _ _ _ _ total sent _ => sent < total
   | _ => false) || ownCut s j

/-- The next element event that a job still needs: write or read, and an address in its granule; a send job's packets go
out as its writes. -/
def jobNext (s : State) (q : Nat) (j : Job) : Option (Bool × Nat) :=
  if j.faulted then none
  else if isRecv j then (recvStep s q j).map fun _ => (true, 0)
  else match (jobReads j).find? fun a => (gotByte j a).isNone with
    | some a => some (false, a)
    | none => if unsent s j then some (true, 0) else ((jobPairs j).find? fun p => !written j p.2).map fun p => (true, p.2)

/-- ENGINE_ELEMENT_EVENT: one granule read or write of a job, a packet of a send job, or the job's fault. -/
def execEngineElementEvent (q job : Nat) (wr : Bool) (at_ : Nat) (s : State) : Out :=
  match jobOf s q job with
  | none => .fault (.notEnabled "no such job")
  | some j =>
    if j.faulted then .fault (.notEnabled "the job is faulted")
    else match (if isRecv j then recvStep s q j
        else if !wr then jobRead s q j at_
        else if unsent s j then sendChunk s q j else jobWrite s q j at_) with
      | some t => .next t
      | none => .fault (.notEnabled "no such element event can be performed")

/-! ### Publish and Advance (R165, R166) -/

/-- Every event of a job has been performed, and a send job's destination has acknowledged. -/
def jobDone (j : Job) : Bool :=
  !j.faulted && (match j.kind with
    | .copyrSend _ _ _ _ _ _ _ acked => acked
    | .copyrRecv _ _ _ total _ _ _ => j.landed == total
    | _ => (jobReads j).all (fun a => (gotByte j a).isSome) && (jobPairs j).all fun p => written j p.2)

def writesTile (t : Nat) (j : Job) : Bool := j.dstTile == some t
def readsTile (t : Nat) (j : Job) : Bool := j.srcTile == some t

/-- R203: FILLING becomes READY when no writing job remains and PEND is 0; DRAINING when no reading job remains. -/
def settleTile (s : State) (q : Nat) (task : Option (BitVec 16)) (t : Nat) : State :=
  let x := tileFor s q task t
  let jobs := (s.quire q).jobs.filter fun j => j.by_.task == task
  if x.st = .filling ∧ !jobs.any (writesTile t) ∧ tilePend x = 0 then setTileFor s q task t { x with st := .ready }
  else if x.st = .draining ∧ !jobs.any (readsTile t) then setTileFor s q task t { x with st := .ready }
  else s

/-- The channel becomes DONE when the job count falls to 0 (R256). -/
def settleChan (s : State) (q ch : Nat) : State :=
  let x := chanAt s q ch
  if x.st = .active ∧ chanJobs s q ch = 0 then setChan s q ch { x with st := .done } else s

/-- Publish: the job leaves its queue, and its tiles and channel change in the same step. -/
def publishJob (s : State) (q : Nat) (j : Job) : State :=
  let s1 := dropJob s q j.id
  let s2 := (jobTiles j).foldl (fun s t => settleTile s q j.by_.task t) s1
  if isRecv j then s2 else settleChan s2 q j.ch

def execPublish (q job : Nat) (s : State) : Out :=
  match jobOf s q job with
  | none => .fault (.notEnabled "no such job")
  | some j => when (jobDone j) "the job has events to perform" (publishJob s q j)

/-! ### WMARK and CHWAIT (R266 to R268) -/

/-- WMARK: the range's single location (R266). -/
def execWmark (g : Guard) (ch : Handle) (ra rb : Reg) (s : State) : Out :=
  guarded g false 12 s fun c =>
    let q := quireOf s.cur
    let n := (c.reg rb).toNat
    if 8 ≤ ch.toNat then bad s (operand ch.toNat)
    else if 2 ^ 32 ≤ n ∨ (chanAt s q ch.toNat).st = .active ∨ chanJobs s q ch.toNat ≠ 0 then bad s (operand ch.toNat)
    else match resolve s (whoIs s s.cur) (c.reg ra) .eread with
      | (s1, .error (some t)) => bad s1 t
      | (s1, .error none) => waitRetest s1 s1.cur
      | (s1, .ok (.locs (l :: _))) =>
        match pageSpan s1 (whoIs s s.cur) (c.reg ra) with
        | some (_, room, _) =>
          if n ≤ room then ok (retire (setChan s1 q ch.toNat ⟨.idle, l.pa, n, l.pa, []⟩) c 12)
          else bad s1 (operand n)
        | none => bad s1 (operand n)
      | (s1, .ok _) => bad s1 (accTrap .address (c.reg ra) .eread 0)

/-- WMARK.GET: the count of bytes filled from the start of the range. -/
def execWmarkGet (g : Guard) (gd : Reg) (ch : Handle) (s : State) : Out :=
  guarded g false 12 s fun c =>
    if 8 ≤ ch.toNat then bad s (operand ch.toNat)
    else
      let x := chanAt s (quireOf s.cur) ch.toNat
      ok (retire s (c.setReg gd (BitVec.ofNat 64 (x.wm - x.lo))) 12)

/-- CHWAIT (R268). -/
def execChwait (g : Guard) (ch : Handle) (s : State) : Out :=
  guarded g false 12 s fun c =>
    if 8 ≤ ch.toNat then bad s (operand ch.toNat)
    else
      let q := quireOf s.cur
      match (chanAt s q ch.toNat).st with
      | .idle | .done => ok (retire s c 12)
      | .active => waitRetest s s.cur
      | .faulted => if chanJobs s q ch.toNat = 0 then bad s (trapOf .tile (freeInfo .tile ch.toNat))
        else waitRetest s s.cur

/-- WATERMARK_ADVANCE: the watermark rises to an address below which the channel's own jobs have written every byte of
the range (R166, R267). -/
def execWatermarkAdvance (q ch w : Nat) (s : State) : Out :=
  let x := chanAt s q ch
  let filled := (List.range (w - x.wm)).all fun i => Sparse.get false x.filled (x.wm + i)
  when (x.len != 0 && x.wm < w && w ≤ x.lo + x.len && filled) "bytes of the range are not yet written"
    (setChan s q ch { x with wm := w })

end Sys2Proof.Machine
end

