-- ==== Sys2Proof/Machine/Thread.lean ====
section
/-! DEFINITION. Threads: slots freed and filled, SPAWN, REAP, HALT, WFW and MIGR (R269 to R275). -/
namespace Sys2Proof.Machine

/-! ### Slots (R269) -/

/-- A slot with no thread. SLOTGEN stays, so that messages for its former thread are still found stale (R302). -/
def emptySlot (c : Ctx) : Ctx := { Ctx.reset with slotgen := c.slotgen }

/-- Requests of a context to its fetch port are withdrawn. -/
def dropFetches (s : State) (pos : Nat) : State :=
  let q := s.quire (quireOf pos)
  s.setQuire (quireOf pos) { q with fetches := q.fetches.filter (·.1 != pos) }

/-- A thread leaves its slot: its leases break, its queued event and its fetch requests are withdrawn. -/
def leaveSlot (s : State) (pos : Nat) : State := dropFetches (withdraw (breakLeases s pos) (.ctx pos)) pos

/-- The slot becomes FREE. -/
def freeSlot (s : State) (pos : Nat) : State :=
  let s1 := leaveSlot s pos
  s1.setCtx pos (emptySlot (s1.ctx pos))

/-- RM, FTZ and DAZ, which SPAWN copies (R270). -/
def inheritSt (st : Word) : Word := (st &&& 0x700C000) ||| 1

/-- A new thread's context: a slot's next generation, with `regs` for g1 to g6 (R270, R292). -/
def newThread (old : Ctx) (task : Option (BitVec 16)) (pc : BitVec 56) (wid levels seed st : Word) (regs : List Word) :
    Ctx :=
  { Ctx.reset with
    g := Vector.ofFn fun i => if 1 ≤ i.val ∧ i.val ≤ 6 then regs.getD (i.val - 1) 0 else 0
    pc := pc, st := st, wid := wid, levels := levels, slotgen := old.slotgen + 1, seed := seed, run := .running,
    task := task }

/-- A thread starts in a FREE slot. -/
def startThread (s : State) (pos : Nat) (c : Ctx) : State := dropFetches (s.setCtx pos c) pos

/-- Posted writes of a thread that the Host Port still holds follow it to its new position and generation: its FENCE.S waits
for them there (R157, R172). -/
def renamePosted (s : State) (p0 : Nat) (g0 : BitVec 32) (p1 : Nat) (g1 : BitVec 32) : State :=
  let upd := fun (r : HostReq) =>
    if (r.by_ = .ctx p0 ∨ r.by_ = .ownRacc p0) ∧ r.gen = g0 ∧ isStore r.op then { r with by_ := .ctx p1, gen := g1 } else r
  s.setDev { s.dev with hostQ := s.dev.hostQ.map upd }

/-! ### SPAWN, REAP and HALT (R270 to R272) -/

/-- The position of context n of the same core. -/
def sibling (pos : Nat) (n : BitVec 4) : Nat := pos / 16 * 16 + n.toNat

def execSpawn (g : Guard) (rd : Reg) (n : BitVec 4) (ra rb : Reg) (s : State) : Out :=
  guarded g false 8 s fun c =>
    if slotOf s.cur ≠ 0 ∨ n = 0 then bad s (operandAt n.toNat)
    else if bits (c.reg ra).toNat 0 2 ≠ 0 then bad s (trapOf .align (c.reg ra))
    else
      let p := sibling s.cur n
      let t := s.ctx p
      if t.run ≠ .free then ok (retire s (c.setReg rd 1) 8)
      else
        let regs := [1, 2, 3, 4, 5, 6].map fun (i : Nat) => c.reg (BitVec.ofNat 4 i)
        let x := newThread t c.task ((c.reg ra).setWidth 56) (c.reg rb) c.levels c.seed (inheritSt c.st) regs
        ok (retire (startThread s p x) (c.setReg rd 0) 8)

def execReap (g : Guard) (rd : Reg) (n : BitVec 4) (wait : Bool) (s : State) : Out :=
  guarded g false 8 s fun c =>
    if slotOf s.cur ≠ 0 ∨ n = 0 then bad s (operand n.toNat)
    else
      let p := sibling s.cur n
      let t := s.ctx p
      match t.run with
      | .free => ok (retire s (c.setReg rd 0) 8)
      | .running | .faulted => if wait then waitRetest s s.cur else ok (retire s (c.setReg rd 1) 8)
      | .halted => ok (retire (freeSlot s p) (c.setReg rd (if t.aborted then 3 else 2)) 8)

/-- The end of a thread: HALTED in a slot of a task, else the slot is freed (R272). -/
def endThread (s : State) (pos : Nat) (aborted : Bool) : State :=
  let s1 := leaveSlot s pos
  let c := s1.ctx pos
  if c.task.isSome then
    s1.setCtx pos { c with run := .halted, aborted := aborted, port := none, wait := .none, block := none, ahead := none,
                           handle := none }
  else s1.setCtx pos (emptySlot c)

def execHalt (g : Guard) (s : State) : Out :=
  guarded g false 8 s fun c => ok (endThread (retire s c 8) s.cur false)

/-! ### WFW (R273) -/

/-- The task has items that its dispenser has not delivered. -/
def itemsLeft (t : Task) : Bool := t.nextItem < t.endItem

def execWfw (g : Guard) (rd : Reg) (s : State) : Out :=
  guarded g false 8 s fun c =>
    match c.task.bind (taskOf s) with
    | none => bad s (operand 0)
    | some t =>
      let s1 := breakLeases s s.cur
      let c1 := s1.ctx s1.cur
      if itemsLeft t then
        ok ((s1.setTask { t with wfw := t.wfw ++ [s.cur] }).setCtx s.cur { c1 with wait := .wfw rd })
      else ok (retire s1 (c1.setReg rd 0) 8)

/-! ### MIGR (R275) -/

def execMigr (g : Guard) (rd ra : Reg) (quire : BitVec 7) (named : Bool) (s : State) : Out :=
  guarded g false 8 s fun c =>
    let r := (c.reg ra).toNat
    if slotOf s.cur = 0 then bad s (operand r)
    else match (partOf s s.cur).bind fun n => rankDev s n r with
      | none => bad s (operand r)
      | some dev =>
        ok (startMigration s s.cur { dst := dev, rank := r, quire := if named then some quire.toNat else none,
                                     rd := some rd, acc := .none, addr := 0, tries := 0 })

end Sys2Proof.Machine
end

