-- ==== Sys2Proof/Machine/Deliver.lean ====
section
/-! DEFINITION. Packets that arrive: the checks, the reorder window and the action of each type: COPYR data and its end,
migrations with their answers, remote accesses with their replies, ACKS and SPDM; discards and failed pairs (R32, R33,
R263 to R265, R274, R302, R340, R342, R343, R348 to R350, R353 to R356). -/
namespace Sys2Proof.Machine

/-! ### Fields -/

def argBits (p : Packet) (lo n : Nat) : Nat := bits p.arg.toNat lo n

def payBytes (p : Packet) (off n : Nat) : Nat := ofBytes ((p.payload.drop off).take n)

/-- The slot tag of ACCEPT, REFUSE, RACC and RREPLY. -/
def tagOf (p : Packet) : Nat := argBits p 0 64

/-- The context that a message's slot tag names, while it still runs the thread that sent it (R302). -/
def tagHolder (s : State) (tag : Nat) : Option Ctx :=
  let c := s.ctx (tagPos tag)
  if c.run = .running ∧ c.slotgen = tagGen tag then some c else none

/-! ### COPYR data (R263 to R265, R355) -/

/-- The issuer that a receive job's records name: no thread; the destination quire's first position. -/
def recvIssuer (q : Nat) (tag : Option (BitVec 16)) (n : Nat) : Issuer :=
  { pos := 128 * q, slotgen := 0, pc := 0, enc := List.replicate 16 0, task := tag, part := some n, asid := none }

def recvOf (s : State) (q dev num n : Nat) : Option Job :=
  (s.quire q).jobs.find? fun j => match j.kind with
    | .copyrRecv d _ m _ _ _ _ => d == dev && m == num && j.by_.part == some n
    | _ => false

/-- The receive job of a first packet: accepted, held behind a DRAINING tile, or refused. -/
def openRecv (s : State) (q t dev rank num total n fmt count : Nat) (data : List Byte) : State :=
  let tag := (Sparse.get Tile.reset (s.quire q).tiles t).owner
  let mk := fun (d : Slice) (sl : Option Nat) (started : Bool) =>
    let j : Job := { id := s.front.nextId, by_ := recvIssuer q tag n, ch := 8,
                     kind := .copyrRecv dev rank num total started fmt count, src := d, dst := d, srcTile := none,
                     dstTile := some t, dk := 0, slot := sl, got := [], wr := [], landed := 0, inbox := [(0, data)], faulted := false, cause := none }
    let s1 := s.setFront { s.front with nextId := s.front.nextId + 1 }
    s1.setQuire q { s1.quire q with jobs := (s1.quire q).jobs ++ [j] }
  match meetTile s q t n rank total fmt count with
  | .refused => sendBend s dev num (some n) true
  | .held => mk ⟨.n8, 0, 1, [0, 1, 1, 1, 1], [0, 0, 0, 0, 0], 0, 0, true, 0, 0⟩ none false
  | .ok d sl => useTile (mk d sl true) q (some t) .filling

/-- The receive job writes what it can of its packets. -/
def pumpRecv (q dev num n : Nat) : Nat → State → State
  | 0, s => s
  | fuel + 1, s => match recvOf s q dev num n with
    | none => s
    | some j => match recvStep s q j with
      | some t => pumpRecv q dev num n fuel t
      | none => s

/-- BDATA delivered: the packet joins its receive job; a packet of a refused job has no effect. -/
def actBdata (s : State) (p : Packet) (n rank fmt count : Nat) : State :=
  let q := argBits p 0 7
  let off := argBits p 16 32
  let num := argBits p 80 16
  let dev := p.src.toNat
  let s1 := match recvOf s q dev num n with
    | some j => setJob s q { j with inbox := j.inbox ++ [(off, p.payload)] }
    | none =>
      if off ≠ 0 then s
      else if partOfQuire s q ≠ some n then sendBend s dev num (some n) true
      else openRecv s q (argBits p 8 8) dev rank num (argBits p 48 32) n fmt count p.payload
  pumpRecv q dev num n (p.payload.length + 1) s1

/-! ### Migrations (R32, R33, R274, R275, R353) -/

/-- The first FREE context of 1 to 15 of a quire, lowest core first (R274); none while the quire is being scrubbed. -/
def freeContext (s : State) (q : Nat) : Option Nat :=
  (List.range 128).map (128 * q + ·) |>.find? fun p => slotOf p != 0 && (s.ctx p).run == .free && !inScrub s q

def accOf : Nat → Acc
  | 0 => .read | 1 => .write | 2 => .atomic | 3 => .reduce | 4 => .lease | 5 => .fetch | 6 => .eread | 7 => .ewrite
  | _ => .none

/-- The migrated thread as its slot receives it: SEED 0, the next SLOTGEN, no task. -/
def arrivedCtx (old : Ctx) (p : Packet) (n : Nat) : Ctx :=
  { Ctx.reset with
    g := Vector.ofFn fun i => BitVec.ofNat 64 (payBytes p (8 * i.val) 8)
    pc := BitVec.ofNat 56 (payBytes p 128 8)
    st := stSaved (BitVec.ofNat 64 (payBytes p 136 8))
    wid := BitVec.ofNat 64 (payBytes p 144 8)
    levels := BitVec.ofNat 64 (payBytes p 176 8)
    slotgen := old.slotgen + 1
    run := .running
    part := some n }

/-- The target quire of a migration, if it may take it: for MIGR the named quire, or the one of the origin's number;
toward a quire of this same device the permission bit must be set (R275, R366). -/
def migrTarget (s : State) (p : Packet) (n : Nat) (own : Bool) : State × Option Nat :=
  if payBytes p 164 1 = 8 then
    let from_ := bits (payBytes p 152 8) 47 7
    let tq := payBytes p 165 1
    let q := if bits tq 7 1 = 1 then bits tq 0 7 else from_
    let allowed := partOfQuire s q == some n && (!own || q == from_ || (Sparse.get 0 s.front.perm from_).getLsbD q)
    (s, if allowed then some q else none)
  else accessQuire s n (BitVec.ofNat 64 (payBytes p 168 8)) (accOf (payBytes p 164 1))

/-- How a migration is met: placed, refused, or, within the rank, cut off by a failed die link (R274, R303). -/
inductive Met where
  | took | refused | cut
  deriving DecidableEq, Repr

/-- A migration met. Counters 34 and, for MIGR, 32 rise where it is placed (R370). -/
def placeMigration (s : State) (p : Packet) (n : Nat) (own : Bool) : State × Met :=
  match migrTarget s p n own with
  | (s1, none) => (s1, .refused)
  | (s1, some q) =>
    if own ∧ linkDown s1 (dieOfQuire (bits (payBytes p 152 8) 47 7)) (dieOfQuire q) then (s1, .cut)
    else match freeContext s1 q with
      | none => (s1, .refused)
      | some pos =>
        let c := arrivedCtx (s1.ctx pos) p n
        let s2 := startThread s1 pos c
        let tag := payBytes p 152 8
        let s3 := (if own then renamePosted s2 (tagPos tag) (tagGen tag) pos c.slotgen else s2).tally (some n) 34 1
        (if payBytes p 164 1 = 8 then s3.tally (some n) 32 1 else s3, .took)

/-- ACCEPT at the origin: the slot is freed, if it still holds the thread that left (R274, R302). -/
def actAccept (s : State) (tag : Nat) : State :=
  let pos := tagPos tag
  match (tagHolder s tag).map (·.wait) with
  | some (Wait.migrate _) => freeSlot (s.tally (partOf s pos) 33 1) pos
  | _ => discardStale s (quireOf pos) none

/-- REFUSE at the origin: one try more, or the fallback (R274, R275). -/
def actRefuse (s : State) (tag : Nat) : State :=
  let pos := tagPos tag
  match (tagHolder s tag).map (·.wait) with
  | some (Wait.migrate m) => refuseMigration s pos m
  | _ => discardStale s (quireOf pos) none

/-- A migration within the rank that needs a failed die link raises LINK at its origin (R303). -/
def cutMigration (s : State) (tag : Nat) : State :=
  let pos := tagPos tag
  match (tagHolder s tag).map (·.wait) with
  | some (Wait.migrate m) => takeTrap s pos (accTrap .link m.addr m.acc 0)
  | _ => discardStale s (quireOf pos) none

/-- MIGRATE delivered: the context is placed or refused, and the origin answered. -/
def actMigrate (s : State) (p : Packet) (n : Nat) (own : Bool) : State :=
  let tag := payBytes p 152 8
  match placeMigration s p n own with
  | (s1, m) =>
    if own then match m with
      | .took => actAccept s1 tag
      | .refused => actRefuse s1 tag
      | .cut => cutMigration s1 tag
    else if reachable s1 (some n) p.src.toNat then
      enqueue s1 n p.src.toNat (if m = .took then tACCEPT else tREFUSE) tag [] none none
    else s1

/-! ### Remote accesses (R354) -/

def szOfBytes : Nat → Sz
  | 1 => .b8 | 2 => .b16 | 4 => .b32 | _ => .b64

/-- The operation of a request, from its access kind, its major (log 12) and its minor. -/
def raccOp (p : Packet) : GOp :=
  let acc := payBytes p 8 1
  let n := payBytes p 9 1
  let minor := payBytes p 10 1
  let major := payBytes p 12 1
  if acc = 0 then .read
  else if acc = 1 then .write ((p.payload.drop 16).take n)
  else if major = 0x48 ∨ major = 0x49 then .cas (payBytes p 16 n) (payBytes p (16 + n) n)
  else if major = 0x4E then .barArrive
  else .rmw ((atomOpOf minor).getD .addF) (szOfBytes n) (payBytes p 16 n)

/-- Whether a request is BAR.ARRIVE or BAR.WAIT, whose page is tested (R198, R199). -/
def raccBar (p : Packet) : Bool := payBytes p 12 1 == 0x4E

/-- The granule events of a request at its locations: a read or write is cut at the granules of the memory there. -/
def raccEvents (p : Packet) (ls : List Loc) : List GEv :=
  let acc := accOf (payBytes p 8 1)
  let n := payBytes p 9 1
  let sc := scopeOf (payBytes p 11 1)
  match raccOp p with
  | .read => (cutPiece acc 0 n ls).map fun e => ⟨e.2.2.pa, e.2.1, e.2.2.coh, e.2.2.addr, acc, sc, .read⟩
  | .write d =>
    (cutPiece acc 0 n ls).map fun e => ⟨e.2.2.pa, e.2.1, e.2.2.coh, e.2.2.addr, acc, sc, .write ((d.drop e.1).take e.2.1)⟩
  | op => ls.map fun l => ⟨l.pa, n, l.coh, l.addr, acc, sc, op⟩

/-- Who performs a remote access at its home: a party of its own, on the Home (R155, R354). `own` is the position of a
context of this device whose access it is. -/
def raccDoer (own : Option Nat) (src n q : Nat) : Doer :=
  ⟨some (match own with
    | some pos => .ownRacc pos
    | none => .racc src), q, none, some n, true⟩

/-- A request resolved for a partition in the quire of R274: its events, or the trap, none where its walk must wait. A
REMOTE page gives ADDRESS, and a die link that has failed between the context and its home LINK (R303, R354). -/
def resolveRacc (s : State) (p : Packet) (n : Nat) (own : Option Nat) : State × Except Stop Work :=
  let a : Word := BitVec.ofNat 64 (payBytes p 0 8)
  let acc := accOf (payBytes p 8 1)
  match accessQuire s n a acc with
  | (s1, none) => (s1, .error (some (accTrap .translation a acc 3)))
  | (s1, some q) =>
    if own.any fun pos => linkDown s1 (dieOf pos) (dieOfQuire q) then (s1, .error (some (accTrap .link a acc 0)))
    else match resolve s1 (homeWho s1 n q) a acc with
      | (s2, .error e) => (s2, .error e)
      | (s2, .ok (.remote _)) => (s2, .error (some (accTrap .address a acc 0)))
      | (s2, .ok (.locs ls)) =>
        if raccBar p ∧ !(ls.all fun x => x.coh == .coherent && !rangeIsHost x.pa) then (s2, .error (some (barTrap a)))
        else (s2, .ok ⟨q, raccEvents p ls, [], false, none⟩)

/-- One move of a remote access at its home: it goes on, or is answered. -/
inductive RaccMove where
  | goes (s : State) (w : Work)
  | answers (s : State) (r : Except Trap (List Byte))

/-- The next event of a remote access: each is its own move of the ordering machine (R354). -/
def raccStep (s : State) (d : Doer) (w : Work) : RaccMove :=
  match w.err, w.evs with
  | some t, _ => .answers s (.error t)
  | none, [] => .answers s (.ok w.got)
  | none, ev :: rest =>
    if w.sent then .goes s w
    else match tryEvent s d ev with
      | .did s1 old =>
        let got := if opReads ev.op then w.got ++ old else w.got
        let s2 := if ev.op = .barArrive then noteBar s1 ev.pa else s1
        if rest.isEmpty then .answers s2 (.ok got) else .goes s2 { w with evs := rest, got := got }
      | .trap s1 t => .answers s1 (.error t)
      | .gone s1 => .goes s1 { w with sent := true }
      | .waits s1 => .goes s1 w

/-- The payload of RREPLY. Byte 33 tells a TRANSLATION trap's SUB, which R320 fixes and the layout of R354 leaves out
(log 32). -/
def replyBytes : Except Trap (List Byte) → List Byte
  | .ok d => d.take 32 ++ List.replicate (32 - d.length) 0 ++ [0, 0]
  | .error t => List.replicate 32 0 ++ [BitVec.ofNat 8 t.cause.code, BitVec.ofNat 8 t.sub]

def causeOf : Nat → Cause
  | 1 => .illegal | 2 => .prefixed | 3 => .operand | 4 => .privilege | 5 => .address | 6 => .translation
  | 7 => .storepolicy | 8 => .align | 9 => .tile | 10 => .sparse | 11 => .divide | 12 => .poison | 13 => .link
  | _ => .software

/-- The trap of a reply at the origin. -/
def replyTrap (ev : GEv) (code sub : Nat) : Trap :=
  if causeOf code = .operand then barTrap ev.addr
  else accTrap (causeOf code) (if code = 12 ∨ code = 13 then granAddr ev else ev.addr) ev.acc (if code = 6 then sub % 4 else 0)

/-- RREPLY at the origin: the value or the trap reaches the waiting context; if it is no longer there, its sender is told so
(R302). -/
def actRreply (s : State) (dev tag : Nat) (payload : List Byte) : State :=
  let pos := tagPos tag
  match (tagHolder s tag).bind (·.port) with
  | some p => match p.remote, p.sent, p.evs with
    | some _, true, ev :: _ =>
      let code := (payload.getD 32 0).toNat
      if code = 0 then advancePort s pos (payload.take ev.len)
      else takeTrap s pos (replyTrap ev code (payload.getD 33 0).toNat)
    | _, _, _ => discardStale s (quireOf pos) (some (dev, tag))
  | none => discardStale s (quireOf pos) (some (dev, tag))

/-- The work of a remote access kept at its home. -/
def setWork (s : State) (own : Option Nat) (src : Nat) (w : Option Work) : State :=
  match own with
  | some pos => s.setCtx pos { s.ctx pos with port := (s.ctx pos).port.map fun x => { x with work := w } }
  | none => setPairCh s src cMIG { pairCh s src cMIG with work := w }

def workOf (s : State) (own : Option Nat) (src : Nat) : Option Work :=
  match own with
  | some pos => (s.ctx pos).port.bind (·.work)
  | none => (pairCh s src cMIG).work

/-- What delivery of a packet comes to: done, or held at the head of its channel. -/
inductive Delivery where
  | done (s : State)
  | holds (s : State)

/-- A remote access answered. -/
def answerRacc (s : State) (p : Packet) (n : Nat) (own : Option Nat) (r : Except Trap (List Byte)) : Delivery :=
  let src := p.src.toNat
  let s1 := (setWork s own src none).tally (some n) 35 1
  .done (if own.isSome then actRreply s1 src (tagOf p) (replyBytes r)
    else if reachable s1 (some n) src then enqueue s1 n src tRREPLY (tagOf p) (replyBytes r) none none
    else s1)

/-- RACC delivered: it resolves, performs its events one move each, and is answered. -/
def actRacc (s : State) (p : Packet) (n : Nat) (own : Option Nat) : Delivery :=
  let src := p.src.toNat
  let go := fun (s : State) (w : Work) => match raccStep s (raccDoer own src n w.quire) w with
    | .goes s1 w1 => Delivery.holds (setWork s1 own src (some w1))
    | .answers s1 r => answerRacc s1 p n own r
  match workOf s own src with
  | some w => go s w
  | none => match resolveRacc s p n own with
    | (s1, .error (some t)) => answerRacc s1 p n own (.error t)
    | (s1, .error none) => .holds s1
    | (s1, .ok w) => go s1 w

/-! ### Delivery in order (R349, R350) -/

/-- The action of a delivered packet, whose bytes are counted (R370). -/
def deliverPkt (s : State) (x : Arrival) : Delivery :=
  let p := x.pkt
  match partOfKey s p.pkey with
  | none => .done s
  | some n =>
    let count := fun (s : State) => s.tally (some n) (22 + p.cls.toNat) (packetBytes p)
    let s1 := count s
    let rank := (rankOf s n p.src.toNat).getD 0
    let t := p.typ.toNat
    if t = tBDATA then .done (actBdata s1 p n rank x.fmt x.count)
    else if t = tBEND then .done (takeBend s1 p.src.toNat (argBits p 0 16) (some n) (argBits p 16 8 == 1))
    else if t = tMIGRATE then .done (actMigrate s1 p n false)
    else if t = tACCEPT then .done (actAccept s1 (tagOf p))
    else if t = tREFUSE then .done (actRefuse s1 (tagOf p))
    else if t = tRACC then match actRacc s p n none with
      | .done s2 => .done (count s2)
      | .holds s2 => .holds s2
    else if t = tRREPLY then .done (actRreply s1 p.src.toNat (tagOf p) p.payload)
    else if t = tSPDM then .done (s1.setFabric { s1.fabric with spdmIn := s1.fabric.spdmIn ++ [p] })
    else .done s1

/-- A packet of the newest phase has been delivered on its class; once every class has had one, the old phase is held no
longer (R357). -/
def notePhase (s : State) (p : Packet) : State :=
  let upd := fun (x : Session) => match x.old with
    | some l =>
      if x.pkey = p.pkey ∧ x.dev = p.src ∧ x.phase = p.kph then
        let l1 := if l.contains p.cls.toNat then l else l ++ [p.cls.toNat]
        { x with old := if l1.length = 4 then none else some l1 }
      else x
    | none => x
  s.setFabric { s.fabric with sessions := s.fabric.sessions.map upd }

/-- Deliver what follows on NEXT without a gap. -/
def drainWindow (src cls : Nat) : Nat → State → State
  | 0, s => s
  | fuel + 1, s =>
    let c := pairCh s src cls
    match c.window.find? fun a => a.pkt.seq == c.next with
    | none => s
    | some a => match deliverPkt s a with
      | .holds s1 => s1
      | .done s0 =>
        let s1 := notePhase s0 a.pkt
        let c1 := pairCh s1 src cls
        drainWindow src cls fuel
          (setPairCh s1 src cls { c1 with next := c1.next + 1, window := c1.window.filter fun x => x.pkt.seq != c.next })

/-- An ACK newer than the last one received takes its place. -/
def takeAck (s : State) (src cls : Nat) (ack : BitVec 32) : State :=
  let c := pairCh s src cls
  if (ack - c.ack).toNat < 2 ^ 31 then setPairCh s src cls { c with ack := ack } else s

/-- The ACK values of a packet: its own class's, and for ACKS those of the other three (R342, R350). -/
def takeAcks (s : State) (p : Packet) : State :=
  let src := p.src.toNat
  let s1 := takeAck s src p.cls.toNat p.ack
  if p.typ.toNat = tACKS then
    takeAck (takeAck (takeAck s1 src cMIG (BitVec.ofNat 32 (argBits p 0 32))) src cBULK
      (BitVec.ofNat 32 (argBits p 32 32))) src cRESP (BitVec.ofNat 32 (argBits p 64 32))
  else s1

/-- The destination's check of TAG: under a key of the source's session in the packet's phase, which it holds (R348, R356,
R357); SPDM is not encrypted. -/
def tagGood (s : State) (a : Arrival) : Bool :=
  a.pkt.typ.toNat == tSPDM || (a.tagOk && (sessionWith s a.pkt.pkey a.pkt.src.toNat).any fun x => x.phase == a.pkt.kph || x.old.isSome)

/-- The checks of the destination on an arrival: link, pairing, form, key, source, tag (R340, R342, R343, R348). -/
def arrivalOk (s : State) (a : Arrival) : Bool :=
  s.fabric.state == stRun && !s.dev.trip && a.crcOk && tagGood s a && pairingOk s a && formOk a
    && a.pkt.dst.toNat == myDev s
    && (match partOfKey s a.pkt.pkey with
        | none => false
        | some n => if a.pkt.typ.toNat = tSPDM then inBlock s a.pkt.src.toNat
          else (rankOf s n a.pkt.src.toNat).isSome)

/-- An accepted arrival: credit and ACKs taken, the receipt noted; delivered, held, or a copy of what was delivered
(R349). -/
def acceptArrival (s : State) (a : Arrival) : State :=
  let src := a.pkt.src.toNat
  let cls := a.pkt.cls.toNat
  let s1 := takeAcks (noteReceipt (takeCredit s a) a.plane true) a.pkt
  let c := pairCh s1 src cls
  let d := (a.pkt.seq - c.next).toNat
  if 512 ≤ d then s1
  else
    let w := if c.window.any fun x => x.pkt.seq == a.pkt.seq then c.window else c.window ++ [a]
    drainWindow src cls (w.length + 1) (setPairCh s1 src cls { c with window := w })

/-- A fabric arrival of one type. -/
def arriveAs (typ : Nat) (a : Arrival) (s : State) : Out :=
  when (!a.own && a.pkt.typ.toNat == typ && arrivalOk s a) "no such packet is accepted here" (acceptArrival s a)

/-! ### Own-rank traffic, over the die links (R263, R275, R354) -/

/-- Bytes of a send job to the own rank that its receive job has. -/
def ownSent (s : State) (quire dev num n : Nat) : Nat :=
  match recvOf s quire dev num n with
  | some j => j.landed + (j.inbox.map (·.2.length)).sum
  | none => 0

/-- A packet as own-rank traffic carries it: only the fields that its action reads. -/
def ownPacket (s : State) (n typ arg : Nat) (payload : List Byte) : Packet :=
  let me : BitVec 10 := BitVec.ofNat 10 (myDev s)
  { pkey := (pkeyOf s n).getD 0, src := me, dst := me, via := me, cls := BitVec.ofNat 2 ((classOf typ).getD 0), gen := false,
    hlim := 1, hop := false, credit := 0, seq := 0, ack := 0, kph := false, typ := BitVec.ofNat 4 typ, nonce := 0,
    arg := BitVec.ofNat 96 arg, tag := 0, payload := payload }

/-- A packet of the own rank as it arrives; `sl` is the slice that a COPYR sends. -/
def ownArrival (p : Packet) (sl : Option Slice) : Arrival :=
  ⟨p, 0, p.src, true, true, true, true, sl.elim 0 fun x => x.fmt.code, sl.elim 0 Slice.count⟩

/-- The next packet of a send job to the own rank, with its partition, rank and source slice. -/
def ownData (s : State) (j : Job) : Option (Packet × Nat × Nat × Slice) :=
  match j.kind, j.by_.part with
  | .copyrSend dev rank quire tile num total sent acked, some n =>
    let off := ownSent s quire dev num n
    if dev ≠ myDev s ∨ j.faulted ∨ acked ∨ sent ≤ off ∨ ownCut s j then none
    else
      let data := (((linearBytes j.src).drop off).take (min chunkBytes (sent - off))).map fun a => (gotByte j a).getD 0
      some (ownPacket s n tBDATA (bdataArg quire tile off total num) data, n, rank, j.src)
  | _, _ => none

/-- A send job to the own rank that has bytes still to travel. -/
def ownOwes (s : State) (j : Job) : Bool :=
  match j.kind, j.by_.part with
  | .copyrSend dev _ quire _ num total _ _, some n => dev == myDev s && !j.faulted && ownSent s quire dev num n < total
  | _, _ => false

/-- Every own-rank BDATA that can travel now: a job's, behind those of every earlier COPYR to the own rank (R265). -/
def ownDatas (s : State) : List (Packet × Nat × Nat × Slice) :=
  let jobs := s.quires.flatMap fun e => e.2.jobs
  (jobs.filter fun j => !jobs.any fun k => k.id < j.id && ownOwes s k).filterMap (ownData s)

/-- The MIGRATE of a context that moves within its own rank. -/
def ownMigration (s : State) (pos : Nat) : Option (Packet × Nat) :=
  let c := s.ctx pos
  match c.wait, partOf s pos with
  | .migrate m, some n =>
    if c.run = .running ∧ m.dst = myDev s then some (ownPacket s n tMIGRATE 0 (migPayload s pos m), n) else none
  | _, _ => none

/-- The RACC of a context whose remote access has its home on its own rank. -/
def ownRacc (s : State) (pos : Nat) : Option (Packet × Nat) :=
  let c := s.ctx pos
  match c.port, partOf s pos with
  | some p, some n => match p.remote, p.sent, p.evs with
    | some dev, true, ev :: _ =>
      if c.run = .running ∧ c.wait = .port ∧ dev = myDev s then
        some (ownPacket s n tRACC (slotTag s pos) (raccPayload p ev), n)
      else none
    | _, _, _ => none
  | _, _ => none

/-! ### The events -/

/-- A request received earlier that is next to deliver and had to wait at its home. -/
def waitsAtHead (s : State) (a : Arrival) : Bool :=
  let c := pairCh s a.pkt.src.toNat a.pkt.cls.toNat
  a.pkt.typ.toNat == tRACC && a.pkt.seq == c.next && c.window.contains a

def execBdata (a : Arrival) (s : State) : Out :=
  if a.own then match (ownDatas s).find? fun e => ownArrival e.1 (some e.2.2.2) == a with
    | some (p, n, rank, _) => .next (actBdata s p n rank a.fmt a.count)
    | none => .fault (.notEnabled "no own-rank COPYR has this packet next")
  else arriveAs tBDATA a s

def execBend (a : Arrival) (s : State) : Out := arriveAs tBEND a s

def execMigrate (a : Arrival) (s : State) : Out :=
  if a.own then match (s.ctxs.filterMap fun e => ownMigration s e.1).find? fun e => ownArrival e.1 none == a with
    | some (p, n) => .next (actMigrate s p n true)
    | none => .fault (.notEnabled "no context moves so within its rank")
  else arriveAs tMIGRATE a s

def execAccept (a : Arrival) (s : State) : Out := arriveAs tACCEPT a s
def execRefuse (a : Arrival) (s : State) : Out := arriveAs tREFUSE a s

/-- A move of a held delivery, where there is one. -/
def heldMove (s : State) : Delivery → Out
  | .done t => .next t
  | .holds t => when (t != s) "the access must wait at its home" t

def execRacc (a : Arrival) (s : State) : Out :=
  if a.own then match (s.ctxs.filterMap fun e => (ownRacc s e.1).map fun x => (e.1, x)).find? fun e => ownArrival e.2.1 none == a with
    | some (pos, p, n) => heldMove s (actRacc s p n (some pos))
    | none => .fault (.notEnabled "no context asks its own rank so")
  else if waitsAtHead s a then heldMove s (.holds (drainWindow a.pkt.src.toNat a.pkt.cls.toNat 512 s))
  else arriveAs tRACC a s

def execRreply (a : Arrival) (s : State) : Out := arriveAs tRREPLY a s
def execAcks (a : Arrival) (s : State) : Out := arriveAs tACKS a s
def execSpdm (a : Arrival) (s : State) : Out := arriveAs tSPDM a s

/-! ### Discards (R340, R342, R343, R347 to R349) -/

/-- Whether an arrival fails the check that a reason names. -/
def failsFor (s : State) (a : Arrival) : DiscardWhy → Bool
  | .badCrc => !a.crcOk
  | .badTag => a.pkt.dst.toNat == myDev s && !tagGood s a
  | .badType => !formOk a
  | .badPairing => !pairingOk s a
  | .unknownKey => (partOfKey s a.pkt.pkey).isNone
  | .unknownSrc => a.pkt.dst.toNat == myDev s && a.pkt.typ.toNat != tSPDM
      && (match partOfKey s a.pkt.pkey with
          | some n => (rankOf s n a.pkt.src.toNat).isNone
          | none => false)
  | .relayRefuses => a.pkt.dst.toNat != myDev s && !relayTakes s a.pkt
  | .outOfWindow => arrivalOk s a && 512 ≤ (a.pkt.seq - (pairCh s a.pkt.src.toNat a.pkt.cls.toNat).next).toNat

/-- DISCARDED_PACKET: counted, with no receipt; a copy of a packet already delivered is given one and is not counted. -/
def execDiscardedPacket (a : Arrival) (why : DiscardWhy) (s : State) : Out :=
  when (s.fabric.state == stRun && !a.own && failsFor s a why) "the packet does not fail this check"
    (if why = .outOfWindow then acceptArrival s a else countDiscard s a.plane)

/-! ### Failed pairs (R348) -/

/-- What the source of a dropped packet meets; a relayed one only leaves its cell, for no receipt has freed that. -/
def dropEffect (s : State) (o : OutPkt) : State :=
  if o.relayed then s
  else match o.job, o.pos with
    | some (_, id), _ => match s.quires.findSome? fun e => (e.2.jobs.find? (·.id == id)).map fun j => (e.1, j) with
      | some (q, j) => if j.faulted then s else jobFault s q j (accTrap .link (freeInfo .link id) .none 0)
      | none => s
    | none, some pos =>
      if o.pkt.typ.toNat = tMIGRATE then
        match (tagHolder s (payBytes o.pkt 152 8)).map (·.wait) with
        | some (Wait.migrate m) => refuseMigration s pos m
        | _ => s
      else match (tagHolder s (tagOf o.pkt)).bind (·.port) with
        | some p => match p.remote, p.sent, p.evs with
          | some _, true, ev :: _ => takeTrap s pos (linkTrap ev)
          | _, _, _ => s
        | none => s
    | none, none => s

/-- The position of a packet's source. -/
def sourcePos (s : State) (o : OutPkt) : Nat :=
  match o.job, o.pos with
  | some (_, id), _ => (s.quires.findSome? fun e => (e.2.jobs.find? (·.id == id)).map (·.by_.pos)).getD 0
  | none, some pos => pos
  | none, none => 0

/-- An element put into a list after those of no higher rank. -/
def insertBy {α : Type} (rank : α → Nat) (a : α) : List α → List α
  | [] => [a]
  | b :: l => if rank b ≤ rank a then b :: insertBy rank a l else a :: b :: l

/-- Packets dropped, with the effects on their sources in ascending position, since each may present a record (R329). -/
def dropPackets (s : State) (gone : OutPkt → Bool) : State :=
  let l := (s.fabric.out.filter gone).foldl (fun l o => insertBy (sourcePos s) o l) []
  l.foldl dropEffect (s.setFabric { s.fabric with out := s.fabric.out.filter fun o => !gone o })

/-- PAIR_FAILURE: a packet for the destination has gone without a receipt 16 times. -/
def execPairFailure (dst : BitVec 10) (s : State) : Out :=
  let mine := fun (o : OutPkt) => o.pkt.dst == dst
  when (s.fabric.out.any fun o => mine o && pairBroken o) "no packet for it has been missed 16 times"
    (dropPackets (s.setFabric { s.fabric with failed := s.fabric.failed ++ [dst.toNat] }) mine)

end Sys2Proof.Machine
end

