-- ==== Sys2Proof/Machine/FabricCtl.lean ====
section
/-! DEFINITION. Writes to the fabric register block: the state, the generation, ERR, the rank maps; and the sessions of
the roots of trust (R340, R343, R345, R348, R351, R357, R358, R364, R374). -/
namespace Sys2Proof.Machine

/-! ### FSTATE.ERR -/

/-- ERR is set: sticky, and vector 17 of the physical function fires when it becomes set (R358, R364). -/
def setErr (s : State) : State :=
  if s.fabric.err then s else sendMsi (s.setFabric { s.fabric with err := true }) 0 17

/-- Whether a write reaches the registers of a function: the host's while its link carries requests to the BARs, the
management interface's at any time; after THERM.TRIP none does (R358, R363, R376). -/
def barsOpen (s : State) (w : Writer) (fn : Nat) : Bool := !s.dev.trip && (w == .mgmt || !ideHolds s fn)

/-- A write of a register of a function; one that does not reach it changes nothing. -/
def barWrite (s : State) (w : Writer) (fn : Nat) (t : State) : Out := .next (if barsOpen s w fn then t else s)

def execErrClear (w : Writer) (s : State) : Out := barWrite s w 0 (s.setFabric { s.fabric with err := false })

/-! ### OFF, CONFIG, RUN (R336, R340, R348) -/

/-- Leaving RUN: every packet that the device holds is dropped, with the effect on its source (R348). -/
def leaveRun (s : State) (st : Nat) : State :=
  dropPackets (s.setFabric { s.fabric with state := st, open_ := false, rcpt := [] }) fun _ => true

def execFabricOff (w : Writer) (s : State) : Out :=
  barWrite s w 0 (if s.fabric.state = stRun then leaveRun s stOff else s.setFabric { s.fabric with state := stOff })

/-- CONFIG ends the failure of every pair (R348). -/
def execFabricConfig (w : Writer) (s : State) : Out :=
  barWrite s w 0 (if s.fabric.state = stRun then
      (let s1 := leaveRun s stConfig
       s1.setFabric { s1.fabric with failed := [] })
    else s.setFabric { s.fabric with state := stConfig, failed := [] })

/-- Every key of the calendar lies below 2^BLKLOG (R340). -/
def calendarOk (s : State) : Bool :=
  (List.range 16).all fun p => (List.range 64).all fun u => calKey s p u < 2 ^ blkLog s

/-- Entering RUN: the optical core's current slot is taken up, whose data window this device does not use any more (log 125),
and measurement 4 is taken anew (R336, R374). -/
def enterRun (s : State) : State :=
  let f := s.fresh
  let s1 := f.2.setFabric { f.2.fabric with state := stRun, slot := Config.coreSlot f.1, open_ := false, rcpt := [] }
  s1.setDev { s1.dev with measured := Sparse.set 0 s1.dev.measured 4 (Config.measurement 4 f.1) }

/-- RUN is entered from CONFIG only; from OFF the write is one that the table does not permit (R358). -/
def execFabricRun (w : Writer) (s : State) : Out :=
  barWrite s w 0 (if s.fabric.state = stRun then s
    else if s.fabric.state = stConfig ∧ calendarOk s then enterRun s
    else setErr s)

/-! ### Generations (R345, R351) -/

/-- A plane of an entry's PMASK carries the device's key in some slot. -/
def directOk (s : State) (gen : Bool) (d : Nat) : Bool :=
  planes.any fun p => pmask (rtab s gen d) p && (List.range 64).any fun u => calKey s p u == (myDev s ^^^ d)

/-- No relay choice of an entry names a device outside the block, the destination, or this device. -/
def relaysOk (s : State) (gen : Bool) (d : Nat) : Bool :=
  (List.range 4).all fun n => match relayChoice (rtab s gen d) n with
    | some (via, _) => inBlock s via && via != d && via != myDev s
    | none => true

/-- The table of a generation passes R345's checks at its commit: the direct planes of the block's other devices, and the
relay choices of every entry. -/
def tableOk (s : State) (gen : Bool) : Bool :=
  (List.range 1024).all fun d => (!inBlock s d || d == myDev s || directOk s gen d) && relaysOk s gen d

/-- GENERATION_COMMIT: GENSEL moves if the table passes; else it stays and ERR is set. -/
def execGenerationCommit (w : Writer) (g : Bool) (s : State) : Out :=
  barWrite s w 0 (if g = s.fabric.gensel then s
    else if tableOk s g then s.setFabric { s.fabric with gensel := g }
    else setErr s)

/-- OLDCNT: packets of the other generation that the device holds unreceipted (R351). -/
def oldCnt (s : State) : Nat := (s.fabric.out.filter fun o => o.pkt.gen != s.fabric.gensel).length

/-! ### Rank maps (R343, R357) -/

/-- A session is established with a device for a partition's key. The device itself needs none. -/
def hasKey (s : State) (n dev : Nat) : Bool :=
  dev == myDev s || (match pkeyOf s n with
    | some k => (sessionWith s k dev).isSome
    | none => false)

/-- The refusals of R343: a device named twice, outside the block, or without a key. -/
def rankOkFor (s : State) (n k : Nat) (v : BitVec 16) : Bool :=
  let dev := bits v.toNat 0 10
  !v.getLsbD 15
  || (inBlock s dev && hasKey s n dev && (List.range 1024).all fun r => r == k || rankDev s n r != some dev)

/-- RANK_MAP_WRITE: in CONFIG, or while the partition holds no quire (R358). Reserved bits stay 0 (R5). -/
def execRankMapWrite (w : Writer) (n k : Nat) (v : BitVec 16) (s : State) : Out :=
  barWrite s w 0 (if n < 128 ∧ k < 1024 then
      (if (s.fabric.state = stConfig ∨ (quiresOf s n).isEmpty) ∧ rankOkFor s n k v then
        s.setFabric { s.fabric with rmap := Sparse.set 0 s.fabric.rmap (1024 * n + k) (v &&& 0x83FF) }
       else setErr s)
    else s)

/-! ### Sessions (R357) -/

/-- An SPDM message to the other root of trust, under the partition's key. -/
def sendSpdm (s : State) (n dev : Nat) : State :=
  let f := s.fresh
  enqueue f.2 n dev tSPDM 0 ((Config.spdmMessage f.1).take 4096) none none

/-- KEY_EXCHANGE: a session for a partition key of this device with another device of the block, while in RUN; an older
one with that device gives way. Its messages travel as SPDM packets, of which this device's are one here (log 125). -/
def execKeyExchange (pkey : BitVec 16) (dev : BitVec 10) (s : State) : Out :=
  let other := s.fabric.sessions.filter fun x => !(x.pkey == pkey && x.dev == dev)
  let no := s.fabric.made
  match partOfKey s pkey with
  | some n => when (s.fabric.state == stRun && inBlock s dev.toNat && dev.toNat != myDev s && reachable s (some n) dev.toNat)
      "no session can be run with this device"
      (let s1 := sendSpdm s n dev.toNat
       s1.setFabric { s1.fabric with sessions := other ++ [⟨pkey, dev, 2 * no, 2 * no + 1, false, none⟩] })
  | none => .fault (.notEnabled "no partition has this key")

/-- KEY_UPDATE: the next key pair; this device sends in the new phase from now on, and holds both phases as a receiver until
every class has delivered a packet of the new one. -/
def execKeyUpdate (pkey : BitVec 16) (dev : BitVec 10) (s : State) : Out :=
  let no := s.fabric.made
  let next := fun (x : Session) => { x with sendKey := 2 * no, recvKey := 2 * no + 1, phase := !x.phase, old := some [] }
  match partOfKey s pkey, sessionWith s pkey dev.toNat with
  | some n, some _ => when (s.fabric.state == stRun && reachable s (some n) dev.toNat) "the device cannot be reached"
      (let s1 := sendSpdm s n dev.toNat
       s1.setFabric { s1.fabric with
         sessions := s1.fabric.sessions.map fun x => if x.pkey = pkey ∧ x.dev = dev then next x else x })
  | _, _ => .fault (.notEnabled "no such session")

end Sys2Proof.Machine
end

