-- ==== Sys2Proof/Machine/Scalar.lean ====
section
/-! DEFINITION. Integer, move, compare, view and scalar floating instructions (R111 to R131). -/
namespace Sys2Proof.Machine

/-- An instruction that only writes one register. -/
def writes (s : State) (c : Ctx) (rd : Reg) (v : Word) (len : Nat) : Eff := ok (retire s (c.setReg rd v) len)

/-- An instruction that only writes one predicate. -/
def writesPred (s : State) (c : Ctx) (pd : Pred) (v : Bool) (len : Nat) : Eff := ok (retire s (c.setPred pd v) len)

/-! ### Two-source integer instructions (R115 to R117) -/

/-- The result of R115 from its exact integer: saturated under SF, then Ext. -/
def intResult (o : IntBin) (r : Int) : Word := extOf o.ty (if o.sf then clampTo (ityFmt o.ty) r else r)

/-- A two-source instruction whose exact result is `f` of the operands x and y. -/
def intBin (f : Int → Int → Int) (g : Guard) (o : IntBin) (s : State) : Out :=
  guarded g false (srcBytes o.b) s fun c =>
    writes s c o.rd (intResult o (f (intOf o.ty (c.reg o.ra)) (intOf o.ty (srcWord c o.b)))) (srcBytes o.b)

/-- DIV and REM: y = 0 traps (R117). -/
def divBin (f : Int → Int → Int) (g : Guard) (o : IntBin) (s : State) : Out :=
  guarded g false (srcBytes o.b) s fun c =>
    if intOf o.ty (srcWord c o.b) = 0 then bad s (trapOf .divide 0)
    else writes s c o.rd (intResult o (f (intOf o.ty (c.reg o.ra)) (intOf o.ty (srcWord c o.b)))) (srcBytes o.b)

/-- A bitwise or shift instruction: `f` of the width, the unsigned first source and the second. -/
def bitBin (f : Nat → Nat → Nat → Int) (g : Guard) (o : IntBin) (s : State) : Out :=
  guarded g false (srcBytes o.b) s fun c =>
    writes s c o.rd (extOf o.ty (f (fmtBits (ityFmt o.ty)) (lowOf o.ty (c.reg o.ra)) (lowOf o.ty (srcWord c o.b))))
      (srcBytes o.b)

def execAdd (g : Guard) (o : IntBin) (s : State) : Out := intBin (· + ·) g o s
def execSub (g : Guard) (o : IntBin) (s : State) : Out := intBin (· - ·) g o s
def execMul (g : Guard) (o : IntBin) (s : State) : Out := intBin (· * ·) g o s

/-- MULH: floor(x × y / 2^w). -/
def execMulh (g : Guard) (o : IntBin) (s : State) : Out :=
  intBin (fun x y => (x * y).fdiv (2 ^ fmtBits (ityFmt o.ty))) g o s

/-- DIV truncates toward zero. -/
def execDiv (g : Guard) (o : IntBin) (s : State) : Out := divBin Int.tdiv g o s

/-- REM: x − y × DIV(x, y). -/
def execRem (g : Guard) (o : IntBin) (s : State) : Out := divBin (fun x y => x - y * Int.tdiv x y) g o s

def execAnd (g : Guard) (o : IntBin) (s : State) : Out := bitBin (fun _ x y => (x &&& y : Nat)) g o s
def execOr (g : Guard) (o : IntBin) (s : State) : Out := bitBin (fun _ x y => (x ||| y : Nat)) g o s
def execXor (g : Guard) (o : IntBin) (s : State) : Out := bitBin (fun _ x y => (x ^^^ y : Nat)) g o s
def execAndn (g : Guard) (o : IntBin) (s : State) : Out :=
  bitBin (fun w x y => (x &&& (2 ^ w - 1 - y) : Nat)) g o s
def execShl (g : Guard) (o : IntBin) (s : State) : Out := bitBin (fun w x y => (x * 2 ^ (y % w) : Nat)) g o s
def execShr (g : Guard) (o : IntBin) (s : State) : Out := bitBin (fun w x y => (x / 2 ^ (y % w) : Nat)) g o s

/-- SHA reads its first source as signed whatever the type's signedness. -/
def execSha (g : Guard) (o : IntBin) (s : State) : Out :=
  bitBin (fun w x y => (if 2 ^ (w - 1) ≤ x then (x : Int) - 2 ^ w else x).fdiv (2 ^ (y % w))) g o s

/-- ROT: left by n within w bits. -/
def execRot (g : Guard) (o : IntBin) (s : State) : Out :=
  bitBin (fun w x y => (x * 2 ^ (y % w) % 2 ^ w + x / 2 ^ (w - y % w) : Nat)) g o s

def execMin (g : Guard) (o : IntBin) (s : State) : Out := intBin min g o s
def execMax (g : Guard) (o : IntBin) (s : State) : Out := intBin max g o s

/-! ### One-source integer instructions and moves (R118 to R120) -/

/-- A count of R118, zero-extended. -/
def countUn (f : Nat → Nat → Nat) (g : Guard) (o : IntUn) (s : State) : Out :=
  guarded g false 8 s fun c =>
    writes s c o.rd (BitVec.ofNat 64 (f (fmtBits (ityFmt o.ty)) (lowOf o.ty (c.reg o.ra)))) 8

def leadingZeros (w x : Nat) : Nat := if x = 0 then w else w - 1 - Nat.log2 x

/-- Zero bits below the lowest one, among `w`. -/
def trailingZeros : Nat → Nat → Nat
  | 0, _ => 0
  | w + 1, x => if x % 2 = 1 then 0 else 1 + trailingZeros w (x / 2)

def execClz (g : Guard) (o : IntUn) (s : State) : Out := countUn leadingZeros g o s
def execCtz (g : Guard) (o : IntUn) (s : State) : Out := countUn trailingZeros g o s
def execPopc (g : Guard) (o : IntUn) (s : State) : Out := countUn (fun w x => popCount x w) g o s

/-- R119: the field limits of BFX and BFI. -/
def fieldOk (pos : BitVec 6) (len : BitVec 7) : Bool :=
  len.toNat != 0 && len.toNat ≤ 64 && pos.toNat + len.toNat ≤ 64

def execBfx (g : Guard) (ty : BfxTy) (rd ra : Reg) (pos : BitVec 6) (len : BitVec 7) (s : State) : Out :=
  guarded g false 8 s fun c =>
    if fieldOk pos len then
      let x := bits (c.reg ra).toNat pos.toNat len.toNat
      let neg := ty != .n64 && bits x (len.toNat - 1) 1 == 1
      writes s c rd (BitVec.ofInt 64 (if neg then (x : Int) - 2 ^ len.toNat else x)) 8
    else bad s (operand len.toNat)

def execBfi (g : Guard) (rd ra : Reg) (pos : BitVec 6) (len : BitVec 7) (s : State) : Out :=
  guarded g false 8 s fun c =>
    if fieldOk pos len then writes s c rd (putBits (c.reg rd) pos.toNat len.toNat (c.reg ra).toNat) 8
    else bad s (operand len.toNat)

def extWidth : ExtTy → Nat
  | .s8 | .n8 => 8
  | .s16 | .n16 => 16
  | .s32 | .n32 => 32

def execSext (g : Guard) (ty : ExtTy) (rd ra : Reg) (s : State) : Out :=
  guarded g false 8 s fun c => writes s c rd (((c.reg ra).setWidth (extWidth ty)).signExtend 64) 8

def execZext (g : Guard) (ty : ExtTy) (rd ra : Reg) (s : State) : Out :=
  guarded g false 8 s fun c => writes s c rd (((c.reg ra).setWidth (extWidth ty)).setWidth 64) 8

def execMov (g : Guard) (rd ra : Reg) (s : State) : Out := guarded g false 8 s fun c => writes s c rd (c.reg ra) 8

def execMovi (g : Guard) (rd : Reg) (i : Imm) (s : State) : Out :=
  guarded g false (immBytes i) s fun c => writes s c rd (immWord i) (immBytes i)

/-! ### Compare and select (R121, R122) -/

def icondHolds (k : ICond) (x y : Int) (xu yu : Nat) : Bool :=
  match k with
  | .eq => x == y | .ne => x != y | .lt => x < y | .le => x ≤ y | .gt => x > y | .ge => y ≤ x
  | .tst => xu &&& yu != 0

def execCmp (g : Guard) (k : ICond) (ty : ITy) (pd : Pred) (ra : Reg) (b : Src) (s : State) : Out :=
  guarded g false (srcBytes b) s fun c =>
    let x := c.reg ra
    let y := srcWord c b
    writesPred s c pd (icondHolds k (intOf ty x) (intOf ty y) (lowOf ty x) (lowOf ty y)) (srcBytes b)

def execSel (g : Guard) (rd : Reg) (pn : Pred) (ra rb : Reg) (s : State) : Out :=
  guarded g false 8 s fun c => writes s c rd (if predOf c.st pn then c.reg ra else c.reg rb) 8

/-! ### Addresses and views (R123 to R126) -/

def execLea (g : Guard) (rd : Reg) (a : Addr) (s : State) : Out :=
  guarded g false (addrBytes a) s fun c => writes s c rd (eaOf c a) (addrBytes a)

def execVqual (g : Guard) (rd ra : Reg) (die : Bool) (s : State) : Out :=
  guarded g false 8 s fun c =>
    let x := c.reg ra
    let v := if die then 0x40 + dieOf s.cur else 0x80 + quireOf s.cur
    writes s c rd (if bits x.toNat 56 8 = 0 then putBits x 56 8 v else x) 8

def execVset (g : Guard) (rd ra : Reg) (v : VwSrc) (s : State) : Out :=
  guarded g false 8 s fun c =>
    let b := match v with
      | .reg r => bits (c.reg r).toNat 0 8
      | .imm i => i.toNat
    if viewReserved b then bad s (operand b) else writes s c rd (putBits (c.reg ra) 56 8 b) 8

def execVget (g : Guard) (rd ra : Reg) (s : State) : Out :=
  guarded g false 8 s fun c => writes s c rd (BitVec.ofNat 64 (bits (c.reg ra).toNat 56 8)) 8

def execVclr (g : Guard) (rd ra : Reg) (s : State) : Out :=
  guarded g false 8 s fun c => writes s c rd (putBits (c.reg ra) 56 8 0) 8

/-! ### Scalar floating point (R127 to R131) -/

/-- A scalar instruction's result and flags; a format that scalars do not accept raises OPERAND (R91). -/
def fltOp (ty : Fmt) (rd : Reg) (g : Guard) (s : State) (f : Ctx → Exact × Flags) : Out :=
  guarded g false 8 s fun c =>
    if scalarFloat ty then
      let v := f c
      let r := roundTo ty v.1 (ctlOf c)
      writes s { c with st := orFlags c.st (v.2 ||| r.2) } rd (BitVec.ofNat 64 r.1) 8
    else bad s (operand ty.code)

def exactly (r : Val × Flags) : Exact × Flags := (.of r.1, r.2)

def execFadd (g : Guard) (o : FltBin) (s : State) : Out :=
  fltOp o.ty o.rd g s fun c => exactly (addVal (stRM c.st) (fread c o.ty o.ra) (fread c o.ty o.rb))

def execFsub (g : Guard) (o : FltBin) (s : State) : Out :=
  fltOp o.ty o.rd g s fun c => exactly (addVal (stRM c.st) (fread c o.ty o.ra) (negVal (fread c o.ty o.rb)))

def execFmul (g : Guard) (o : FltBin) (s : State) : Out :=
  fltOp o.ty o.rd g s fun c => exactly (mulVal (fread c o.ty o.ra) (fread c o.ty o.rb))

/-- a × b + c, exact (R127). -/
def fmaVal (mode : Nat) (a b c : Val) : Val × Flags :=
  let p := mulVal a b
  let r := addVal mode p.1 c
  (r.1, if c = .nan then 0 else p.2 ||| r.2)

def execFma (g : Guard) (ty : Fmt) (rd ra rb rc : Reg) (s : State) : Out :=
  fltOp ty rd g s fun c => exactly (fmaVal (stRM c.st) (fread c ty ra) (fread c ty rb) (fread c ty rc))

def execFdiv (g : Guard) (o : FltBin) (s : State) : Out :=
  fltOp o.ty o.rd g s fun c => divVal (fread c o.ty o.ra) (fread c o.ty o.rb)

def execFsqrt (g : Guard) (ty : Fmt) (rd ra : Reg) (s : State) : Out :=
  fltOp ty rd g s fun c => sqrtVal (fread c ty ra)

def execFmin (g : Guard) (o : FltBin) (s : State) : Out :=
  fltOp o.ty o.rd g s fun c => (.of (minVal (fread c o.ty o.ra) (fread c o.ty o.rb)), 0)

def execFmax (g : Guard) (o : FltBin) (s : State) : Out :=
  fltOp o.ty o.rd g s fun c => (.of (maxVal (fread c o.ty o.ra) (fread c o.ty o.rb)), 0)

/-- R129: an ordering condition on a NaN sets NV. -/
def fcmpFlags (k : FCond) (o : Option Int) : Flags :=
  match k, o with
  | .lt, none | .le, none | .gt, none | .ge, none => flNV
  | _, _ => 0

def execFcmp (g : Guard) (k : FCond) (ty : Fmt) (pd : Pred) (ra rb : Reg) (s : State) : Out :=
  guarded g false 8 s fun c =>
    if scalarFloat ty then
      let o := cmpVal (fread c ty ra) (fread c ty rb)
      writesPred s { c with st := orFlags c.st (fcmpFlags k o) } pd (condHolds k o) 8
    else bad s (operand ty.code)

/-- R130: the formats FCVT accepts on either side. -/
def fcvtFmt (f : Fmt) : Bool := fmtFloat f || fmtInt f

def execFcvt (g : Guard) (dst src : Fmt) (sf : Bool) (rd ra : Reg) (s : State) : Out :=
  guarded g false 8 s fun c =>
    if fcvtFmt dst && fcvtFmt src then
      let x := elemOf src (stDAZ c.st) (c.reg ra).toNat
      let r := convElem src dst x (stRM c.st) sf (stFTZ c.st) (srBits c.seed (widRead c) 0)
      let v := if fmtInt dst then BitVec.ofInt 64 (intVal dst r.1) else BitVec.ofNat 64 r.1
      writes s { c with st := orFlags c.st r.2 } rd v 8
    else bad s (operand (if fcvtFmt dst then src.code else dst.code))

/-- The class bit of a raw encoding (R131). -/
def classBit (f : Fmt) (w : Nat) : Nat :=
  match fparam f, floatVal f w with
  | some p, .fin s n _ =>
    if n = 0 then (if s then 3 else 4)
    else if n < 2 ^ p.t then (if s then 2 else 5)
    else (if s then 1 else 6)
  | _, .inf s => if s then 0 else 7
  | _, _ => 8

def execFclass (g : Guard) (ty : Fmt) (rd ra : Reg) (s : State) : Out :=
  guarded g false 8 s fun c =>
    if scalarFloat ty then writes s c rd (BitVec.ofNat 64 (2 ^ classBit ty (c.reg ra).toNat)) 8
    else bad s (operand ty.code)

end Sys2Proof.Machine
end

