-- ==== Sys2Proof/Machine/Vector.lean ====
section
/-! DEFINITION. Vector instructions: their operands, formats and shapes, the vector unit, and what each computes when
its operation completes (R210 to R228). -/
namespace Sys2Proof.Machine

/-! ### The prefix (R73, R79, R212, R213) -/

/-- A pending payload. -/
def pendingPfx (c : Ctx) : Option (BitVec 16) := if stPP c.st then some (stPFX c.st) else none

def pfxField (p : Option (BitVec 16)) (lo n : Nat) : Nat :=
  match p with
  | some v => bits v.toNat lo n
  | none => 0

def pfxFA (p : Option (BitVec 16)) : Nat := pfxField p 0 5
def pfxFB (p : Option (BitVec 16)) : Nat := pfxField p 5 5
def pfxPSC (p : Option (BitVec 16)) : Bool := pfxField p 10 1 == 1
def pfxSF (p : Option (BitVec 16)) : Bool := pfxField p 12 1 == 1

/-- The rounding mode: RMO in place of ST.RM when it is not 0. A reserved RMO of 6 or 7, which only an answer's ST can put
into PFX (R278), rounds in a free mode: the manual gives it none (log 30). -/
def rmWith (p : Option (BitVec 16)) (c : Ctx) : Nat :=
  let r := pfxField p 13 3
  if r = 0 then stRM c.st else if r ≤ 5 then r - 1 else Config.reservedRm r % 5

/-- A slice read under a replacement format of the same element size (R212). A block-scaled format replaces a block-scaled one
only: R233 says so for the matrix unit, and the same is taken for a vector source (log 128). -/
def refmt (code : Nat) (sl : Slice) : Option Slice :=
  if code = 0 then some sl
  else match fmtOf code with
    | some f => if fmtBits f = fmtBits sl.fmt ∧ fmtBlock f = fmtBlock sl.fmt then some { sl with fmt := f } else none
    | none => none

/-! ### Issue (R17, R24, R210, R215) -/

/-- The operands of a vector instruction. `sfOk` tells a major that shows SF. -/
structure VIn where
  d : Option Handle
  a : Option Handle
  b : Option Handle
  c : Option Handle
  rx : Option Reg
  sf : Bool
  sfOk : Bool
  len : Nat

/-- A tile operand's slice under its format; an absent operand stays absent. -/
def vecSlice (s : State) (c : Ctx) (t : Option Handle) (code : Nat) : Option (Option Slice) :=
  match t with
  | none => some none
  | some h => ((tileSlice s (quireOf s.cur) h (widRead c) c.levels true).bind (refmt code)).map some

def sliceWide (sl : Option Slice) : Nat :=
  match sl with
  | some x => fmtBits x.fmt
  | none => 0

/-- The operation with everything read at issue, before its checks; none for an OPERAND case of R210, R212 or R213. -/
def vecRead (s : State) (c : Ctx) (i : Instr) (o : VIn) : Option VecOp :=
  let p := pendingPfx c
  match vecSlice s c o.d 0, vecSlice s c o.a (pfxFA p), vecSlice s c o.b (pfxFB p), vecSlice s c o.c 0 with
  | some d, some a, some b, some x =>
    if pfxPSC p || (pfxSF p && !o.sfOk) then none
    else some { id := s.front.nextId, by_ := issuerOf s c, i := i, len := o.len, d := d, a := a, b := b, c := x,
                rx := match o.rx with
                  | some r => c.reg r
                  | none => 0,
                rm := rmWith p c, sf := o.sf || pfxSF p, ftz := stFTZ c.st, daz := stDAZ c.st, seed := c.seed,
                wid := widRead c, pfx := p, elems := 0,
                wide := max (max (sliceWide d) (sliceWide a)) (max (sliceWide b) (sliceWide x)), start := 0,
                cycles := 0, got := [], out := none }
  | _, _, _, _ => none

/-- Lanes for the widest element (R215). -/
def lanes (wide : Nat) : Nat := if wide ≤ 8 then 256 else if wide ≤ 16 then 128 else if wide ≤ 32 then 64 else 32

/-- n of R215. -/
def vecCycles (k elems wide : Nat) : Nat := max 1 (k * ((elems + lanes wide - 1) / lanes wide))

/-- The operation enters the core's vector unit for `n` cycles and the context leaves the rotation; PP is cleared (R79,
R215). -/
def vecStart (s : State) (c : Ctx) (v : VecOp) (n elems : Nat) : State :=
  let core := coreOf s.cur
  let x := s.core core
  let start := max s.cyc x.vecFree
  let s1 := s.setFront { s.front with nextId := s.front.nextId + 1 }
  let s2 := s1.setCore core { s1.core core with
    vec := x.vec ++ [{ v with elems := elems, start := start, cycles := n }], vecFree := start + n }
  s2.setCtx s.cur { c with st := clearPP c.st, wait := .vector v.id }

def tilesOf (o : VIn) : List Handle := o.d.toList ++ o.a.toList ++ o.b.toList ++ o.c.toList

/-- A vector instruction's issue: R17, then its slices and formats, then its own checks `good`, then the unit. `count`
tells E of R215. -/
def vecIssue (g : Guard) (i : Instr) (o : VIn) (k : Nat) (good : VecOp → Bool) (count : VecOp → Nat) (s : State) : Out :=
  guarded g true o.len s fun c =>
    withTiles s c (tilesOf o)
      (match vecRead s c i o with
       | some v => if good v then ok (vecStart s c v (vecCycles k (count v) v.wide) (count v)) else bad s (operand v.wide)
       | none => bad s (operand 0))

/-! ### Formats and shapes (R211, R212, R214) -/

/-- An integer type that arithmetic accepts: 8 to 64 bits (R212). -/
def vecInt (f : Fmt) : Bool := fmtInt f && 8 ≤ fmtBits f

def extOfOp (sl : Option Slice) : List Nat :=
  match sl with
  | some x => x.ext
  | none => [1, 1, 1, 1, 1]

/-- A source extent on every axis equal to the destination's or 1 (R211); an absent operand is a scalar. -/
def broadcasts (d src : Option Slice) : Bool :=
  axes.all fun k => (extOfOp src).getD k 1 == (extOfOp d).getD k 1 || (extOfOp src).getD k 1 == 1

def sameExt (x y : Option Slice) : Bool := extOfOp x == extOfOp y

def fmtIs (test : Fmt → Bool) (sl : Option Slice) : Bool :=
  match sl with
  | some x => test x.fmt
  | none => true

def sameFmt (x y : Option Slice) : Bool :=
  match x, y with
  | some a, some b => a.fmt == b.fmt
  | _, _ => true

def countOf (sl : Option Slice) : Nat :=
  match sl with
  | some x => Slice.count x
  | none => 1

def destCount (v : VecOp) : Nat := countOf v.d
def srcCount (v : VecOp) : Nat := countOf v.a

def shapesOk (v : VecOp) : Bool := broadcasts v.d v.a && broadcasts v.d v.b && broadcasts v.d v.c

def isFloating (v : VecOp) : Bool := v.d.any fun d => scalarFloat d.fmt

/-- The arithmetic group: all floating without SF, or, where the entry allows it, all integer (R212, R213). -/
def arithOk (intOk : Bool) (v : VecOp) : Bool :=
  shapesOk v
  && (if isFloating v then fmtIs fmtFloat v.a && fmtIs fmtFloat v.b && fmtIs fmtFloat v.c && !v.sf
      else intOk && fmtIs vecInt v.d && fmtIs vecInt v.a && fmtIs vecInt v.b && fmtIs vecInt v.c)

def vin1 (o : VecUn) (sfOk : Bool) : VIn := ⟨some o.td, some o.ta, none, none, none, o.sf, sfOk, 8⟩

def tsTile : TSrc → Option Handle
  | .tile t => some t
  | .reg _ => none

def tsReg : TSrc → Option Reg
  | .tile _ => none
  | .reg r => some r

def vin2 (o : VecBin) : VIn := ⟨some o.td, some o.ta, tsTile o.b, none, tsReg o.b, o.sf, true, 8⟩

/-! ### The instructions at issue -/

def execVadd (g : Guard) (o : VecBin) (s : State) : Out := vecIssue g (.vadd g o) (vin2 o) 1 (arithOk true) destCount s
def execVsub (g : Guard) (o : VecBin) (s : State) : Out := vecIssue g (.vsub g o) (vin2 o) 1 (arithOk true) destCount s
def execVmul (g : Guard) (o : VecBin) (s : State) : Out := vecIssue g (.vmul g o) (vin2 o) 1 (arithOk true) destCount s
def execVdiv (g : Guard) (o : VecBin) (s : State) : Out := vecIssue g (.vdiv g o) (vin2 o) 4 (arithOk false) destCount s
def execVmin (g : Guard) (o : VecBin) (s : State) : Out := vecIssue g (.vmin g o) (vin2 o) 1 (arithOk true) destCount s
def execVmax (g : Guard) (o : VecBin) (s : State) : Out := vecIssue g (.vmax g o) (vin2 o) 1 (arithOk true) destCount s

def execVfma (g : Guard) (td ta : Handle) (bc : FmaSrc) (s : State) : Out :=
  let o : VIn := match bc with
    | .tt tb tc => ⟨some td, some ta, some tb, some tc, none, false, false, 8⟩
    | .rt rx tc => ⟨some td, some ta, none, some tc, some rx, false, false, 8⟩
    | .tr tb rx => ⟨some td, some ta, some tb, none, some rx, false, false, 8⟩
  vecIssue g (.vfma g td ta bc) o 1 (arithOk false) destCount s

def execVsqrt (g : Guard) (o : VecUn) (s : State) : Out :=
  vecIssue g (.vsqrt g o) (vin1 o false) 4 (arithOk false) destCount s
def execVrsqrt (g : Guard) (o : VecUn) (s : State) : Out :=
  vecIssue g (.vrsqrt g o) (vin1 o false) 4 (arithOk false) destCount s
def execVexp2 (g : Guard) (o : VecUn) (s : State) : Out :=
  vecIssue g (.vexp2 g o) (vin1 o false) 4 (arithOk false) destCount s
def execVlog2 (g : Guard) (o : VecUn) (s : State) : Out :=
  vecIssue g (.vlog2 g o) (vin1 o false) 4 (arithOk false) destCount s
def execVabs (g : Guard) (o : VecUn) (s : State) : Out :=
  vecIssue g (.vabs g o) (vin1 o true) 1 (arithOk true) destCount s
def execVneg (g : Guard) (o : VecUn) (s : State) : Out :=
  vecIssue g (.vneg g o) (vin1 o true) 1 (arithOk true) destCount s

/-- VCMP (R218): an integer destination, both sources floating or both integer, no .un on integers. -/
def cmpOk (k : FCond) (v : VecOp) : Bool :=
  shapesOk v && fmtIs fmtInt v.d
    && ((fmtIs fmtFloat v.a && fmtIs fmtFloat v.b) || (fmtIs vecInt v.a && fmtIs vecInt v.b && k != .un))

def execVcmp (g : Guard) (c : FCond) (td ta : Handle) (b : TSrc) (s : State) : Out :=
  vecIssue g (.vcmp g c td ta b) ⟨some td, some ta, tsTile b, none, tsReg b, false, false, 8⟩ 1 (cmpOk c) destCount s

/-- VSEL (R219). -/
def selOk (v : VecOp) : Bool := shapesOk v && fmtIs fmtInt v.a && sameFmt v.b v.d && sameFmt v.c v.d

def execVsel (g : Guard) (td ta tb : Handle) (c : TSrc) (s : State) : Out :=
  vecIssue g (.vsel g td ta tb c) ⟨some td, some ta, some tb, tsTile c, tsReg c, false, false, 8⟩ 1 selOk destCount s

/-- VCVT (R220). -/
def cvtOk (v : VecOp) : Bool := shapesOk v && fmtIs fcvtFmt v.d && fmtIs fcvtFmt v.a

def execVcvt (g : Guard) (o : VecUn) (s : State) : Out := vecIssue g (.vcvt g o) (vin1 o true) 1 cvtOk destCount s

/-- VQUANT (R221). -/
def quantOk (v : VecOp) : Bool :=
  fmtIs scalarFloat v.a && fmtIs fmtBlock v.d && sameExt v.a v.d && (extOfOp v.d).getD 0 0 % 64 == 0

def execVquant (g : Guard) (o : VecUn) (s : State) : Out := vecIssue g (.vquant g o) (vin1 o true) 1 quantOk destCount s

def bitwiseOp : RedOp → Bool
  | .and | .or | .xor => true
  | _ => false

def setAxis (l : List Nat) (k v : Nat) : List Nat := l.set k v

/-- VRED and VSCAN (R222, R223): the kinds, and the destination's extents. -/
def redOk (op : RedOp) (want : List Nat → List Nat) (v : VecOp) : Bool :=
  extOfOp v.d == want (extOfOp v.a)
  && (if isFloating v then fmtIs fmtFloat v.a && !v.sf && !bitwiseOp op else fmtIs vecInt v.d && fmtIs vecInt v.a)

def vinRed (o : VecRed) : VIn := ⟨some o.td, some o.ta, none, none, none, o.sf, true, 8⟩

def execVred (g : Guard) (o : VecRed) (s : State) : Out :=
  vecIssue g (.vred g o) (vinRed o) 1 (redOk o.op fun e => setAxis e o.axis.toNat 1) srcCount s

def execVscan (g : Guard) (o : VecRed) (s : State) : Out :=
  vecIssue g (.vscan g o) (vinRed o) 1 (redOk o.op id) srcCount s

/-- Two entries of a list exchanged. -/
def swapAt (l : List Nat) (a b : Nat) : List Nat := (l.set a (l.getD b 0)).set b (l.getD a 0)

/-- VTRANS (R224). -/
def execVtrans (g : Guard) (td ta : Handle) (axa axb : BitVec 3) (s : State) : Out :=
  vecIssue g (.vtrans g td ta axa axb) ⟨some td, some ta, none, none, none, false, false, 8⟩ 1
    (fun v => sameFmt v.a v.d && extOfOp v.d == swapAt (extOfOp v.a) axa.toNat axb.toNat) destCount s

/-- VPERM (R224). -/
def execVperm (g : Guard) (td ta tb : Handle) (axis : BitVec 3) (s : State) : Out :=
  vecIssue g (.vperm g td ta tb axis) ⟨some td, some ta, some tb, none, none, false, false, 8⟩ 1
    (fun v => sameFmt v.a v.d && fmtIs fmtInt v.b && sameExt v.d v.b
      && setAxis (extOfOp v.a) axis.toNat 1 == setAxis (extOfOp v.d) axis.toNat 1) destCount s

/-- VBCAST (R225). -/
def execVbcast (g : Guard) (td : Handle) (a : TSrc) (s : State) : Out :=
  vecIssue g (.vbcast g td a) ⟨some td, tsTile a, none, none, tsReg a, false, false, 8⟩ 1
    (fun v => sameFmt v.a v.d && broadcasts v.d v.a) destCount s

def vidx : VIdx → Nat
  | .short i => i.toNat
  | .long i => i.toNat

def vidxLen : VIdx → Nat
  | .short _ => 8
  | .long _ => 12

/-- VEXT (R225). -/
def execVext (g : Guard) (rx : Reg) (ta : Handle) (i : VIdx) (s : State) : Out :=
  vecIssue g (.vext g rx ta i) ⟨none, some ta, none, none, none, false, false, vidxLen i⟩ 1
    (fun v => vidx i < countOf v.a) (fun _ => 1) s

/-- VINS (R225). -/
def execVins (g : Guard) (td : Handle) (rx : Reg) (i : VIdx) (s : State) : Out :=
  vecIssue g (.vins g td rx i) ⟨some td, none, none, none, some rx, false, false, vidxLen i⟩ 1
    (fun v => vidx i < countOf v.d) (fun _ => 1) s

def vamt : VAmt → Int
  | .short i => i.toInt
  | .long i => i.toInt

def vamtLen : VAmt → Nat
  | .short _ => 8
  | .long _ => 12

/-- VSHIFT (R226). -/
def execVshift (g : Guard) (td ta : Handle) (axis : BitVec 3) (amt : VAmt) (fill : Option Reg) (s : State) : Out :=
  vecIssue g (.vshift g td ta axis amt fill) ⟨some td, some ta, none, none, fill, false, false, vamtLen amt⟩ 1
    (fun v => sameFmt v.a v.d && sameExt v.a v.d) destCount s

/-! ### Elements (R211, R216) -/

/-- A byte of the granules that the operation has read. -/
def vecByte (v : VecOp) (a : Nat) : Byte :=
  match v.got.find? (·.1 == a / 32) with
  | some x => x.2.getD (a % 32) 0
  | none => 0

/-- An element's raw bits, from what the operation has read. -/
def vecElem (v : VecOp) (sl : Slice) (ix : List Nat) : Nat :=
  let a := elemAddr sl ix
  takeElem sl.fmt a.2 ((List.range (elemSpan sl.fmt a.2)).map fun i => vecByte v (a.1.toNat + i))

/-- The index that serves `ix` in a source with extents of 1 (R211). -/
def bcastIx (sl : Slice) (ix : List Nat) : List Nat :=
  axes.map fun k => if sl.ext.getD k 1 = 1 then 0 else ix.getD k 0

/-- An operand at a destination index: a tile's element, or the low bits of g[RX]. -/
def operandAtIx (v : VecOp) (sl : Option Slice) (f : Fmt) (ix : List Nat) : Nat :=
  match sl with
  | some x => vecElem v x (bcastIx x ix)
  | none => v.rx.toNat % 2 ^ fmtBits f

def fmtOr (sl : Option Slice) (f : Fmt) : Fmt :=
  match sl with
  | some x => x.fmt
  | none => f

/-- The exact result of a floating arithmetic instruction (R217). -/
def fltArith (i : Instr) (mode : Nat) (a b c : Val) : Exact × Flags :=
  match i with
  | .vadd .. => exactly (addVal mode a b)
  | .vsub .. => exactly (addVal mode a (negVal b))
  | .vmul .. => exactly (mulVal a b)
  | .vfma .. => exactly (fmaVal mode a b c)
  | .vdiv .. => divVal a b
  | .vsqrt .. => sqrtVal a
  | .vrsqrt .. => rsqrtVal a
  | .vexp2 .. => exp2Val a
  | .vlog2 .. => log2Val a
  | .vmin .. => (.of (minVal a b), 0)
  | .vmax .. => (.of (maxVal a b), 0)
  | .vabs .. => (.of (if negOf a then negVal a else a), 0)
  | .vneg .. => (.of (negVal a), 0)
  | _ => (.of a, 0)

/-- The exact result of an integer arithmetic instruction (R217). -/
def intArith (i : Instr) (a b : Int) : Int :=
  match i with
  | .vadd .. => a + b
  | .vsub .. => a - b
  | .vmul .. => a * b
  | .vmin .. => min a b
  | .vmax .. => max a b
  | .vabs .. => a.natAbs
  | .vneg .. => -a
  | _ => a

/-- Whether a major is of the elementwise arithmetic group. -/
def isArith : Instr → Bool
  | .vadd .. | .vsub .. | .vmul .. | .vfma .. | .vdiv .. | .vsqrt .. | .vrsqrt .. | .vexp2 .. | .vlog2 .. | .vmin ..
  | .vmax .. | .vabs .. | .vneg .. => true
  | _ => false

def vecCtl (v : VecOp) (f : Fmt) : Ctl := ⟨opMode v.rm, false, v.ftz && flushable f, 0⟩

/-- One element of an arithmetic instruction, from the raw operands and their formats. -/
def arithElem (v : VecOp) (f : Fmt) (a b c : Fmt × Nat) : Nat × Flags :=
  if scalarFloat f then
    let x := fun (o : Fmt × Nat) => dazVal o.1 v.daz (floatVal o.1 o.2)
    let e := fltArith v.i (opMode v.rm) (x a) (x b) (x c)
    let r := roundTo f e.1 (vecCtl v f)
    (r.1, e.2 ||| r.2)
  else (intEnc f v.sf (intArith v.i (intVal a.1 a.2) (intVal b.1 b.2)), 0)

/-- One element of VCMP (R218). -/
def cmpElem (v : VecOp) (k : FCond) (fa fb : Fmt) (a b : Nat) : Nat × Flags :=
  if fmtFloat fa then
    let o := cmpVal (dazVal fa v.daz (floatVal fa a)) (dazVal fb v.daz (floatVal fb b))
    (bit1 (condHolds k o), fcmpFlags k o)
  else
    let x := intVal fa a
    let y := intVal fb b
    (bit1 (condHolds k (some (if x < y then -1 else if x = y then 0 else 1))), 0)

/-- Op of R222 on floating values. -/
def redFlt (op : RedOp) (mode : Nat) (x y : Val) : Val × Flags :=
  match op with
  | .add => addVal mode x y
  | .min => (minVal x y, 0)
  | .max => (maxVal x y, 0)
  | .and | .or | .xor => (x, 0)

/-- A floating reduction of R222: strictly in increasing index, each step rounded. -/
def reduceFlt (f : Fmt) (k : Ctl) (op : RedOp) : List Val → Nat × Flags
  | [] => (0, 0)
  | [x] => roundTo f (.of x) k
  | x :: r =>
    let e := r.foldl (fun (acc : Val × Nat × Flags) y =>
      let z := redFlt op k.mode acc.1 y
      let q := roundTo f (.of z.1) k
      (floatVal f q.1, q.1, acc.2.2 ||| z.2 ||| q.2)) (x, 0, 0)
    (e.2.1, e.2.2)

/-- Op of R222 on integers of a destination type; bitwise operations act on its patterns. -/
def redInt (f : Fmt) (op : RedOp) (x y : Int) : Int :=
  let w := fmtBits f
  match op with
  | .add => x + y
  | .min => min x y
  | .max => max x y
  | .and => intVal f (wrapTo w x &&& wrapTo w y)
  | .or => intVal f (wrapTo w x ||| wrapTo w y)
  | .xor => intVal f (wrapTo w x ^^^ wrapTo w y)

def reduceInt (f : Fmt) (sf : Bool) (op : RedOp) : List Int → Nat
  | [] => 0
  | x :: r => intEnc f sf (r.foldl (fun acc y => intVal f (intEnc f sf (redInt f op acc y))) x)

/-- A reduction over raw elements. -/
def reduceRaw (v : VecOp) (op : RedOp) (fd fa : Fmt) (l : List Nat) : Nat × Flags :=
  if scalarFloat fd then
    reduceFlt fd (vecCtl v fd) op (l.map fun w => dazVal fa v.daz (floatVal fa w))
  else (reduceInt fd v.sf op (l.map (intVal fa)), 0)

/-- The raw elements of a source along an axis, the first `n`. -/
def alongAxis (v : VecOp) (sl : Slice) (ix : List Nat) (k n : Nat) : List Nat :=
  (List.range n).map fun j => vecElem v sl (setAxis ix k j)

/-! ### VQUANT (R221) -/

/-- The greater exponent of a finite non-zero value, and whether it is one. -/
def expOf : Val → Option Int
  | .fin _ n e => if n = 0 then none else some ((Nat.log2 n : Int) + e)
  | _ => none

def isFinite : Val → Bool
  | .fin .. => true
  | _ => false

def emaxOf (f : Fmt) : Int := if f = .bs8 then 8 else 2

def scaleDown (x : Val) (k : Int) : Val :=
  match x with
  | .fin s n e => .fin s n (e - k)
  | v => v

/-- One block: the elements' bits and flags, and the scale. `n0` is the linear index of its first element. -/
def quantBlock (v : VecOp) (f src : Fmt) (xs : List Val) (n0 : Nat) : List Nat × Nat × Flags :=
  if xs.all isFinite then
    let k : Int := match (xs.filterMap expOf).max? with
      | none => -127
      | some m => min (max (m - emaxOf f) (-127)) 127
    let ef := elemFmt f
    let rs := xs.zipIdx.map fun p =>
      roundTo ef (.of (scaleDown p.1 k)) ⟨convMode src ef v.rm, true, false, srBits v.seed v.wid (n0 + p.2)⟩
    (rs.map (·.1), (k + 127).toNat, rs.foldl (fun fl r => fl ||| r.2) 0)
  else (xs.map fun _ => 0, 0xFF, flNV)

/-- The writes of a row: its elements, then its scales (R90). -/
def quantRow (v : VecOp) (d a : Slice) (row : List Nat) (n0 : Nat) : List BitWrite × Flags :=
  let e0 := d.ext.getD 0 0
  let blocks := (List.range (e0 / 64)).map fun b =>
    let ixs := (List.range 64).map fun i => setAxis row 0 (64 * b + i)
    let xs := ixs.map fun ix => dazVal a.fmt v.daz (floatVal a.fmt (vecElem v a ix))
    let r := quantBlock v d.fmt a.fmt xs (n0 + 64 * b)
    ((ixs.zip r.1).flatMap fun p =>
        let p1 := elemAddr d p.1
        elemWrites d.fmt p1.1.toNat p1.2 p.2,
      ((scaleAddr d (setAxis row 0 (64 * b))).toNat, 255, r.2.1), r.2.2)
  (blocks.flatMap (fun x => x.1) ++ blocks.map (fun x => x.2.1), blocks.foldl (fun fl x => fl ||| x.2.2) 0)

def quantWrites (v : VecOp) (d a : Slice) : List BitWrite × Flags :=
  let e0 := d.ext.getD 0 0
  let rows := if e0 = 0 then [] else (List.range (Slice.count d / e0)).map fun r =>
    quantRow v d a (0 :: unlin (d.ext.drop 1) r) (r * e0)
  (rows.flatMap (·.1), rows.foldl (fun fl x => fl ||| x.2) 0)

/-! ### The element function of each instruction -/

/-- VSHIFT's source index along the axis, or none for the fill (R226). -/
def shiftFrom (i e : Nat) (amt : Int) (fill : Bool) : Option Nat :=
  let j : Int := (i : Int) - amt
  if fill then (if 0 ≤ j ∧ j < e then some j.toNat else none) else some (j % e).toNat

/-- A destination element's bits and flags, at an index and its linear index. -/
def vecResult (v : VecOp) (d : Slice) (ix : List Nat) (lin : Nat) : Nat × Flags :=
  let f := d.fmt
  let fa := fmtOr v.a f
  let src := fun (sl : Option Slice) => operandAtIx v sl f ix
  let at_ := fun (jx : List Nat) => match v.a with
    | some a => vecElem v a jx
    | none => 0
  match v.i with
  | .vcmp _ k _ _ _ => cmpElem v k fa (fmtOr v.b fa) (src v.a) (operandAtIx v v.b fa ix)
  | .vsel .. => (if src v.a ≠ 0 then src v.b else src v.c, 0)
  | .vcvt .. => convElem fa f (elemOf fa v.daz (src v.a)) v.rm v.sf v.ftz (srBits v.seed v.wid lin)
  | .vred _ o => match v.a with
    | some a => reduceRaw v o.op f fa (alongAxis v a ix o.axis.toNat (a.ext.getD o.axis.toNat 1))
    | none => (0, 0)
  | .vscan _ o => match v.a with
    | some a => reduceRaw v o.op f fa (alongAxis v a ix o.axis.toNat (ix.getD o.axis.toNat 0 + 1))
    | none => (0, 0)
  | .vtrans _ _ _ x y => (at_ (swapAt ix x.toNat y.toNat), 0)
  | .vperm _ _ _ _ k =>
    let j := intVal (fmtOr v.b f) (src v.b)
    (if 0 ≤ j ∧ j < ((extOfOp v.a).getD k.toNat 1 : Nat) then at_ (setAxis ix k.toNat j.toNat) else 0, 0)
  | .vbcast .. => (src v.a, 0)
  | .vshift _ _ _ k amt fill =>
    match shiftFrom (ix.getD k.toNat 0) (d.ext.getD k.toNat 1) (vamt amt) fill.isSome with
    | some j => (at_ (setAxis ix k.toNat j), 0)
    | none => (v.rx.toNat % 2 ^ fmtBits f, 0)
  | i => if isArith i then arithElem v f (fa, src v.a) (fmtOr v.b f, src v.b) (fmtOr v.c f, src v.c) else (0, 0)

/-- VEXT's value: sign-extended for S types (R225). -/
def extWord (f : Fmt) (w : Nat) : Word := if fmtSigned f then BitVec.ofInt 64 (intVal f w) else BitVec.ofNat 64 w

/-- What an operation writes, from what it has read: nothing where it has no elements (R215). The move instructions copy a
block-scaled tile's elements only and leave the destination's scales as they are: the manual says nothing of either (log
128). -/
def vecCompute (v : VecOp) : VecOut :=
  match v.i, v.d, v.a with
  | .vext _ rx _ i, _, some a => ⟨[], 0, some (rx, extWord a.fmt (vecElem v a (unlin a.ext (vidx i))))⟩
  | .vins _ _ _ i, some d, _ =>
    let p := elemAddr d (unlin d.ext (vidx i))
    ⟨elemWrites d.fmt p.1.toNat p.2 (v.rx.toNat % 2 ^ fmtBits d.fmt), 0, none⟩
  | .vquant .., some d, some a =>
    let r := quantWrites v d a
    ⟨r.1, r.2, none⟩
  | _, some d, _ =>
    if v.elems = 0 then ⟨[], 0, none⟩
    else
      let rs := (Slice.indices d).zipIdx.map fun p => vecResult v d p.1 p.2
      ⟨sliceWrites d (rs.map (·.1)), rs.foldl (fun fl r => fl ||| r.2) 0, none⟩
  | _, _, _ => ⟨[], 0, none⟩

/-! ### Events on granules of the vat (R168, R216, R239, R245) -/

/-- An event on a granule of the vat, which no page maps: its address is the physical one (log 7). -/
def vatEv (g : Nat) (acc : Acc) (op : GOp) : GEv := ⟨32 * g, 32, .coherent, BitVec.ofNat 64 (32 * g), acc, .v, op⟩

/-- A vat byte as a context reads it: the held bytes of its own lease over the Home's (R161). -/
def vatByte (s : State) (pos a : Nat) : Byte :=
  match (leasesOf s pos).find? (·.line == lineOf a) with
  | some l => (overlay s l a 1).headD 0
  | none => Memory.read s.mem a

/-- One masked byte put into the held data of a context's lease. -/
def holdBits (pos : Nat) (s : State) (w : BitWrite) : State :=
  match (leasesOf s pos).find? (·.line == lineOf w.1) with
  | some l =>
    let b := BitVec.ofNat 8 (((vatByte s pos w.1).toNat &&& (255 - w.2.1)) ||| w.2.2)
    setLease s (coreOf pos) { l with data := splice l.data (w.1 % 128) [b], mask := l.mask ||| maskOf (w.1 % 128) 1 }
  | none => s

/-- The writes of one granule in one event: into the held data of the party's own lease, else at the Home (R161, R216). -/
def putGranule (s : State) (d : Doer) (g : Nat) (l : List BitWrite) : State :=
  match leaseOn s (g / 4), leaseOwner s d with
  | some _, some pos => l.foldl (holdBits pos) s
  | _, _ => applyBits s d.part l

/-- A write event of a granule of the vat, of some of its bits; a lease, a queue or a granule's zeroing holds it back. -/
def tryPut (s : State) (d : Doer) (acc : Acc) (g : Nat) (l : List BitWrite) : Tried :=
  match tryEvent s d (vatEv g acc (.write [])) with
  | .did s1 _ => .did (putGranule s1 d g l) []
  | r => r

def inGranule (g : Nat) (w : BitWrite) : Bool := w.1 / 32 == g

/-! ### VECTOR_OP_COMPLETE (R215, R216, R227, R228) -/

def vecSources (v : VecOp) : List Slice := v.a.toList ++ v.b.toList ++ v.c.toList

/-- The bytes of a slice's elements. -/
def elemPlaces (sl : Slice) : List Int :=
  (Slice.indices sl).flatMap fun ix =>
    let a := elemAddr sl ix
    (List.range (elemSpan sl.fmt a.2)).map fun (i : Nat) => a.1 + (i : Int)

/-- The granules of the vat that hold some bytes. -/
def vatGranules (l : List Int) : List Nat := (l.map fun a => a.toNat / 32).eraseDups

/-- The bytes an operation reads: VEXT one element's, the others every source element's; none when it has no
elements (R215, R216, R225). -/
def vecReads (v : VecOp) : List Int :=
  match v.i, v.a with
  | .vext _ _ _ i, some a =>
    let p := elemAddr a (unlin a.ext (vidx i))
    (List.range (elemSpan a.fmt p.2)).map fun (k : Nat) => p.1 + (k : Int)
  | _, _ => if v.elems = 0 then [] else (vecSources v).flatMap elemPlaces

/-- The granules still to read. -/
def vecNeeds (v : VecOp) : List Nat := (vatGranules (vecReads v)).filter fun g => !v.got.any (·.1 == g)

/-- Whether an operation is a gather or a scatter that has elements: its memory events are its context's (R227, R228). -/
def vecMem (v : VecOp) : Bool :=
  match v.i with
  | .vgath .. | .vscat .. => v.elems != 0
  | _ => false

/-- What an operation still writes, once it has read all: for a gather or scatter only when its elements are done. -/
def vecOut (v : VecOp) : Option VecOut :=
  match v.out with
  | some o => some o
  | none => if (vecNeeds v).isEmpty && !vecMem v then some (vecCompute v) else none

def vecDoer (s : State) (core : Nat) (v : VecOp) : Doer :=
  ⟨some (.vec core), quireOfCore core, (s.ctx v.by_.pos).task, partOf s v.by_.pos, false⟩

def setVec (s : State) (core : Nat) (v : VecOp) : State :=
  let k := s.core core
  s.setCore core { k with vec := k.vec.map fun x => if x.id = v.id then v else x }

/-- One granule event of the operation in the unit: reads first, then writes. -/
def vecGranule (s : State) (core : Nat) (v : VecOp) (g : Nat) : Option State :=
  let d := vecDoer s core v
  match vecOut v with
  | none =>
    if !(vecNeeds v).contains g then none
    else match tryEvent s d (vatEv g .read .read) with
      | .did s1 data => some (setVec s1 core { v with got := v.got ++ [(g, data)] })
      | .trap s1 t => some (portTrap s1 v.by_.pos t)
      | .gone _ => none
      | .waits s1 => moved s s1
  | some o =>
    if !o.writes.any (inGranule g) then none
    else match tryPut s d .write g (o.writes.filter (inGranule g)) with
      | .did s1 _ => some (setVec s1 core { v with out := some { o with writes := o.writes.filter fun w => !inGranule g w } })
      | .trap s1 t => some (portTrap s1 v.by_.pos t)
      | .gone _ => none
      | .waits s1 => moved s s1

/-- The results of a completed operation: a register, the flags, the count; the unit is free and the context goes on. -/
def vecFinish (s : State) (core : Nat) (v : VecOp) (o : VecOut) : State :=
  let pos := v.by_.pos
  let s1 := (freeUnit s core).tally (partOf s pos) (vecCounter v.wide) v.elems
  let c := s1.ctx pos
  let c1 := match o.reg with
    | some (r, w) => c.setReg r w
    | none => c
  retireAt (s1.setCtx pos { c1 with st := orFlags c1.st o.flags, wait := .none }) pos v.len

/-! ### VGATH and VSCAT (R227, R228) -/

/-- EA(i) for each element, in increasing linear index. -/
def gatherAddrs (v : VecOp) (idx : Slice) (scale : Nat) : List Word :=
  (Slice.indices idx).map fun ix => v.rx + BitVec.ofInt 64 (intVal idx.fmt (vecElem v idx ix) * 2 ^ scale)

def gatherPort (s : State) (v : VecOp) (fin : PortDone) (major : Nat) : Port :=
  { evs := [], got := [], fin := fin, len := v.len, remote := none, sent := false, minor := 0, major := major, since := s.cyc,
    po := .dflt, work := none }

/-- What a gather or scatter does with its elements, once its tiles are read. -/
def vecElements (s : State) (v : VecOp) : Option Port :=
  match v.i, v.d, v.a, v.b with
  | .vgath _ _ _ _ scale, some d, some a, _ =>
    some (gatherPort s v (.gather d (gatherAddrs v a scale.toNat) (fmtBits d.fmt / 8)) 0x75)
  | .vscat _ _ _ _ scale, _, some a, some b =>
    let data := (Slice.indices a).map fun ix => toBytes (fmtBits a.fmt / 8) (vecElem v a ix)
    some (gatherPort s v (.scatter ((gatherAddrs v b scale.toNat).zip data)) 0x76)
  | _, _, _, _ => none

/-- The elements go through the context's Issue Port (R148, R227, R228). -/
def startElements (s : State) (v : VecOp) : Option State :=
  (vecElements s v).map fun p =>
    finishPort (s.setCtx v.by_.pos { s.ctx v.by_.pos with port := some p, wait := .port }) v.by_.pos p

/-- The next move of the operation in the unit that is no granule event: it completes, no earlier than R215's cycle, or a
gather's or scatter's elements begin. -/
def vecMove (s : State) (core : Nat) (v : VecOp) : Option State :=
  match vecOut v with
  | some o => if o.writes.isEmpty ∧ v.start + v.cycles ≤ s.cyc then some (vecFinish s core v o) else none
  | none => if (vecNeeds v).isEmpty ∧ (s.ctx v.by_.pos).wait = .vector v.id then startElements s v else none

/-- A move of the operation at the head of a core's vector unit. -/
def vecStep (s : State) (core : Nat) (at_ : Option Nat) : Option State :=
  match (s.core core).vec with
  | [] => none
  | v :: _ =>
    if s.cyc < v.start then none
    else match at_ with
      | some g => vecGranule s core v g
      | none => vecMove s core v

/-- VECTOR_OP_COMPLETE: one granule event of the operation in the core's vector unit, or its completion (R216). -/
def execVectorOpComplete (core : Nat) (at_ : Option Nat) (s : State) : Out :=
  match vecStep s core at_ with
  | some t => .next t
  | none => .fault (.notEnabled "the vector unit makes no such move now")

def byteFmt (f : Fmt) : Bool := 8 ≤ fmtBits f

/-- A gather's or scatter's issue: it takes its turn in the vector unit and holds it until its last event; with no elements
it takes one cycle (R215). -/
def memVec (g : Guard) (i : Instr) (o : VIn) (good : VecOp → Bool) (count : VecOp → Nat) (s : State) : Out :=
  guarded g true 8 s fun c =>
    withTiles s c (tilesOf o)
      (match vecRead s c i o with
       | none => bad s (operand 0)
       | some v => if good v then ok (vecStart s c v (if count v = 0 then 1 else 0) (count v)) else bad s (operand v.wide))

def execVgath (g : Guard) (td ta : Handle) (rx : Reg) (scale : BitVec 3) (s : State) : Out :=
  memVec g (.vgath g td ta rx scale) ⟨some td, some ta, none, none, some rx, false, false, 8⟩
    (fun v => fmtIs byteFmt v.d && fmtIs fmtInt v.a && sameExt v.d v.a) destCount s

/-- VSCAT. A data format narrower than 8 bits raises OPERAND, as R227 says of VGATH's destination; R228 gives no limit of its
own (log 128). -/
def execVscat (g : Guard) (ta tb : Handle) (rx : Reg) (scale : BitVec 3) (s : State) : Out :=
  memVec g (.vscat g ta tb rx scale) ⟨none, some ta, some tb, none, some rx, false, false, 8⟩
    (fun v => fmtIs byteFmt v.a && fmtIs fmtInt v.b && sameExt v.a v.b) srcCount s

end Sys2Proof.Machine
end

