-- ==== Sys2Proof/Machine/Matrix.lean ====
section
/-! DEFINITION. The matrix unit: the six instructions, the queue entries, the arbiter, the tile steps with their
arithmetic, streamed operands, faults and progress (R103 to R110, R229 to R251). -/
namespace Sys2Proof.Machine

/-! ### Operand checks (R103, R109, R232, R233) -/

def isFp8Group : Fmt → Bool
  | .e4m3 | .e5m2 | .e3m2 | .e2m3 | .e2m1 => true
  | _ => false

/-- R103: the pairings. -/
def pairOk (a b : Fmt) : Bool :=
  (a == .f32 && b == .f32) || (a == .bf16 && b == .bf16) || (a == .f16 && b == .f16)
  || (isFp8Group a && isFp8Group b) || ((a == .s8 || a == .s4) && (b == .s8 || b == .s4))
  || (fmtBlock a && fmtBlock b)

/-- An integer pairing accumulates in INT32. -/
def pairInt (a : Fmt) : Bool := fmtInt a

/-- R232: sizes and origin of A, whose logical K is `k`, against the accumulator. A K of 0 is refused as the other extents of
0 are: R232 gives K no lower limit, and R23 speaks of an empty slice's completing (log 130). -/
def regionOk (m n k row0 col0 : Nat) (block : Bool) : Bool :=
  32 ≤ m && m ≤ 128 && m % 32 == 0 && 32 ≤ n && n ≤ 256 && n % 32 == 0
  && k % (if block then 64 else 32) == 0 && 0 < k && k ≤ 4096
  && row0 % 32 == 0 && row0 + m ≤ 128 && col0 % 32 == 0 && col0 + n ≤ 256

/-- R233: a prefix that a multiplying instruction accepts. -/
def matPfxOk (p : Option (BitVec 16)) (pscOk : Bool) : Bool :=
  pfxField p 13 3 == 0 && !pfxSF p && (pscOk || !pfxPSC p)

/-- A vat operand's slice of a given rank under a replacement format. -/
def matTile (s : State) (c : Ctx) (t : Handle) (rank code : Nat) : Option Slice :=
  match (tileSlice s (quireOf s.cur) t (widRead c) c.levels true).bind (refmt code) with
  | some sl => if sl.rank = rank then some sl else none
  | none => none

/-- A memory-streamed B (R238). -/
def matDk (s : State) (c : Ctx) (d : Handle) (code : Nat) : Option Slice :=
  match (memSlice s (quireOf s.cur) d (widRead c) c.levels true).bind (refmt code) with
  | some sl => if sl.rank = 2 ∧ evenSlice sl then some sl else none
  | none => none

def matB (s : State) (c : Ctx) (b : MatB) (code : Nat) : Option Slice :=
  match b with
  | .tile t => matTile s c t 2 code
  | .dk d => matDk s c d code

def ext0 (sl : Slice) : Nat := sl.ext.getD 0 0
def ext1 (sl : Slice) : Nat := sl.ext.getD 1 1

/-! ### Making an entry (R230, R234) -/

def entryBase (s : State) (c : Ctx) (kind : MatKind) (acc : Bool) (a : Slice) : MatEntry :=
  { id := s.front.nextId, by_ := issuerOf s c, kind := kind, acc := acc, a := a, groups := [], scales := none, row0 := 0,
    col0 := 0, m := 0, n := 0, k := 0, td := none, grp := 0, kdone := 0, step := 0, half := none, got := [], cur := [],
    fail := none, granted := false, faulted := false, replay := 0, since := s.cyc }

/-- Step 4 and 5 of R234: a full queue is waited for; else the entry is made, PP cleared and the instruction ends. -/
def enqueueMat (s : State) (c : Ctx) (e : MatEntry) : Eff :=
  let k := s.core (coreOf s.cur)
  if 4 ≤ k.queue.length then waitRetest s s.cur
  else
    let s1 := s.setFront { s.front with nextId := s.front.nextId + 1 }
    let s2 := s1.setCore (coreOf s.cur) { k with queue := k.queue ++ [e] }
    ok (retire s2 { c with st := clearPP c.st } 12)

/-- A slice that stands where an entry needs none. -/
def noSlice : Slice := ⟨.n8, 0, 1, [0, 1, 1, 1, 1], [0, 0, 0, 0, 0], 0, 0, true, 0, 0⟩

/-! ### MMA (R235, R240) -/

def matTiles (ta : Handle) (b : MatB) : List Handle :=
  match b with
  | .tile t => [ta, t]
  | .dk _ => [ta]

/-- The promotion scales under PSC (R240); the outer none is the OPERAND case. -/
def scaleTiles (s : State) (c : Ctx) (psc : Bool) (tsa tsw : Handle) (m n k : Nat) : Option (Option (Slice × Slice)) :=
  if psc then
    match matTile s c tsa 2 0, matTile s c tsw 2 0 with
    | some x, some y =>
      if k % 128 = 0 ∧ x.fmt = .f32 ∧ y.fmt = .f32 ∧ ext0 x = k / 128 ∧ ext1 x = m ∧ ext0 y = (n + 127) / 128
          ∧ ext1 y = k / 128 then some (some (x, y)) else none
    | _, _ => none
  else if tsa = 0 ∧ tsw = 0 then some none else none

def execMma (g : Guard) (acc : Bool) (ta : Handle) (b : MatB) (tsa tsw : Handle) (row0 col0 : BitVec 16) (s : State) :
    Out :=
  guarded g true 12 s fun c =>
    let p := pendingPfx c
    let psc := pfxPSC p
    withTiles s c (matTiles ta b ++ if psc then [tsa, tsw] else [])
      (match matTile s c ta 2 (pfxFA p), matB s c b (pfxFB p) with
       | some a, some bs =>
         let m := ext1 a
         let n := ext1 bs
         let k := ext0 a
         match scaleTiles s c psc tsa tsw m n k with
         | some sc =>
           if matPfxOk p true && regionOk m n k row0.toNat col0.toNat (fmtBlock a.fmt || fmtBlock bs.fmt)
               && ext0 bs == k && pairOk a.fmt bs.fmt && !(psc && pairInt a.fmt) then
             enqueueMat s c { entryBase s c .mma acc a with
               groups := [⟨m, bs⟩], scales := sc, row0 := row0.toNat, col0 := col0.toNat, m := m, n := n, k := k }
           else bad s (operand 0)
         | none => bad s (operand 0)
       | _, _ => bad s (operand 0))

/-! ### MMAS (R109, R110, R241) -/

def keepN : Keep → Nat
  | .k4 => 4 | .k8 => 8 | .k16 => 16

/-- The kept positions of a metadata entry (R109). -/
def keptAt (n entry : Nat) : List Nat := (List.range n).map fun j => bits entry (5 * j) 5

def rising : List Nat → Bool
  | a :: b :: r => a < b && rising (b :: r)
  | _ => true

/-- R110: an entry's indices rise strictly and its unused bits are 0. -/
def metaOk (n entry : Nat) : Bool := rising (keptAt n entry) && bits entry (5 * n) (8 * n - 5 * n) == 0

/-- The places of the metadata bytes (R241): from the slice's first byte; none where the tile does not hold them. -/
def metaPlaces (tm : Slice) (n : Nat) : Option (List Int) :=
  let b := (elemAddr tm []).1
  if b.toNat + n ≤ tm.hi then some ((List.range n).map fun (i : Nat) => b + (i : Int)) else none

/-- What an instruction reads of the vat at its issue: its granules, once no lease holds them back and what is pending on
their lines has been performed (R151, R161). -/
inductive IssueRead where
  | waits
  | trap (t : Trap)
  | bytes (s : State) (l : List Byte)

/-- A vat read of a step, a vector operation or an issuing instruction meets poison: the record names the granule. -/
def vatPoison (acc : Acc) (g : Nat) : Trap := poisonTrap (vatEv g acc .read)

def poisonIn (s : State) (l : List Int) : Option Nat := (vatGranules l).find? fun g => poisoned s (32 * g) 32

def readAtIssue (s : State) (l : List Int) : IssueRead :=
  let lines := ((vatGranules l).map (· / 4)).eraseDups
  if lines.any (heldBack s (doerOf s s.cur)) then .waits
  else match poisonIn s l with
    | some g => .trap (vatPoison .read g)
    | none =>
      let s1 := lines.foldl drainLine s
      .bytes s1 (l.map fun a => vatByte s1 s1.cur a.toNat)

/-- Entry number `x` of metadata whose entries have `n` bytes. -/
def metaEntry (meta_ : List Byte) (n x : Nat) : Nat := ofBytes ((meta_.drop (x * n)).take n)

def execMmas (g : Guard) (keep : Keep) (acc : Bool) (ta : Handle) (b : MatB) (tm : Handle) (row0 col0 : BitVec 16)
    (s : State) : Out :=
  guarded g true 12 s fun c =>
    let p := pendingPfx c
    let kn := keepN keep
    withTiles s c (matTiles ta b ++ [tm])
      (match matTile s c ta 2 (pfxFA p), matB s c b (pfxFB p), matTile s c tm 1 0 with
       | some a, some bs, some t =>
         let m := ext1 a
         let n := ext1 bs
         let k := ext0 a * 32 / kn
         let entries := m * (k / 32)
         match metaPlaces t (entries * kn) with
         | some l =>
           if !(matPfxOk p false && ext0 a % kn == 0 && regionOk m n k row0.toNat col0.toNat false && ext0 bs == k
               && pairOk a.fmt bs.fmt && a.fmt != .f32 && !fmtBlock a.fmt && t.fmt == .n8) then bad s (operand 0)
           else match readAtIssue s l with
             | .waits => waitRetest s s.cur
             | .trap x => bad s x
             | .bytes s1 meta_ =>
               if (List.range entries).all fun x => metaOk kn (metaEntry meta_ kn x) then
                 enqueueMat s1 c { entryBase s1 c (.mmas keep meta_) acc a with
                   groups := [⟨m, bs⟩], row0 := row0.toNat, col0 := col0.toNat, m := m, n := n, k := k }
               else bad s (trapOf .sparse (freeInfo .sparse 0))
         | none => bad s (operand tm.toNat)
       | _, _, _ => bad s (operand 0))

/-! ### MMG (R242, R243) -/

/-- The raw entries of a group table from its bytes. -/
def groupTable (l : List Byte) : List Nat := (chunks 16 (l.length + 1) l).map ofBytes

def grpRows (e : Nat) : Nat := bits e 0 32
def grpBt (e : Nat) : Handle := BitVec.ofNat 8 (bits e 56 8)
def grpBdk (e : Nat) : Nat := bits e 48 8

/-- An entry's reserved and unused fields. -/
def grpFieldsOk (mem : Bool) (e : Nat) : Bool :=
  bits e 32 16 == 0 && grpRows e % 32 == 0
  && (if mem then bits e 56 8 == 0 && grpBdk e < 64 else bits e 64 64 == 0 && grpBdk e == 0)

/-- B of a group: its tile, or its deckle at BADDR with partition fields ignored. -/
def grpB (s : State) (c : Ctx) (mem : Bool) (code e : Nat) : Option Slice :=
  let q := quireOf s.cur
  if mem then
    match (sliceOf (deckleAt s q (grpBdk e)) (widRead c) c.levels false (BitVec.ofNat 64 (bits e 64 64)) false 0 0).bind
        (refmt code) with
    | some sl => if sl.rank = 2 ∧ evenSlice sl then some sl else none
    | none => none
  else matTile s c (grpBt e) 2 code

/-- The groups of a table, if every B is there. -/
def grpList (s : State) (c : Ctx) (mem : Bool) (code : Nat) : List Nat → Option (List Grp)
  | [] => some []
  | e :: r => match grpB s c mem code e, grpList s c mem code r with
    | some b, some l => some (⟨grpRows e, b⟩ :: l)
    | _, _ => none

/-- R242: the table as a whole. -/
def grpsOk (a : Slice) (m : Nat) (l : List Grp) : Bool :=
  match l with
  | [] => false
  | x :: _ =>
    l.length ≤ 16 && (l.map (·.rows)).sum == m
    && l.all fun y => ext1 y.b == ext1 x.b && y.b.fmt == x.b.fmt && ext0 y.b == ext0 a

/-- The first group from `g` on that has rows. -/
def nextGrp (l : List Grp) (g : Nat) : Nat :=
  match (List.range l.length).find? fun i => g ≤ i && (l.getD i ⟨0, noSlice⟩).rows != 0 with
  | some i => i
  | none => l.length

/-- The conditions of R17 on the tiles that an MMG names, its B tiles among them once the table is READY; then the checks,
then the entry (R234). -/
def mmgBody (s : State) (c : Ctx) (mem acc : Bool) (ta tg : Handle) (t : Slice) (bytes : List Byte) (row0 col0 : Nat) : Eff :=
  let p := pendingPfx c
  let table := groupTable bytes
  withTiles s c ([ta, tg] ++ if mem then [] else table.map grpBt)
    (match matTile s c ta 2 (pfxFA p), grpList s c mem (pfxFB p) table with
     | some a, some l =>
       let m := ext1 a
       let n := match l with
         | x :: _ => ext1 x.b
         | [] => 0
       let b := match l with
         | x :: _ => x.b.fmt
         | [] => a.fmt
       if matPfxOk p false && t.fmt == .n8 && Slice.count t % 16 == 0 && table.all (grpFieldsOk mem) && grpsOk a m l
           && regionOk m n (ext0 a) row0 col0 (fmtBlock a.fmt || fmtBlock b) && pairOk a.fmt b then
         enqueueMat s c { entryBase s c .mmg acc a with
           groups := l, row0 := row0, col0 := col0, m := m, n := n, k := ext0 a, grp := nextGrp l 0 }
       else bad s (operand 0)
     | _, _ => bad s (operand 0))

/-- The table is read only from a READY tile of the task; until then R17 decides on the tiles that the instruction names. -/
def execMmg (g : Guard) (mem : Bool) (acc : Bool) (ta tg : Handle) (row0 col0 : BitVec 16) (s : State) : Out :=
  guarded g true 12 s fun c =>
    let first := fun (e : Eff) => withTiles s c [ta, tg] e
    match testTiles s c (quireOf s.cur) [tg] with
    | .ok => match matTile s c tg 1 0 with
      | some t => match readAtIssue s (elemPlaces t) with
        | .waits => first (waitRetest s s.cur)
        | .trap x => first (bad s x)
        | .bytes s1 l => mmgBody s1 c mem acc ta tg t l row0.toNat col0.toNat
      | none => first (bad s (operand tg.toNat))
    | _ => first (bad s (operand tg.toNat))

/-! ### MZERO, MST, MWAIT (R244 to R246) -/

def execMzero (g : Guard) (acc : Bool) (s : State) : Out :=
  guarded g true 12 s fun c => enqueueMat s c (entryBase s c .mzero acc noSlice)

def execMst (g : Guard) (s32 sf : Bool) (acc : Bool) (td : Handle) (row0 col0 : BitVec 16) (s : State) : Out :=
  guarded g true 12 s fun c =>
    let p := pendingPfx c
    withTiles s c [td]
      (match matTile s c td 2 0 with
       | some d =>
         if pfxFA p = 0 ∧ pfxFB p = 0 ∧ pfxPSC p = false ∧ fcvtFmt d.fmt ∧ row0.toNat + ext1 d ≤ 128
             ∧ col0.toNat + ext0 d ≤ 256 then
           enqueueMat s c { entryBase s c (.mst s32 (sf || pfxSF p) (rmWith p c) c.seed (widRead c)) acc noSlice with
             td := some d, row0 := row0.toNat, col0 := col0.toNat, m := ext1 d, n := ext0 d }
         else bad s (operand td.toNat)
       | none => bad s (operand td.toNat))

/-- MWAIT: PP is cleared when it completes (R79, R246). -/
def execMwait (g : Guard) (s : State) : Out :=
  guarded g true 12 s fun c =>
    let ids := (s.core (coreOf s.cur)).queue.map (·.id)
    if ids.isEmpty then ok (retire s { c with st := clearPP c.st } 12)
    else ok (s.setCtx s.cur { c with wait := .mwait ids })

/-- Whether an MWAIT is over: none of its entries stands in the core's queue. -/
def mwaitOver (s : State) (pos : Nat) (ids : List Nat) : Bool :=
  (s.core (coreOf pos)).queue.all fun e => !ids.contains e.id

/-- WAIT_RETEST: a context out of the rotation for a state is tested again (R17); an MWAIT whose entries have gone ends
(R246). -/
def execWaitRetest (pos : Nat) (s : State) : Out :=
  let c := s.ctx pos
  match c.wait with
  | .retest => when (c.run == .running) "the context is not RUNNING" (leaveRotation s pos .none)
  | .mwait ids =>
    when (c.run == .running && mwaitOver s pos ids) "the entries have not left the queue"
      (retireAt (s.setCtx pos { c with wait := .none, st := clearPP c.st }) pos 12)
  | _ => .fault (.notEnabled "no wait to re-test")

/-! ### The queue's head -/

def isMul (e : MatEntry) : Bool :=
  match e.kind with
  | .mma | .mmas .. | .mmg => true
  | .mzero | .mst .. => false

def headOf (s : State) (core : Nat) : Option MatEntry := (s.core core).queue.head?

def setHead (s : State) (core : Nat) (e : MatEntry) : State :=
  let k := s.core core
  s.setCore core { k with queue := e :: k.queue.drop 1 }

/-- The events of a core's head entry no longer wait behind a lease. -/
def withdrawMat (s : State) (core : Nat) : State := withdraw (withdraw s (.stream core)) (.mst core)

/-- The head entry leaves; the next comes to the head now (R229). -/
def popHead (s0 : State) (core : Nat) : State :=
  let s := withdrawMat s0 core
  let k := s.core core
  s.setCore core { k with queue := match k.queue.drop 1 with
    | [] => []
    | e :: r => { e with since := s.cyc } :: r }

def grpAt (e : MatEntry) (g : Nat) : Grp := e.groups.getD g ⟨0, noSlice⟩

def isBlock (e : MatEntry) : Bool := fmtBlock e.a.fmt

/-- Whether a step ends a chunk (R235). -/
def endsChunk (e : MatEntry) (st : Nat) : Bool := !isBlock e || st % 2 == 1

/-- Whether a step ends a 128-K group under promotion. -/
def endsGroup (e : MatEntry) (st : Nat) : Bool := e.scales.isSome && st % 4 == 3

/-- The step after one: the next of the group, or the first of the next group with rows; none at the end. -/
def stepAfter (e : MatEntry) (g st : Nat) : Option (Nat × Nat) :=
  if 32 * (st + 1) < e.k then some (g, st + 1)
  else
    let g' := nextGrp e.groups (g + 1)
    if g' < e.groups.length then some (g', 0) else none

/-- The step whose reads are next: the entry's next step, or the one after a granted step (R238). -/
def readStep (e : MatEntry) : Option (Nat × Nat) :=
  if e.granted then stepAfter e e.grp e.step else some (e.grp, e.step)

/-! ### Bytes a step reads (R238, R239) -/

def elemRange (sl : Slice) (ix : List Nat) : List Int :=
  let p := elemAddr sl ix
  (List.range (elemSpan sl.fmt p.2)).map fun (i : Nat) => p.1 + (i : Int)

/-- The bytes of B that a step of a group uses. -/
def stepB (e : MatEntry) (g st : Nat) : List Int :=
  let b := (grpAt e g).b
  let cols := List.range e.n
  cols.flatMap fun j =>
    (List.range 32).flatMap (fun i => elemRange b [32 * st + i, j])
    ++ (if fmtBlock b.fmt ∧ endsChunk e st then [scaleAddr b [32 * st, j]] else [])

/-- A granule already read that holds a byte. -/
def heldAddr (l : List (Nat × List Byte)) (a : Nat) : Bool := l.any fun e => inRange e.1 e.2.length a

/-- The addresses of streamed bytes that a core's head entry still needs for its next step. -/
def streamNeeds (s : State) (core : Nat) : List Word :=
  match headOf s core with
  | none => []
  | some e =>
    if !isMul e || e.faulted || e.fail.isSome then []
    else match readStep e with
      | none => []
      | some (g, st) =>
        if (grpAt e g).b.vat then []
        else ((stepB e g st).find? fun a => !heldAddr e.got (BitVec.ofInt 64 a).toNat).toList.map (BitVec.ofInt 64)

/-- The bytes of vat tiles that a granted step reads. -/
def stepVat (e : MatEntry) : List Int :=
  let g := grpAt e e.grp
  let r0 := ((e.groups.take e.grp).map (·.rows)).sum
  let st := e.step
  let rows := List.range g.rows
  let aCols := match e.kind with
    | .mmas keep _ => (List.range (keepN keep)).map fun j => st * keepN keep + j
    | _ => (List.range 32).map fun i => 32 * st + i
  let a := rows.flatMap fun i =>
    aCols.flatMap (fun k => elemRange e.a [k, r0 + i])
    ++ (if isBlock e ∧ endsChunk e st then [scaleAddr e.a [32 * st, r0 + i]] else [])
  let b := if g.b.vat then stepB e e.grp st else []
  let sc := match e.scales with
    | some (x, y) => if endsGroup e st then
        rows.flatMap (fun i => elemRange x [st / 4, r0 + i])
        ++ (List.range ((e.n + 127) / 128)).flatMap fun j => elemRange y [j, st / 4]
      else []
    | none => []
  a ++ b ++ sc

/-- The key of a vat granule among those a step has read; a streamed granule's key is its virtual address. -/
def vatKey (a : Nat) : Nat := 2 ^ 64 + a

/-- The vat granules that a granted step still has to read (R239). -/
def vatNeeds (e : MatEntry) : List Nat := (vatGranules (stepVat e)).filter fun g => !heldAddr e.cur (vatKey (32 * g))

/-! ### Arithmetic of a step (R104 to R107) -/

/-- A byte of an operand as the step read it. -/
def stepByte (e : MatEntry) (vat : Bool) (a : Int) : Byte :=
  let k := if vat then vatKey a.toNat else (BitVec.ofInt 64 a).toNat
  match e.cur.find? fun x => inRange x.1 x.2.length k with
  | some x => x.2.getD (k - x.1) 0
  | none => 0

/-- The bits of an element of an operand. -/
def stepElem (e : MatEntry) (sl : Slice) (ix : List Nat) : Nat :=
  let p := elemAddr sl ix
  takeElem sl.fmt p.2 ((List.range (elemSpan sl.fmt p.2)).map fun (i : Nat) => stepByte e sl.vat (p.1 + (i : Int)))

/-- The byte of a block scale of an operand. -/
def stepScale (e : MatEntry) (sl : Slice) (ix : List Nat) : Nat := (stepByte e sl.vat (scaleAddr sl ix)).toNat

/-- A row of A over a step's 32 K-elements, dense (R110): raw bits, or none where MMAS keeps nothing. -/
def aRow (e : MatEntry) (row st : Nat) : List (Option Nat) :=
  match e.kind with
  | .mmas keep meta_ =>
    let n := keepN keep
    let kept := keptAt n (metaEntry meta_ n (row * (e.k / 32) + st))
    (List.range 32).map fun p => match kept.findIdx? (· == p) with
      | some j => some (stepElem e e.a [st * n + j, row])
      | none => none
  | _ => (List.range 32).map fun p => some (stepElem e e.a [32 * st + p, row])

def valIn (f : Fmt) (w : Option Nat) : Val :=
  match w with
  | some x => floatVal (elemFmt f) x
  | none => .fin false 0 0

def intIn (f : Fmt) (w : Option Nat) : Int :=
  match w with
  | some x => intVal f x
  | none => 0

/-- The exact sum of a list of exact values; the special cases of R105. -/
def sumVals : List Val → Val
  | [] => .fin true 0 0
  | x :: r => r.foldl (fun a v => (addVal rmRNE a v).1) x

/-- The exact sum of products of a row and a column. -/
def dotVal (fa fb : Fmt) (a : List (Option Nat)) (b : List Nat) : Val :=
  sumVals ((a.zip b).map fun p => (mulVal (valIn fa p.1) (valIn fb (some p.2))).1)

def dotInt (fa fb : Fmt) (a : List (Option Nat)) (b : List Nat) : Int :=
  ((a.zip b).map fun p => intIn fa p.1 * intVal fb p.2).sum

def accKey (acc : Bool) (i j : Nat) : Nat := (if acc then 32768 else 0) + 256 * i + j

/-- RoundTo(x + y, FP32, RNE) on FP32 words. -/
def addF32 (w : Nat) (v : Val) : Nat := (roundTo .f32 (.of (addVal rmRNE (floatVal .f32 w) v).1) .rne).1

/-- One element of an FP32 accumulation in a step: the new C and P words from the old ones and S(c). -/
def foldElem (e : MatEntry) (i j : Nat) (c p : Nat) (sum : Val) : Nat × Nat :=
  match e.scales with
  | none => (addF32 c sum, p)
  | some (x, y) =>
    let st := e.step
    let first := if isBlock e then st % 4 == 1 else st % 4 == 0
    let p' := addF32 (if first then 0 else p) sum
    if endsGroup e st then
      let z := (mulVal (mulVal (floatVal .f32 p') (floatVal .f32 (stepElem e x [st / 4, i]))).1
        (floatVal .f32 (stepElem e y [j / 128, st / 4]))).1
      let z' := (roundTo .f32 (.of z) .rne).1
      (addF32 c (floatVal .f32 z'), p')
    else (c, p')

/-- The sums of a step for its group: per row, per column. -/
def stepSums (e : MatEntry) (r0 : Nat) : List (List Val) :=
  let g := grpAt e e.grp
  let cols := (List.range e.n).map fun j => (List.range 32).map fun k => stepElem e g.b [32 * e.step + k, j]
  (List.range g.rows).map fun i =>
    let row := aRow e (r0 + i) e.step
    cols.map fun col =>
      if pairInt e.a.fmt then valOfInt (dotInt e.a.fmt g.b.fmt row col) else dotVal e.a.fmt g.b.fmt row col

/-- The chunk's S from the step's sum, the held half and the block scales (R104). -/
def chunkSum (e : MatEntry) (r0 i j : Nat) (half : Option Val) (sum : Val) : Val :=
  let b := (grpAt e e.grp).b
  let t := match half with
    | some h => (addVal rmRNE h sum).1
    | none => sum
  if isBlock e then
    let sa := scaleVal (stepScale e e.a [32 * e.step, r0 + i])
    let sb := scaleVal (stepScale e b [32 * e.step, j])
    (mulVal (mulVal t sa).1 sb).1
  else t

/-- An integer value of an exact integer sum. -/
def intOfVal : Val → Int
  | .fin s n e => signedMag s (n * 2 ^ e.toNat)
  | _ => 0

/-- The accumulator and promotion accumulator after a step that ends a chunk. -/
def foldStep (s : State) (core : Nat) (e : MatEntry) (sums : List (List Val)) (r0 : Nat) : State :=
  let k := s.core core
  let n := e.n
  let new := (sums.zipIdx.flatMap fun r => r.1.zipIdx.map fun x =>
    let i := r.2
    let j := x.2
    let key := accKey e.acc (e.row0 + r0 + i) (e.col0 + j)
    let half := e.half.map fun h => h.getD (i * n + j) (.fin false 0 0)
    let sum := chunkSum e r0 i j half x.1
    let c := (Sparse.get 0 k.acc key).toNat
    let p := (Sparse.get 0 k.promo key).toNat
    if pairInt e.a.fmt then (key, wrapTo 32 ((c : Int) + intOfVal sum), p)
    else (key, foldElem e (r0 + i) j c p sum))
  s.setCore core { k with
    acc := new.foldl (fun m x => Sparse.set 0 m x.1 (BitVec.ofNat 32 x.2.1)) k.acc
    promo := new.foldl (fun m x => Sparse.set 0 m x.1 (BitVec.ofNat 32 x.2.2)) k.promo }

/-! ### Progress and counters (R235, R247, R370) -/

/-- The wider format of a pairing, A's on equal widths. -/
def widerFmt (a b : Fmt) : Fmt := if fmtBits a < fmtBits b then b else a

/-- Counters 0 to 11. -/
def macCounter : Fmt → Nat
  | .f32 => 0 | .bf16 => 1 | .f16 => 2 | .e4m3 => 3 | .e5m2 => 4 | .e3m2 => 5 | .e2m3 => 6 | .e2m1 => 7 | .s8 => 8
  | .s4 => 9 | .bs8 => 10 | _ => 11

/-- Cycles of a tile step (R236). -/
def stepCycles (e : MatEntry) : Nat :=
  let w := fmtBits (widerFmt e.a.fmt (grpAt e e.grp).b.fmt)
  let n := if w ≤ 4 then 4 else if w ≤ 8 then 8 else if w ≤ 16 then 16 else 64
  match e.kind with
  | .mmas .k16 _ => n / 2
  | .mmas .. => n / 4
  | _ => n

def stepMacs (e : MatEntry) : Nat :=
  (grpAt e e.grp).rows * e.n * (match e.kind with
    | .mmas keep _ => keepN keep
    | _ => 32)

/-- A step is counted (R370). -/
def countStep (s : State) (core : Nat) (e : MatEntry) : State :=
  let n := partOfQuire s (quireOfCore core)
  let s1 := (s.tally n (macCounter (widerFmt e.a.fmt (grpAt e e.grp).b.fmt)) (stepMacs e)).tally n 44 1
  if e.step < e.replay then s1.tally n 45 1 else s1

/-- The entry after a step: the next step of its group or the next group; none when it has run to its end. -/
def advanceEntry (e : MatEntry) (half : Option (List Val)) : Option MatEntry :=
  let kd := if endsChunk e e.step then 32 * (e.step + 1) else e.kdone
  match stepAfter e e.grp e.step with
  | none => none
  | some (g, st) =>
    some { e with
      grp := g, step := st, kdone := if g = e.grp then kd else 0, half := half, cur := [], granted := false,
      replay := if g = e.grp then e.replay else 0 }

/-! ### Faults (R248) -/

def matRec (s : State) (core : Nat) (e : MatEntry) (t : Trap) : FRec :=
  { seq := 0, trap := t, src := .matrix core e.id, ch := 0, pos := posWord s e.by_.pos, slotgen := e.by_.slotgen,
    pc := e.by_.pc, enc := e.by_.enc, tile := 0, grp := e.grp, kdone := e.kdone, slot := 0, task := e.by_.task,
    launch := (e.by_.task.bind (taskOf s)).map (·.launch), delivered := false }

/-- The head entry becomes faulted: the held half is discarded, its reads are dropped, and it will run again from
k_done (R248, R249, R332). -/
def matFault (s : State) (core : Nat) (e : MatEntry) (t : Trap) : State :=
  let e' := { e with faulted := true, half := none, got := [], cur := [], fail := none, granted := false,
                     replay := max e.replay e.step, step := e.kdone / 32 }
  postFor (setHead (withdrawMat s core) core e') e.by_.part (matRec s core e t)

/-! ### Reads of operands (R238, R239) -/

def streamDoer (core : Nat) (e : MatEntry) : Doer := ⟨some (.stream core), quireOfCore core, e.by_.task, e.by_.part, false⟩

/-- A failed read: it faults the entry at once when its step is the one to start next, else when it would start. -/
def failRead (s : State) (core : Nat) (e : MatEntry) (t : Trap) : State :=
  if e.granted then setHead s core { e with fail := some t } else matFault s core e t

/-- A streamed granule has been read. -/
def streamGot (s : State) (core : Nat) (e : MatEntry) (b : Nat) (data : List Byte) : State :=
  setHead s core { e with got := e.got ++ [(b, data)] }

/-- One EREAD of a streamed operand. -/
def streamRead (s : State) (core : Nat) (e : MatEntry) (va : Word) : Option State :=
  match readStep e with
  | none => none
  | some (g, st) =>
    let wants := fun b n => (stepB e g st).any fun a =>
      let x := (BitVec.ofInt 64 a).toNat
      inRange b n x && !heldAddr e.got x
    let w : Word := BitVec.ofNat 64 (va.toNat / 32 * 32)
    if (grpAt e g).b.vat || !wants w.toNat 32 then none
    else match resolve s (e.by_.who (quireOfCore core)) va .eread with
      | (s1, .error (some t)) => some (failRead s1 core e { t with info := w })
      | (s1, .error none) => moved s s1
      | (s1, .ok (.locs (l :: _))) =>
        let n := granSize l.pa
        let b := va.toNat / n * n
        if !wants b n then none
        else match tryEvent s1 (streamDoer core e) ⟨l.pa / n * n, n, l.coh, BitVec.ofNat 64 b, .eread, .v, .read⟩ with
          | .did s2 data => some (streamGot s2 core e b data)
          | .trap s2 t => some (failRead s2 core e t)
          | .gone s2 => some s2
          | .waits s2 => moved s s2
      | (s1, .ok _) => some (failRead s1 core e (accTrap .address w .eread 0))

/-- One read of a vat granule within the granted step. -/
def vatRead (s : State) (core : Nat) (e : MatEntry) (g : Nat) : Option State :=
  if !e.granted || !(vatNeeds e).contains g then none
  else match tryEvent s (streamDoer core e) (vatEv g .eread .read) with
    | .did s1 data => some (setHead s1 core { e with cur := e.cur ++ [(vatKey (32 * g), data)] })
    | .trap s1 t => some (matFault s1 core e t)
    | .gone _ => none
    | .waits s1 => moved s s1

/-- MATRIX_OPERAND_READ: one granule event, streamed or of the vat, of the entry at the head of a core's queue. The entries
behind it read nothing before they come to the head, which R238 allows and does not ask (log 131). -/
def execMatrixOperandRead (core : Nat) (vat : Bool) (va : Word) (s : State) : Out :=
  match headOf s core with
  | none => .fault (.notEnabled "the queue is empty")
  | some e =>
    if !isMul e || e.faulted || (!vat && e.fail.isSome) then .fault (.notEnabled "the head entry reads nothing")
    else match if vat then vatRead s core e (va.toNat / 32) else streamRead s core e va with
      | some t => .next t
      | none => .fault (.notEnabled "no such read is needed or can be performed")

/-! ### The arbiter (R237) -/

/-- W(c): from the task that owns the core's head context. -/
def weightOf (s : State) (core : Nat) : Nat :=
  match (s.ctx (16 * core)).task.bind (taskOf s) with
  | some t => if t.weight = 0 then 1 else t.weight
  | none => 1

/-- Why an entry's next step cannot start: a streamed read of it has failed, or a vat granule of it is poisoned (R248). -/
def stepFail (s : State) (e : MatEntry) : Option Trap :=
  match e.fail with
  | some t => some t
  | none => if e.granted || !isMul e || e.faulted then none else (poisonIn s (stepVat e)).map (vatPoison .eread)

def coreReady (s : State) (core : Nat) : Bool :=
  match headOf s core with
  | none => false
  | some e => isMul e && !e.faulted && !e.granted && (streamNeeds s core).isEmpty

def grantedIn (s : State) (q : Nat) : Option Nat :=
  (List.range 8).find? fun i => (headOf s (8 * q + i)).any (·.granted)

/-- The core that the arbiter grants, with its next p and u. -/
def arbiter (s : State) (q : Nat) : Option (Nat × Nat) :=
  let x := s.quire q
  let ready := fun i => coreReady s (8 * q + i)
  if ready x.arbP ∧ x.arbU < weightOf s (8 * q + x.arbP) then some (x.arbP, x.arbU + 1)
  else ((List.range 8).map fun i => (x.arbP + 1 + i) % 8).find? ready |>.map fun p => (p, 1)

/-- A head entry of the quire whose next step cannot start. -/
def failedHead (s : State) (q : Nat) : Option (Nat × MatEntry × Trap) :=
  (List.range 8).findSome? fun i => match headOf s (8 * q + i) with
    | some e => if e.granted || e.faulted then none else (stepFail s e).map fun t => (8 * q + i, e, t)
    | none => none

def grant (s : State) (q p u : Nat) : State :=
  let core := 8 * q + p
  match headOf s core with
  | none => s
  | some e =>
    let s1 := setHead s core { e with granted := true, cur := e.got, got := [] }
    s1.setQuire q { s1.quire q with arbP := p, arbU := u, unitFree := s.cyc + stepCycles e }

/-- STEP_GRANT: the next tile step of a ready core, when the unit is free; or the fault of a step whose read failed. -/
def execStepGrant (q : Nat) (s : State) : Out :=
  match failedHead s q with
  | some (core, e, t) => .next (matFault s core e t)
  | none =>
    if (grantedIn s q).isSome || s.cyc < (s.quire q).unitFree then .fault (.notEnabled "the unit is busy")
    else match arbiter s q with
      | some (p, u) => .next (grant s q p u)
      | none => .fault (.notEnabled "no core is ready")

/-! ### TILE_STEP (R235) -/

/-- The granted step run: its vat reads, its sums, the fold at the end of a chunk, and the entry's progress. -/
def runStep (s : State) (core : Nat) (e : MatEntry) : State :=
  let r0 := ((e.groups.take e.grp).map (·.rows)).sum
  let sums := stepSums e r0
  let s1 := if endsChunk e e.step then foldStep s core e sums r0 else s
  let s2 := countStep s1 core e
  match advanceEntry e (if endsChunk e e.step then none else some sums.flatten) with
  | some e' => setHead s2 core e'
  | none => popHead s2 core

/-- The granted step ends, once its cycles have passed and its vat granules have been read. -/
def tileStep (s : State) (q : Nat) : Option State :=
  match grantedIn s q with
  | none => none
  | some i => match headOf s (8 * q + i) with
    | none => none
    | some e => if s.cyc < (s.quire q).unitFree || !(vatNeeds e).isEmpty then none else some (runStep s (8 * q + i) e)

def execTileStep (q : Nat) (s : State) : Out :=
  match tileStep s q with
  | some t => .next t
  | none => .fault (.notEnabled "no granted step can end")

/-! ### MZERO and MST entries (R244, R245) -/

/-- Words of one accumulator set to 0. -/
def clearAcc (acc : Bool) (m : Sparse (BitVec 32)) : Sparse (BitVec 32) :=
  m.filter fun e => !(inRange (accKey acc 0 0) 32768 e.1)

def execMzeroEntryRun (core : Nat) (s : State) : Out :=
  match headOf s core with
  | some e => match e.kind with
    | .mzero =>
      let k := s.core core
      when (e.since + 1 ≤ s.cyc) "MZERO takes a cycle"
        (popHead (s.setCore core { k with acc := clearAcc e.acc k.acc, promo := clearAcc e.acc k.promo }) core)
    | _ => .fault (.notEnabled "the head entry is no MZERO")
  | none => .fault (.notEnabled "the queue is empty")

/-- What MST puts for an accumulator word: FP32 to FP32 and INT32 to S32 are exact copies (R245). -/
def mstVal (d : Fmt) (s32 sf : Bool) (rm h w : Nat) : Nat :=
  let src : Fmt := if s32 then .s32 else .f32
  if src = d then w else (convElem src d (elemOf src false w) rm sf false h).1

/-- The values that MST writes, in increasing linear index. -/
def mstVals (s : State) (core : Nat) (e : MatEntry) (d : Slice) (s32 sf : Bool) (rm : Nat) (seed wid : Word) : List Nat :=
  (Slice.indices d).map fun ix =>
    let i := e.row0 + ix.getD 1 0
    let j := e.col0 + ix.getD 0 0
    mstVal d.fmt s32 sf rm (srBits seed wid (256 * i + j)) (Sparse.get 0 (s.core core).acc (accKey e.acc i j)).toNat

/-- Everything that the MST at a core's head writes. -/
def mstWrites (s : State) (core : Nat) (e : MatEntry) : List BitWrite :=
  match e.kind, e.td with
  | .mst s32 sf rm seed wid, some d => sliceWrites d (mstVals s core e d s32 sf rm seed wid)
  | _, _ => []

/-- The granules that it has still to write; `got` names those it has written. -/
def mstNeeds (e : MatEntry) : List Nat :=
  match e.td with
  | some d => (vatGranules (elemPlaces d)).filter fun g => !e.got.any (·.1 == g)
  | none => []

def mstDoer (core : Nat) (e : MatEntry) : Doer := ⟨some (.mst core), quireOfCore core, e.by_.task, e.by_.part, false⟩

/-- One granule event of an MST (R216, R245). -/
def mstGranule (s : State) (core : Nat) (e : MatEntry) (g : Nat) : Option State :=
  if !(mstNeeds e).contains g then none
  else match tryPut s (mstDoer core e) .ewrite g ((mstWrites s core e).filter (inGranule g)) with
    | .did s1 _ => some (setHead s1 core { e with got := e.got ++ [(g, [])] })
    | .trap s1 t => some (matFault s1 core e t)
    | .gone _ => none
    | .waits s1 => moved s s1

/-- MST_ENTRY_RUN: one granule written, or, when all are and its cycles have passed, the entry leaves the queue. -/
def execMstEntryRun (core : Nat) (at_ : Option Nat) (s : State) : Out :=
  match headOf s core with
  | some e => match e.kind with
    | .mst .. =>
      if e.faulted then .fault (.notEnabled "the entry is faulted")
      else match at_ with
        | some g => match mstGranule s core e g with
          | some t => .next t
          | none => .fault (.notEnabled "the MST writes no such granule now")
        | none => when ((mstNeeds e).isEmpty && e.since + (e.m * e.n + 1023) / 1024 ≤ s.cyc) "the MST still runs" (popHead s core)
    | _ => .fault (.notEnabled "the head entry is no MST")
  | none => .fault (.notEnabled "the queue is empty")

end Sys2Proof.Machine
end

