-- ==== Sys2Proof/Machine/Answer.lean ====
section
/-! DEFINITION. Answering a fault record: RESUME and ABORT of contexts, copy jobs and matrix entries, parked or not,
and the launch's note of an ABORT (R249, R256, R260, R277, R278, R294, R330, R331, R401). -/
namespace Sys2Proof.Machine

/-! ### Records -/

/-- An outstanding record by its handle. -/
def findRec (s : State) (n : Nat) (seq : Word) : Option FRec := (s.part n).recs.find? (·.seq == seq)

/-- The record is no longer outstanding. -/
def dropRec (s : State) (n : Nat) (seq : Word) : State :=
  s.setPart n { s.part n with recs := (s.part n).recs.filter (·.seq != seq) }

/-! ### A thread's work removed (R249, R256) -/

def madeBy (b : Issuer) (pos : Nat) (gen : BitVec 32) : Bool := b.pos == pos && b.slotgen == gen

/-- ACTIVE channels from which the last job has been removed become FAULTED. -/
def orphanChans (s : State) (q : Nat) (gone : List Job) : State :=
  ((gone.map (·.ch)).eraseDups).foldl (fun s ch =>
    let x := chanAt s q ch
    if x.st = .active ∧ chanJobs s q ch = 0 then setChan s q ch { x with st := .faulted } else s) s

/-- Jobs of a quire removed, with what this does to their channels. -/
def removeJobs (s : State) (q : Nat) (gone : Job → Bool) : State :=
  let l := (s.quire q).jobs.filter gone
  let s1 := s.setQuire q { s.quire q with jobs := (s.quire q).jobs.filter fun j => !gone j }
  let s2 := l.foldl (fun s j => withdraw s (.job q j.id)) s1
  orphanChans s2 q (l.filter fun j => !isRecv j)

/-- Matrix entries of a core removed; a new head comes to the head now, and what a removed one waited for is withdrawn. -/
def removeEntries (s0 : State) (core : Nat) (gone : MatEntry → Bool) : State :=
  let s := if (s0.core core).queue.head?.any gone then withdrawMat s0 core else s0
  let k := s.core core
  let rest := k.queue.filter fun e => !gone e
  let rest' := if rest.head? = k.queue.head? then rest
    else match rest with
      | e :: r => { e with since := s.cyc } :: r
      | [] => []
  s.setCore core { k with queue := rest' }

/-- Every job, matrix entry and vector operation that a thread made. -/
def removeWork (s : State) (pos : Nat) (gen : BitVec 32) : State :=
  let s1 := removeJobs s (quireOf pos) fun j => !isRecv j && madeBy j.by_ pos gen
  let s2 := removeEntries s1 (coreOf pos) fun e => madeBy e.by_ pos gen
  if (s2.core (coreOf pos)).vec.any fun v => madeBy v.by_ pos gen then leaveVec s2 pos else s2

/-- A thread ended by ABORT: HALTED and aborted, or its slot freed; its work is removed (R278, R331). -/
def abortThread (s : State) (pos : Nat) : State :=
  let s1 := removeWork s pos (s.ctx pos).slotgen
  let s2 := match (s1.ctx pos).task.bind (taskOf s1) with
    | some t => s1.setTask { t with wfw := t.wfw.filter (· != pos) }
    | none => s1
  endThread s2 pos true

/-- ABORT of a job's or entry's issuing thread, if its slot still holds it; else only its work goes (R331). -/
def abortIssuer (s : State) (b : Issuer) : State :=
  let c := s.ctx b.pos
  if c.run ≠ .free ∧ c.slotgen = b.slotgen then abortThread s b.pos else removeWork s b.pos b.slotgen

/-! ### RESUME -/

/-- The bits of ST that are fields of R12 and that an answer may set: all but SV and LC. -/
def answerMask : Word := 0x0002FFFF271FC0FF

/-- A context's ST under an answer. -/
def answeredSt (st : Word) : Answer → Word
  | .resumeSt w => (w &&& answerMask) ||| 1
  | .resume | .abort => st

/-- What an incoming head that leaves FAULTED still waits for: its core's accumulator exchange (R299). -/
def exchangeWait (s : State) (pos : Nat) : Wait :=
  match s.front.handovers.findSome? fun h => h.exch.find? (·.1 == coreOf pos) with
  | some (_, till) => if slotOf pos = 0 then .exchange till else .none
  | none => .none

/-- The faulted context re-enters the rotation: it replays its instruction, or goes on after TRAP (R277, R331). A
fetch that failed is made again. -/
def resumeCtx (s : State) (pos : Nat) (r : FRec) (a : Answer) : State :=
  let c := s.ctx pos
  let bad := match c.block with
    | some b => b.err.isSome
    | none => false
  (if bad then dropFetches s pos else s).setCtx pos { c with
    run := .running, wait := exchangeWait s pos, handle := none, refused := 0
    st := answeredSt c.st a
    pc := if r.trap.cause = .software then c.pc + 8 else c.pc
    block := if bad then none else c.block
    ahead := if bad then none else c.ahead }

/-- A job's tile returns to the state it held before the fault (R203). -/
def mendTile (s : State) (q : Nat) (j : Job) (t : Nat) : State :=
  let x := tileFor s q j.by_.task t
  if x.st = .faulted then setTileFor s q j.by_.task t { x with st := x.before } else s

/-- The job unfaulted, its tiles and its channel with it (R203, R256). -/
def mendJob (s : State) (q : Nat) (j : Job) : State :=
  let s1 := setJob s q { j with faulted := false, cause := none }
  let s2 := (jobTiles j).foldl (fun s t => mendTile s q j t) s1
  if isRecv j then s2
  else
    let x := chanAt s2 q j.ch
    if x.st = .faulted then setChan s2 q j.ch { x with st := .active } else s2

/-- RESUME of a job: its events not yet performed go on; a transfer that its destination refused, or that its pair
lost, is sent again whole under a new number, and faults at once while the pair is failed (R260, R401). -/
def resumeJob (s : State) (q : Nat) (j : Job) : State :=
  match j.kind with
  | .copyrSend dev rank quire tile _ total _ _ =>
    if j.cause = some .operand ∨ j.cause = some .link then
      let j' := { j with got := [], kind := .copyrSend dev rank quire tile (jobNumber s dev) total 0 (total == 0) }
      let s1 := bumpJobNumber (mendJob s q j') dev
      if dev ≠ myDev s ∧ !reachable s j.by_.part dev then
        match jobOf s1 q j.id with
        | some x => jobFault s1 q x (accTrap .link (freeInfo .link j.id) .none 0)
        | none => s1
      else s1
    else mendJob s q j
  | _ => mendJob s q j

def resumeEntry (s : State) (core : Nat) (e : MatEntry) : State :=
  let k := s.core core
  s.setCore core { k with queue := k.queue.map fun x => if x.id = e.id then { x with faulted := false } else x }

/-! ### The source of a record -/

/-- The faulted context that keeps a record's handle. -/
def holderOf (s : State) (n : Nat) (seq : Word) : Option Nat :=
  (s.ctxs.find? fun e => e.2.run == .faulted && e.2.handle == some seq && partOf s e.1 == some n).map (·.1)

/-- A job by its number, wherever its task now is. -/
def jobAnywhere (s : State) (id : Nat) : Option (Nat × Job) :=
  s.quires.findSome? fun e => (e.2.jobs.find? (·.id == id)).map fun j => (e.1, j)

def entryAnywhere (s : State) (id : Nat) : Option (Nat × MatEntry) :=
  s.cores.findSome? fun e => (e.2.queue.find? (·.id == id)).map fun x => (e.1, x)

/-- The thread that a record names, for a job or entry that has gone. -/
def recIssuer (r : FRec) : Issuer :=
  { pos := bits r.pos.toNat 0 14, slotgen := r.slotgen, pc := r.pc, enc := r.enc, task := r.task, part := none, asid := none }

/-- An answer acts on its record's source (R331). -/
def actAnswer (s : State) (n : Nat) (r : FRec) (a : Answer) : State :=
  match r.src with
  | .front => s
  | .ctx => match holderOf s n r.seq with
    | none => s
    | some pos => if a = .abort then abortThread s pos else resumeCtx s pos r a
  | .job _ id => match jobAnywhere s id with
    | some (q, j) =>
      if a ≠ .abort then resumeJob s q j
      else if isRecv j then dropJob s q id else abortIssuer s j.by_
    | none => if a = .abort ∧ r.task.isSome then abortIssuer s (recIssuer r) else s
  | .matrix _ id => match entryAnywhere s id with
    | some (core, e) => if a = .abort then abortIssuer s e.by_ else resumeEntry s core e
    | none => if a = .abort then abortIssuer s (recIssuer r) else s

/-! ### Threads, jobs and entries in a save area (R331, R334) -/

/-- Whether the thread of a task's slot stands in the save area: the task is parked, the slot has been handed over from it,
or it has not yet been loaded again (R298). -/
def isSaved (s : State) (t : Task) (pos : Nat) : Bool :=
  t.parked || t.late.contains pos || s.front.handovers.any fun h =>
    (h.out == t.tag && h.done.contains pos)
      || (h.inn == some t.tag && t.hasSave && hasCore h.cores (coreOf pos % 8) && !h.done.contains pos)

/-- The record of a saved context in the save area: the one that holds the handle, or, where the record was posted only
after the save, the one of its slot and generation. -/
def parkedRec (s : State) (t : Task) (r : FRec) : Option Nat :=
  let cores := (List.range 8).filter (hasCore t.cores)
  let all := cores.flatMap fun k => (List.range 16).map fun i => 128 * t.quire + 16 * k + i
  let mine := ctxRecAddr t (bits r.pos.toNat 0 14)
  ((all.filter (isSaved s t)).map (ctxRecAddr t)).find? fun a => bits (memWord s (a + 168)) 0 2 == 2
    && (memWord s (a + 176) == r.seq.toNat || (a == mine && memWord s (a + 152) == r.slotgen.toNat))

/-- An answer to a parked context: ST replaced where the answer brings one, STATE bits 3 and 4 set. PC moves past a
TRAP. -/
def holdCtxAnswer (s : State) (t : Task) (r : FRec) (a : Answer) : State :=
  match parkedRec s t r with
  | none => s
  | some b =>
    let state := bits (memWord s (b + 168)) 0 3 + 8 + (if a = .abort then 16 else 0)
    let st := answeredSt (BitVec.ofNat 64 (memWord s (b + 136))) a
    let pc := memWord s (b + 128) + (if r.trap.cause = .software ∧ a ≠ .abort then 8 else 0)
    let s1 := homeWrite (homeWrite s (b + 128) (toBytes 8 (pc % 2 ^ 56))) (b + 136) (toBytes 8 st.toNat)
    homeWrite s1 (b + 168) (toBytes 8 state)

/-- Whether what a record names is in its task's saved state: a context that no slot holds, a job of a parked task, a matrix
entry that has been saved. -/
def inSave (s : State) (n : Nat) (t : Task) (r : FRec) : Bool :=
  match r.src with
  | .ctx => (holderOf s n r.seq).isNone && (parkedRec s t r).isSome
  | .job .. => t.parked
  | .matrix _ id => t.savedQueues.any fun e => e.2.any (·.id == id)
  | .front => false

def holdAnswer (s : State) (t : Task) (r : FRec) (a : Answer) : State :=
  match r.src with
  | .ctx => holdCtxAnswer s t r a
  | .job .. | .matrix .. => s.setTask { t with held := t.held ++ [(r, a)] }
  | .front => s

/-! ### Answers -/

def launchOf (s : State) (id : Nat) : Option Launch := s.front.launches.find? (·.id == id)

def State.setLaunch (s : State) (l : Launch) : State :=
  s.setFront { s.front with launches := s.front.launches.map fun x => if x.id = l.id then l else x }

/-- R294: the launch's first aborted record in posting order. -/
def noteAbort (s : State) (r : FRec) : State :=
  match r.launch.bind (launchOf s) with
  | none => s
  | some l =>
    let first := match l.abort with
      | some (k, c) => if r.seq.toNat < k then some (r.seq.toNat, r.trap.cause) else some (k, c)
      | none => some (r.seq.toNat, r.trap.cause)
    s.setLaunch { l with abort := first }

/-- ANSWERING A RECORD (R330, R331): it leaves the outstanding ones, and the answer acts, or is recorded in the saved state
of its task. -/
def answerRec (s : State) (n : Nat) (r : FRec) (a : Answer) : State :=
  let s1 := dropRec s n r.seq
  let s2 := if a = .abort then noteAbort s1 r else s1
  match r.task.bind (taskOf s2) with
  | some t => if inSave s2 n t r then holdAnswer s2 t r a else actAnswer s2 n r a
  | none => actAnswer s2 n r a

end Sys2Proof.Machine
end

