-- ==== Sys2Proof/Machine/FrontMem.lean ====
section
/-! DEFINITION. The front end's own reads and writes, its fault records, and the completion record (R294, R364, R399,
R400). A read or write that the ordering machine holds back makes the whole event wait: the functions then answer
the wait in place of a state. -/
namespace Sys2Proof.Machine

/-! ### Virtual devices (R361) -/

def vdt (s : State) (fn : Nat) : Nat := (Sparse.get 0 s.front.vdt fn).toNat
def vdPart (s : State) (fn : Nat) : Nat := bits (vdt s fn) 56 7
def vdAsid (s : State) (fn : Nat) : Nat := bits (vdt s fn) 32 10
def vdWeight (s : State) (fn : Nat) : Nat := if bits (vdt s fn) 48 8 = 0 then 1 else bits (vdt s fn) 48 8
def vdSched (s : State) (fn : Nat) : Bool := bits (vdt s fn) 63 1 == 1

/-! ### Accesses (R399) -/

/-- The front end's position for a virtual device: its partition's lowest quire, or quire 0. -/
def feQuire (s : State) (fn : Nat) : Nat := (lowQuire s (vdPart s fn)).getD 0

def feWho (s : State) (fn : Nat) : Who := ⟨feQuire s fn, none, some (vdAsid s fn), some (vdPart s fn)⟩

/-- The front end performs at the Home, as a party of its own (R155, R399). -/
def feDoer (s : State) (fn : Nat) : Doer := ⟨some (.front fn), feQuire s fn, none, some (vdPart s fn), true⟩

/-- A result of the front end, or the wait that puts it off: the function and line of the queue that it joins, where its
access waits behind a lease (R161). -/
abbrev Fr (α : Type) := Except (Option (Nat × Nat)) α

/-- What a front-end access yields. -/
abbrev Fe (α : Type) := Fr (State × Except Trap α)

/-- The wait of an event that its place holds back. -/
def feHold (s : State) (fn : Nat) (ev : GEv) : Option (Nat × Nat) :=
  if heldBack s (feDoer s fn) (lineOf ev.pa) then some (fn, lineOf ev.pa) else none

/-- The granule events of a front-end access, one after another. -/
def feEvents (fn : Nat) : List GEv → State → List Byte → Fe (List Byte)
  | [], s, got => .ok (s, .ok got)
  | ev :: r, s, got => match tryEvent s (feDoer s fn) ev with
    | .did s1 old => feEvents fn r s1 (if opReads ev.op then got ++ old else got)
    | .trap s1 t => .ok (s1, .error t)
    | .gone _ | .waits _ => .error (feHold s fn ev)

/-- The events of one access of at most 32 bytes inside a granule of the address; `data` is written, or none read. -/
def fePiece (s : State) (fn : Nat) (a : Word) (n : Nat) (data : Option (List Byte)) : Fe (List Byte) :=
  let acc : Acc := if data.isSome then .write else .read
  match resolveAccess s (feWho s fn) a n acc with
  | (_, .error none) => .error none
  | (s1, .error (some t)) => .ok (s1, .error t)
  | (s1, .ok (.remote _)) => .ok (s1, .error (accTrap .address a acc 0))
  | (s1, .ok (.pieces ps)) =>
    let op := fun off k => match data with
      | some d => GOp.write ((d.drop off).take k)
      | none => GOp.read
    feEvents fn ((cutAccess acc 0 ps).map fun e => ⟨e.2.2.pa, e.2.1, e.2.2.coh, e.2.2.addr, acc, .v, op e.1 e.2.1⟩) s1 []

/-- Bytes read from an address upward. -/
def feRead (fn : Nat) : Nat → State → Word → Nat → List Byte → Fe (List Byte)
  | 0, s, _, _, got => .ok (s, .ok got)
  | fuel + 1, s, a, n, got =>
    if n = 0 then .ok (s, .ok got)
    else
      let k := min n (32 - a.toNat % 32)
      match fePiece s fn a k none with
      | .error w => .error w
      | .ok (s1, .error t) => .ok (s1, .error t)
      | .ok (s1, .ok d) => feRead fn fuel s1 (addrPlus a k) (n - k) (got ++ d)

def feGet (s : State) (fn : Nat) (a : Word) (n : Nat) : Fe (List Byte) := feRead fn (n + 1) s a n []

/-- Bytes written from an address upward. -/
def feWrite (fn : Nat) : Nat → State → Word → List Byte → Fe Unit
  | 0, s, _, _ => .ok (s, .ok ())
  | fuel + 1, s, a, d =>
    if d.isEmpty then .ok (s, .ok ())
    else
      let k := min d.length (32 - a.toNat % 32)
      match fePiece s fn a k (some (d.take k)) with
      | .error w => .error w
      | .ok (s1, .error t) => .ok (s1, .error t)
      | .ok (s1, .ok _) => feWrite fn fuel s1 (addrPlus a k) (d.drop k)

/-- Several writes as one: all of them, or none if one fails. -/
def fePut (s : State) (fn : Nat) : List (Word × List Byte) → Fe Unit
  | [] => .ok (s, .ok ())
  | (a, d) :: r => match feWrite fn (d.length + 1) s a d with
    | .error w => .error w
    | .ok (_, .error t) => .ok (s, .error t)
    | .ok (s1, .ok ()) => match fePut s1 fn r with
      | .error w => .error w
      | .ok (_, .error t) => .ok (s, .error t)
      | .ok (s2, .ok ()) => .ok (s2, .ok ())

/-! ### Front-end fault records (R285, R289, R294, R400) -/

def feRec (t : Trap) : FRec :=
  { seq := 0, trap := t, src := .front, ch := 0, pos := 0, slotgen := 0, pc := 0, enc := List.replicate 16 0, tile := 0,
    grp := 0, kdone := 0, slot := 0, task := none, launch := none, delivered := false }

def fePost (s : State) (fn : Nat) (t : Trap) : State := post s (vdPart s fn) (feRec t)

/-! ### The completion record (R294) -/

def stPending : Nat := 0
def stRunning : Nat := 1
def stDone : Nat := 2
def stFaulted : Nat := 3
def stRejected : Nat := 4

def statusBytes (st cause : Nat) : List Byte := toBytes 8 (pack [(3, st), (5, 0), (8, cause)])

/-- A write of a launch's record: skipped, with a record, where it fails. The flag tells that it was performed. -/
def doneWrite (s : State) (l : Launch) (w : List (Word × List Byte)) : Fr (State × Bool) :=
  if l.done = 0 then .ok (s, false)
  else match fePut s l.fn w with
    | .error w => .error w
    | .ok (s1, .ok ()) => .ok (s1, true)
    | .ok (s1, .error t) => .ok (fePost s1 l.fn t, false)

/-- The whole record as a launch that has been taken finds it. -/
def freshRecord (l : Launch) (st cause : Nat) : List Byte :=
  statusBytes st cause ++ toBytes 8 l.teams ++ List.replicate 48 0 ++ List.replicate ((l.teams + 7) / 8) 0

/-- A team's bit and RETIRED, in one write. -/
def retireWrite (l : Launch) (team : Nat) : List (Word × List Byte) :=
  let byte := (List.range 8).foldl (fun x i => x + bit1 (l.retired.contains (team / 8 * 8 + i)) * 2 ^ i) 0
  [(addrPlus l.done 16, toBytes 8 l.retired.length), (addrPlus l.done (64 + team / 8), [BitVec.ofNat 8 byte])]

/-- STATUS and cause at a launch's end (R294). -/
def finalStatus (l : Launch) : Nat × Nat :=
  if l.link then (stFaulted, Cause.link.code)
  else match l.abort with
    | some (_, c) => (stFaulted, c.code)
    | none => (stDone, 0)

/-- The final STATUS; its vector fires only when the write is performed (R364). -/
def endWrite (s : State) (l : Launch) (st cause : Nat) (whole : Bool) : Fr State :=
  match doneWrite s l [(l.done, if whole then freshRecord l st cause else statusBytes st cause)] with
  | .error w => .error w
  | .ok (s1, false) => .ok s1
  | .ok (s1, true) => .ok (sendMsi s1 l.fn l.queue)

/-- What the front end does, as the outcome of its event: an access that waits behind a lease joins the queue there. -/
def asOut (s : State) (t : Fr State) : Out :=
  match t with
  | .ok s1 => .next s1
  | .error none => .fault (.notEnabled "an access of the front end must wait")
  | .error (some (fn, line)) =>
    let s1 := joinQueue s (.front fn) line
    when (s1 != s) "an access of the front end waits behind a lease" s1

end Sys2Proof.Machine
end

