-- ==== Sys2Proof/Machine/Front.lean ====
section
/-! DEFINITION. Kicks, launches and graphs: ring entries taken, launch records checked, graph nodes dispatched, and a
launch's end (R285 to R289, R294 to R296, R361, R363, R364, R399, R400). -/
namespace Sys2Proof.Machine

/-! ### Launch records (R288, R289) -/

def word (b : List Byte) (off : Nat) : Nat := ofBytes ((b.drop off).take 8)

/-- A pair of a launch record: the address of its deckle record and its handle, or none where its reserved bits are
not zero. -/
def pairOf (b : List Byte) : Option (Word × Nat) :=
  if bits (word b 8) 6 58 = 0 then some (BitVec.ofNat 64 (word b 0), bits (word b 8) 0 6) else none

def replayOf (s : State) (id : Nat) : Option Replay := s.front.replays.find? (·.id == id)

/-- The cycle from which a launch ages: that of its ring entry's taking, for a graph's node its replay's (R291). -/
def takenAt (s : State) (graph : Option (Nat × Nat)) : Nat :=
  match graph.bind fun g => replayOf s g.1 with
  | some r => r.taken
  | none => s.cyc

/-- The launch that a header describes. -/
def launchFrom (s : State) (fn queue entryNo : Nat) (graph : Option (Nat × Nat)) (ord : Bool) (a : Word) (h : List Byte) :
    Launch :=
  let ctl := word h 24
  let levels : Word := BitVec.ofNat 64 (word h 8)
  let ws := levelWidths levels
  let cores := bits ctl 16 8
  let count := if word h 16 = 0 then 2 ^ ws.sum else word h 16
  let span := 2 ^ (ws.take (bits ctl 2 3)).sum
  { id := s.front.nextId, fn := fn, queue := queue, entryNo := entryNo, graph := graph, ord := ord, recAddr := a,
    entry := BitVec.ofNat 56 (word h 0), levels := levels, count := count,
    args := (List.range 6).map fun i => BitVec.ofNat 64 (word h (32 + 8 * i)), done := BitVec.ofNat 64 (word h 80),
    savelen := bits (word h 88) 0 16, qlimit := bits ctl 48 7, vatlen := if bits ctl 32 16 = 0 then 65536 else bits ctl 32 16,
    cores := if cores = 0 then 255 else cores, matw := bits ctl 8 4, teamlv := bits ctl 2 3, prio := bits ctl 0 2, dks := [],
    teams := (count + span - 1) / span, placed := 0, retired := [], gone := [], home := none, started := false,
    taken := takenAt s graph, link := false, abort := none, ended := false }

/-- A non-zero width follows a zero one, or a width is above 64 (R289). -/
def widthsBad (levels : Word) : Bool :=
  let ws := (List.range 6).map (levelWidth levels)
  ws.any (64 < ·) || (List.range 5).any fun i => ws.getD i 0 == 0 && ws.getD (i + 1) 0 != 0

/-- R289: the checks of the header itself, of which a launch that fails any is rejected. -/
def headerOk (h : List Byte) (l : Launch) : Bool :=
  let e := word h 0
  let ctl := word h 24
  let ws := levelWidths l.levels
  bits e 56 8 == 0 && bits e 0 2 == 0 && !widthsBad l.levels && !ws.isEmpty && ws.sum ≤ 64 && l.teamlv ≤ ws.length
    && l.count ≤ 2 ^ ws.sum && bits ctl 24 7 ≤ 64 && l.teams ≤ 65536 && l.vatlen + l.savelen ≤ 65536
    && (l.savelen == 0 || 200 + 4144 * ((List.range 8).filter (hasCore l.cores)).length ≤ l.savelen)
    && bits (word h 8) 42 22 == 0 && bits ctl 55 9 == 0 && bits ctl 31 1 == 0 && bits ctl 12 4 == 0 && bits ctl 5 3 == 0
    && bits (word h 88) 16 48 == 0 && (h.drop 96).all (· == 0)

/-- The address of a launch record or graph header: 64-byte aligned, view byte 0x00 (R285). -/
def recAddrOk (a : Word) : Bool := bits a.toNat 0 6 == 0 && bits a.toNat 56 8 == 0

/-- The deckle records of the pairs, each checked by R21. -/
def readDeckles (fn : Nat) (rec : Trap) : Nat → State → Word → Nat → List (Nat × BitVec 512) → Fe (List (Nat × BitVec 512))
  | 0, s, _, _, got => .ok (s, .ok got)
  | fuel + 1, s, a, n, got =>
    if n = 0 then .ok (s, .ok got)
    else match feGet s fn a 16 with
      | .error w => .error w
      | .ok (s1, .error t) => .ok (s1, .error t)
      | .ok (s1, .ok b) => match pairOf b with
        | none => .ok (s1, .error rec)
        | some (da, hd) => match feGet s1 fn da 64 with
          | .error w => .error w
          | .ok (s2, .error t) => .ok (s2, .error t)
          | .ok (s2, .ok d) =>
            let r : DkRec := BitVec.ofNat 512 (ofBytes d)
            if dkOk r then readDeckles fn rec fuel s2 (addrPlus a 16) (n - 1) (got ++ [(hd, r)])
            else .ok (s2, .error rec)

/-- A launch that is rejected: its record reads REJECTED if its header was read, and a fault record is posted. -/
def reject (s : State) (l : Option Launch) (fn : Nat) (t : Trap) : Fr State :=
  match l with
  | none => .ok (fePost s fn t)
  | some l => (endWrite s { l with teams := 0 } stRejected t.cause.code true).map fun s1 => fePost s1 fn t

/-- LAUNCH_TAKE (R289, R294, R370). The flag tells that the launch lives; a rejected one has ended. -/
def takeLaunch (s0 : State) (fn queue entryNo : Nat) (graph : Option (Nat × Nat)) (ord : Bool) (a : Word) :
    Fr (State × Bool) :=
  let s := s0.tally (some (vdPart s0 fn)) 39 1
  let bad := trapOf .operand a
  let dead := fun (r : Fr State) => r.map fun t => (t, false)
  if !recAddrOk a then dead (reject s none fn bad)
  else match feGet s fn a 128 with
    | .error w => .error w
    | .ok (s1, .error t) => dead (reject s1 none fn t)
    | .ok (s1, .ok h) =>
      let l := launchFrom s1 fn queue entryNo graph ord a h
      if !headerOk h l then dead (reject s1 (some l) fn bad)
      else match readDeckles fn bad 65 s1 (addrPlus a 128) (bits (word h 24) 24 7) [] with
        | .error w => .error w
        | .ok (s2, .error t) => dead (reject s2 (some l) fn t)
        | .ok (s2, .ok dks) =>
          let l1 := { l with dks := dks }
          match doneWrite s2 l1 [(l1.done, freshRecord l1 stPending 0)] with
          | .error w => .error w
          | .ok (s3, _) =>
            .ok (s3.setFront { s3.front with launches := s3.front.launches ++ [l1], nextId := s3.front.nextId + 1 }, true)

/-! ### Graphs (R295, R296) -/

def State.setReplay (s : State) (r : Replay) : State :=
  s.setFront { s.front with replays := s.front.replays.map fun x => if x.id = r.id then r else x }

/-- What a graph node's entry tells: its two records and the nodes it waits for. -/
structure Node where
  param0 : Word
  param1 : Word
  deps : List Nat
  ok : Bool

def nodeFrom (b : List Byte) : Node :=
  let n := bits (word b 16) 0 16
  { param0 := BitVec.ofNat 64 (word b 0), param1 := BitVec.ofNat 64 (word b 8),
    deps := (List.range (min n 8)).map fun i => ofBytes ((b.drop (18 + 2 * i)).take 2), ok := n ≤ 8 }

/-- BUSYg of a header changed by one. A failed access posts its record and changes nothing. -/
def busyStep (s : State) (r : Replay) (up : Bool) : Fr State :=
  let a := addrPlus r.header (16 + 4 * r.gen)
  match feGet s r.fn a 4 with
  | .error w => .error w
  | .ok (s1, .error t) => .ok (fePost s1 r.fn t)
  | .ok (s1, .ok b) =>
    let v := if up then ofBytes b + 1 else ofBytes b + (2 ^ 32 - 1)
    match fePut s1 r.fn [(a, toBytes 4 (v % 2 ^ 32))] with
    | .error w => .error w
    | .ok (s2, .error t) => .ok (fePost s2 r.fn t)
    | .ok (s2, .ok ()) => .ok s2

/-- One node dispatched as a launch from its generation's record; a node that is rejected, or whose entry cannot be
read, has ended (R289, R295). -/
def dispatchNode (s : State) (r : Replay) (i : Nat) : Fr State :=
  match feGet s r.fn (addrPlus r.nodes (64 * i)) 64 with
  | .error w => .error w
  | .ok (s1, .error t) => .ok ((fePost s1 r.fn t).setReplay { r with ended := r.ended ++ [i] })
  | .ok (s1, .ok b) =>
    let n := nodeFrom b
    if !n.ok then
      .ok ((fePost s1 r.fn (trapOf .operand (addrPlus r.nodes (64 * i)))).setReplay { r with ended := r.ended ++ [i] })
    else if !(n.deps.all r.ended.contains) then .ok s1
    else match takeLaunch s1 r.fn r.queue r.entryNo (some (r.id, i)) r.ord (if r.gen = 0 then n.param0 else n.param1) with
      | .error w => .error w
      | .ok (s2, true) => .ok (s2.setReplay { r with running := r.running ++ [(i, s1.front.nextId)] })
      | .ok (s2, false) => .ok (s2.setReplay { r with ended := r.ended ++ [i] })

/-- Nodes neither running nor ended, tried once each in ascending order. -/
def sweepNodes (id : Nat) : List Nat → State → Fr State
  | [], s => .ok s
  | i :: l, s => match replayOf s id with
    | none => .ok s
    | some r =>
      if r.ended.contains i || r.running.any (·.1 == i) then sweepNodes id l s
      else match dispatchNode s r i with
        | .error w => .error w
        | .ok s1 => sweepNodes id l s1

/-- Sweep until nothing more can be dispatched; a replay whose nodes have all ended gives BUSYg back and is over. -/
def runReplay (id : Nat) : Nat → State → Fr State
  | 0, s => .ok s
  | fuel + 1, s => match replayOf s id with
    | none => .ok s
    | some r => match sweepNodes id (List.range r.nnode) s with
      | .error w => .error w
      | .ok s1 => match replayOf s1 id with
        | none => .ok s1
        | some r1 =>
          if r1.nnode ≤ r1.ended.length then
            (busyStep s1 r1 false).map fun s2 =>
              s2.setFront { s2.front with replays := s2.front.replays.filter (·.id != id) }
          else if r1.ended.length = r.ended.length then .ok s1
          else runReplay id fuel s1

/-- A graph replay taken: the generation latched, BUSYg raised, its first nodes dispatched (R296). A header that cannot
be read, or whose node count is out of range, is skipped with its record. -/
def takeReplay (s : State) (fn queue entryNo : Nat) (ord : Bool) (a : Word) : Fr State :=
  if !recAddrOk a then .ok (fePost s fn (trapOf .operand a))
  else match feGet s fn a 64 with
    | .error w => .error w
    | .ok (s1, .error t) => .ok (fePost s1 fn t)
    | .ok (s1, .ok h) =>
      let n := ofBytes ((h.drop 8).take 4)
      if n = 0 ∨ 4096 < n then .ok (fePost s1 fn (trapOf .operand a))
      else
        let r : Replay :=
          { id := s1.front.nextId, taken := s1.cyc, fn := fn, queue := queue, entryNo := entryNo, ord := ord, header := a,
            nodes := BitVec.ofNat 64 (word h 0), nnode := n, gen := bits (word h 8) 32 1, running := [], ended := [] }
        match busyStep s1 r true with
        | .error w => .error w
        | .ok s2 =>
          runReplay r.id (n + 1)
            (s2.setFront { s2.front with replays := s2.front.replays ++ [r], nextId := s2.front.nextId + 1 })

/-! ### A launch's end (R294, R303) -/

/-- The node of a launch that has ended no longer runs. -/
def endNode (s : State) (l : Launch) : Fr State :=
  match l.graph with
  | none => .ok s
  | some (rid, i) => match replayOf s rid with
    | none => .ok s
    | some r =>
      runReplay rid (r.nnode + 1)
        (s.setReplay { r with running := r.running.filter (·.1 != i), ended := r.ended ++ [i] })

/-- A launch whose every team has retired or gone ends: STATUS is written last, its vector fires, and its graph goes
on. -/
def endIfDone (s : State) (id : Nat) : Fr State :=
  match launchOf s id with
  | none => .ok s
  | some l =>
    if l.retired.length + l.gone.length < l.teams then .ok s
    else
      let f := finalStatus l
      match endWrite s l f.1 f.2 false with
      | .error w => .error w
      | .ok s1 => endNode (s1.setFront { s1.front with launches := s1.front.launches.filter (·.id != id) }) l

/-! ### Ring entries (R285, R286, R400) -/

def queueKey (fn q : Nat) : Nat := 16 * fn + q

def lqueue (s : State) (fn q : Nat) : LQueue := Sparse.get LQueue.reset s.front.queues (queueKey fn q)

def setLqueue (s : State) (fn q : Nat) (x : LQueue) : State :=
  s.setFront { s.front with queues := Sparse.set LQueue.reset s.front.queues (queueKey fn q) x }

/-- One entry taken. A skipped entry has its record, and counts as ended (R400). -/
def takeEntry (s0 : State) (fn q : Nat) : Fr State :=
  let x := lqueue s0 fn q
  let a := addrPlus x.base (16 * (x.cons.toNat % 2 ^ x.log.toNat))
  let s := setLqueue s0 fn q { x with cons := x.cons + 1 }
  match feGet s fn a 16 with
  | .error w => .error w
  | .ok (s1, .error t) => .ok (fePost s1 fn t)
  | .ok (s1, .ok b) =>
    let addr : Word := BitVec.ofNat 64 (word b 0)
    let ord := bits (word b 8) 1 1 == 1
    if bits (word b 8) 0 1 = 1 then takeReplay s1 fn q x.cons.toNat ord addr
    else (takeLaunch s1 fn q x.cons.toNat none ord addr).map (·.1)

def takeEntries (fn q : Nat) : Nat → State → Fr State
  | 0, s => .ok s
  | n + 1, s => match takeEntry s fn q with
    | .error w => .error w
    | .ok s1 => takeEntries fn q n s1

/-- To act on a kick (R286): every new entry, or the record of a producer index too far ahead (R285). QLOG outside 4 to
16 takes no entry (R361). -/
def actKick (s : State) (fn q : Nat) : Fr State :=
  let x := lqueue s fn q
  let n := (x.kick - x.cons).toNat
  if x.log.toNat < 4 ∨ 16 < x.log.toNat then .ok s
  else if 2 ^ x.log.toNat < n then .ok (fePost (setLqueue s fn q { x with kick := x.prod }) fn (operandAt q))
  else takeEntries fn q n (setLqueue s fn q { x with prod := x.kick })

def setPending (s : State) (fn : Nat) (m : BitVec 16) : State :=
  s.setFront { s.front with pending := Sparse.set 0 s.front.pending fn m }

/-- KICK: a write to a kick page. -/
def execKick (fn q : Nat) (v : Word) (s : State) : Out :=
  if !s.dev.ready || !barsOpen s .host fn || 16 ≤ q || 256 ≤ fn then .next s
  else
    let x := lqueue s fn q
    let s1 := setLqueue s fn q { x with kick := v.setWidth 32 }
    if vdSched s fn then asOut s (actKick s1 fn q)
    else .next (setPending s1 fn (Sparse.get 0 s.front.pending fn ||| BitVec.ofNat 16 (2 ^ q)))

/-- GRAPH_COMMIT: CURGEN ← 1 − CURGEN (R296). A failed access posts its record. The manual says nothing of a header address
with a view byte or off its alignment: the model makes the access there as it stands (log 132). -/
def execGraphCommit (fn : Nat) (a : Word) (s : State) : Out :=
  if !s.dev.ready || !barsOpen s .host fn || 256 ≤ fn then .next s
  else asOut s (match feGet s fn (addrPlus a 12) 1 with
    | .error w => .error w
    | .ok (s1, .error t) => .ok (fePost s1 fn t)
    | .ok (s1, .ok b) => match fePut s1 fn [(addrPlus a 12, [(b.getD 0 0) ^^^ 1])] with
      | .error w => .error w
      | .ok (s2, .error t) => .ok (fePost s2 fn t)
      | .ok (s2, .ok ()) => .ok s2)

/-! ### Scheduling commands (R286, R361) -/

def setSched (s : State) (fn : Nat) (v : Bool) : State :=
  s.setFront { s.front with
    vdt := Sparse.set 0 s.front.vdt fn (BitVec.ofNat 128 (vdt s fn % 2 ^ 63 + bit1 v * 2 ^ 63)) }

/-- The pending bits taken in ascending order. -/
def takePending (fn : Nat) : List Nat → State → Fr State
  | [], s => .ok s
  | q :: l, s =>
    let m := Sparse.get 0 s.front.pending fn
    if m.getLsbD q then
      match actKick (setPending s fn (m &&& ~~~(BitVec.ofNat 16 (2 ^ q)))) fn q with
      | .error w => .error w
      | .ok s1 => takePending fn l s1
    else takePending fn l s

def execSchedule (fn : Nat) (s : State) : Out :=
  if !barsOpen s .host fn || 256 ≤ fn then .next s else asOut s (takePending fn (List.range 16) (setSched s fn true))

def execDeschedule (fn : Nat) (s : State) : Out :=
  if !barsOpen s .host fn || 256 ≤ fn then .next s else .next (setSched s fn false)

end Sys2Proof.Machine
end

