-- ==== Sys2Proof/Machine/System.lean ====
section
/-! DEFINITION. System instructions: SRD, SWR, TRAP, ERET, TLBI, CWB, CINV, FLUSHTAG, MREAD and IDLE, with the
events that end their waits, page walks, and the Write-back, Drop and drain moves (R13 to R15, R154, R191, R276 to
R283, R326, R327, R330, R373). -/
namespace Sys2Proof.Machine

/-! ### The capability window (R373) -/

/-- Entry i of the list: its parameter word. -/
def capParam (i : Nat) : Nat :=
  match i with
  | 0 => 0x4768 + Config.stepping.toNat * 2 ^ 16
  | 1 => 32 + 16 * 2 ^ 8 + 8 * 2 ^ 16
  | 2 => 4 + 128 * 2 ^ 8 + 8 * 2 ^ 16 + 16 * 2 ^ 24 + 8 * 2 ^ 32 + 2 * 2 ^ 40
  | 3 => 0x1010FFC + 0b111 * 2 ^ 32 + 2 ^ 35
  | 4 => 16 + 512 * 2 ^ 8 + 16128 * 2 ^ 24
  | 5 => 48 + 2 ^ 8 + 2 ^ 16
  | _ => 0

/-- Header of entry i: TYPE i + 1, LEN 2, NEXT, VER 1. -/
def capHeader (i : Nat) : Nat := (i + 1) + 2 * 2 ^ 8 + (if i = 5 then 0 else 0x102 + 2 * i) * 2 ^ 16 + 2 ^ 32

/-- CAPW at an index from 0x100 to 0x1FF. -/
def capWord (x : Nat) : Word :=
  let i := (x - 0x100) / 2
  if 6 ≤ i then 0 else BitVec.ofNat 64 (if x % 2 = 0 then capHeader i else capParam i)

/-! ### Special registers (R14, R15) -/

/-- TASK: the tag and bit 16 of a slot that belongs to a task. -/
def taskWord (c : Ctx) : Word :=
  match c.task with
  | some t => BitVec.ofNat 64 (t.toNat + 2 ^ 16)
  | none => 0

/-- A special register as SRD reads it; none for a reserved index. -/
def specRead (s : State) (pos : Nat) (x : Nat) : Option Word :=
  let c := s.ctx pos
  if x = 0 then some (posWord s pos)
  else if x = 1 then some (widRead c)
  else if x = 2 then some (c.slotgen.setWidth 64)
  else if x = 3 then some (BitVec.ofNat 64 s.cyc)
  else if x = 4 then some (c.st &&& stFields)
  else if x = 5 then some c.seed
  else if x = 6 then some (taskWord c)
  else if 0x100 ≤ x ∧ x ≤ 0x1FF then some (capWord x)
  else none

def execSrd (g : Guard) (rd : Reg) (spec : BitVec 12) (s : State) : Out :=
  guarded g false 8 s fun c =>
    match specRead s s.cur spec.toNat with
    | some v => ok (retire s (c.setReg rd v) 8)
    | none => bad s (operand spec.toNat)

/-- The bits of ST that SWR writes: P[7:1], DAZ, FTZ, the sticky flags, RM and LB (R13). -/
def swrMask : Word := 0x271FC0FE

def execSwr (g : Guard) (spec : BitVec 12) (ra : Reg) (s : State) : Out :=
  guarded g false 8 s fun c =>
    let v := c.reg ra
    if spec = 4 then
      if 5 ≤ stField v 24 3 then bad s (operand v.toNat)
      else ok (retire s { c with st := (c.st &&& ~~~swrMask) ||| (v &&& swrMask) } 8)
    else if spec = 5 then ok (retire s { c with seed := v } 8)
    else bad s (operand spec.toNat)

/-! ### TRAP and ERET (R276 to R278) -/

def execTrap (g : Guard) (imm : BitVec 20) (s : State) : Out :=
  guarded g false 8 s fun _ => bad s (trapOf .software (imm.setWidth 64))

/-- The info of a PRIVILEGE trap is not given: a free value (log 7). -/
def notService (s : State) : Eff := bad s (trapOf .privilege (freeInfo .privilege 0))

/-- ERET in service mode: the record answered, ST.SV cleared (R278). -/
def eretWith (s : State) (c : Ctx) (h : Word) (a : Answer) : Eff :=
  if !stSV c.st then notService s
  else match (partOf s s.cur).bind fun n => (findRec s n h).map fun r => (n, r) with
    | none => bad s (operand h.toNat)
    | some (n, r) =>
      let s1 := answerRec s n r a
      let c1 := s1.ctx s1.cur
      ok (retire s1 { c1 with st := putBits c1.st 63 1 0 } 8)

def execEret (g : Guard) (ra : Reg) (s : State) : Out :=
  guarded g false 8 s fun c => eretWith s c (c.reg ra) .resume

def execEretSt (g : Guard) (ra rb : Reg) (s : State) : Out :=
  guarded g false 8 s fun c => eretWith s c (c.reg ra) (.resumeSt (c.reg rb))

/-- With both bits of the operand set, ABORT is taken and ST is not used (log 31). -/
def execEretAbort (g : Guard) (ra : Reg) (_st : Option Reg) (s : State) : Out :=
  guarded g false 8 s fun c => eretWith s c (c.reg ra) .abort

/-! ### TLBI (R279) -/

/-- Identifiers that a partition owns (R320). -/
def ownsAsid (s : State) (n asid : Nat) : Bool :=
  let r := Sparse.get Root.reset s.front.roots asid
  r.valid && r.part == n

/-- Drop translations and non-leaf entries from every TLB and walk cache of the device. -/
def dropTlbs (s : State) (leaf : Tlb → Bool) (node : WalkEntry → Bool) : State :=
  { s with
    cores := (s.cores.map fun e => (e.1, { e.2 with tlb := e.2.tlb.filter fun t => !leaf t })).filter fun e => e.2 ≠ Core.reset
    quires := (s.quires.map fun e => (e.1, { e.2 with tlb := e.2.tlb.filter fun t => !leaf t })).filter
      fun e => e.2 ≠ Quire.reset
    dies := (s.dies.map fun e => (e.1, { e.2 with walks := e.2.walks.filter fun t => !node t })).filter
      fun e => e.2 ≠ Die.reset }

/-- Whether a cached page, or the span that a cached table serves, meets the addresses lo to hi. -/
def tlbMeets (lo hi : Nat) (t : Tlb) : Bool := t.va ≤ hi && lo < t.va + pageSize t.leaf.size
def nodeMeets (lo hi : Nat) (e : WalkEntry) : Bool :=
  let sz := 2 ^ levelShift (e.level + 1)
  e.va * sz ≤ hi && lo < (e.va + 1) * sz

/-- The identifier of a TLBI, or none for the OPERAND case. -/
def tlbiAsid? (s : State) (v : Word) : Option Nat :=
  match partOf s s.cur with
  | some n => if v.toNat < 1024 ∧ ownsAsid s n v.toNat then some v.toNat else none
  | none => none

/-- A TLBI in service mode on one identifier. -/
def tlbiWith (s : State) (c : Ctx) (ra : Reg) (body : Nat → State) : Eff :=
  if !stSV c.st then notService s
  else match tlbiAsid? s (c.reg ra) with
    | none => bad s (operand (c.reg ra).toNat)
    | some a => ok (retireAt (body a) s.cur 8)

def execTlbiAsid (g : Guard) (ra : Reg) (s : State) : Out :=
  guarded g false 8 s fun c => tlbiWith s c ra fun a => dropTlbs s (·.asid == a) (·.asid == a)

def execTlbiAddr (g : Guard) (ra rb : Reg) (s : State) : Out :=
  guarded g false 8 s fun c => tlbiWith s c ra fun a =>
    let v := bits (c.reg rb).toNat 0 56
    dropTlbs s (fun t => t.asid == a && tlbMeets v v t) (fun e => e.asid == a && nodeMeets v v e)

def execTlbiRange (g : Guard) (ra rb : Reg) (n : BitVec 20) (s : State) : Out :=
  guarded g false 8 s fun c =>
    if stSV c.st && n == 0 then bad s (operand 0)
    else tlbiWith s c ra fun a =>
      let lo := bits (c.reg rb).toNat 0 56
      let hi := lo + n.toNat * 4096 - 1
      dropTlbs s (fun t => t.asid == a && tlbMeets lo hi t) (fun e => e.asid == a && nodeMeets lo hi e)

/-- Leaves of one KIND; non-leaf entries carry no kind. -/
def execTlbiKind (g : Guard) (ra : Reg) (k : BitVec 3) (s : State) : Out :=
  guarded g false 8 s fun c =>
    if stSV c.st && 5 ≤ k.toNat then bad s (operand k.toNat)
    else tlbiWith s c ra fun a => dropTlbs s (fun t => t.asid == a && t.leaf.kind.code == k.toNat) fun _ => false

def execTlbiAll (g : Guard) (s : State) : Out :=
  guarded g false 8 s fun c =>
    if !stSV c.st then notService s
    else match partOf s s.cur with
      | none => ok (retire s c 8)
      | some n => ok (retireAt (dropTlbs s (fun t => ownsAsid s n t.asid) fun e => ownsAsid s n e.asid) s.cur 8)

/-! ### CWB and CINV (R280) -/

/-- The pages of a range, resolved with READ: location and bytes of each; or the trap, none where a walk must wait. -/
def resolveRange (w : Who) : Nat → State → Word → Nat → State × Except Stop (List (Loc × Nat))
  | 0, s, _, _ => (s, .ok [])
  | fuel + 1, s, a, n =>
    if n = 0 then (s, .ok [])
    else match resolve s w a .read with
      | (s1, .error t) => (s1, .error t)
      | (s1, .ok (.remote _)) => (s1, .error (some (accTrap .address a .read 0)))
      | (s1, .ok (.locs [])) => (s1, .error (some (accTrap .translation a .read 2)))
      | (s1, .ok (.locs (l :: _))) =>
        let k := min n (((pageSpan s1 w a).map (·.2.1)).getD n)
        match resolveRange w fuel s1 (addrPlus a k) (n - k) with
        | (s2, .ok r) => (s2, .ok ((l, k) :: r))
        | (s2, .error t) => (s2, .error t)

/-- Whether a line holds a byte of a piece. -/
def lineIn (line : Nat) (p : Loc × Nat) : Bool := lineOf p.1.pa ≤ line && line ≤ lineOf (p.1.pa + (p.2 - 1))

/-- The body of CWB and CINV: nothing for a length of 0, a check of the length, then every line. While a line is not done,
`left` tells, the context stays out of the rotation. -/
def rangeOp (s : State) (c : Ctx) (ra rb : Reg) (body : State → List (Loc × Nat) → State)
    (left : State → List (Loc × Nat) → Bool) : Eff :=
  let n := (c.reg rb).toNat
  if n = 0 then ok (retire s c 8)
  else if 2 ^ 30 < n then bad s (operand n)
  else match resolveRange (whoIs s s.cur) (n / 4096 + 2) s (c.reg ra) n with
    | (s1, .error (some t)) => bad s1 t
    | (s1, .error none) => waitRetest s1 s1.cur
    | (s1, .ok l) =>
      let s2 := body s1 l
      if left s2 l then waitRetest s2 s2.cur else ok (retireAt s2 s.cur 8)

def isScoped (c : Coh) : Bool := c == .scopedQ || c == .scopedD

/-- Copies of a piece's lines at its scope. -/
def pieceCopies (s : State) (q : Nat) (p : Loc × Nat) : List Copy :=
  (copiesAt s q p.1.coh).filter fun c => lineIn c.line p

/-- CWB: on a SCOPED page no copy of the range remains, but one that a lease holds back; elsewhere the move is timing only
(R151). -/
def cleanPiece (q : Nat) (s : State) (p : Loc × Nat) : State :=
  if isScoped p.1.coh then evictAll s q p.1.coh (pieceCopies s q p) else s

/-- A copy of the range still stands: its Write-back waits behind a lease (R161). -/
def copiesLeft (q : Nat) (s : State) (l : List (Loc × Nat)) : Bool :=
  l.any fun p => isScoped p.1.coh && !(pieceCopies s q p).isEmpty

/-- CINV on a SCOPED page drops the copies whose mask is clear. -/
def dropPiece (q : Nat) (s : State) (p : Loc × Nat) : State :=
  if isScoped p.1.coh then evictAll s q p.1.coh ((pieceCopies s q p).filter (·.mask == 0)) else s

/-- A block discarded: it serves no further issue, and its bytes stay for a record's ENC only. -/
def staleBlock (lo hi : Nat) (b : Block) : Block :=
  if b.addr < hi ∧ lo < b.addr + 32 ∧ b.addr % 2 = 0 then { b with addr := b.addr + 1 } else b

/-- CINV on the fetch side: the quire's L1I copies of the lines go, and so do the fetch blocks that its contexts hold
in the range of virtual addresses, widened to whole lines. -/
def dropCode (s : State) (q va n : Nat) (l : List (Loc × Nat)) : State :=
  let lo := va / 128 * 128
  let hi := (va + n + 127) / 128 * 128
  let x := s.quire q
  let s1 := s.setQuire q { x with l1i := x.l1i.filter fun e => !(l.any fun p => lineIn (e.1 / 4) p) }
  { s1 with ctxs := s1.ctxs.map fun e =>
      if quireOf e.1 = q then
        (e.1, { e.2 with block := e.2.block.map (staleBlock lo hi), ahead := e.2.ahead.map (staleBlock lo hi) })
      else e }

def execCwb (g : Guard) (ra rb : Reg) (s : State) : Out :=
  guarded g false 8 s fun c => rangeOp s c ra rb (fun s l => l.foldl (cleanPiece (quireOf s.cur)) s) (copiesLeft (quireOf s.cur))

def execCinv (g : Guard) (ra rb : Reg) (s : State) : Out :=
  guarded g false 8 s fun c => rangeOp s c ra rb (fun s l =>
    dropCode (l.foldl (dropPiece (quireOf s.cur)) s) (quireOf s.cur) (bits (c.reg ra).toNat 0 56) (c.reg rb).toNat l)
    fun _ _ => false

/-! ### FLUSHTAG (R281) -/

/-- The copies of a quire that a tag's flush covers. -/
def flushCopies (s : State) (q : Nat) (tag : BitVec 16) : List Copy :=
  (s.quire q).copies.filter (copyIsTasks (some tag) (partOfQuire s q))

/-- They are written back and dropped. -/
def flushQuire (s : State) (q : Nat) (tag : BitVec 16) : State := evictAll s q .scopedQ (flushCopies s q tag)

def execFlushtag (g : Guard) (quire : BitVec 7) (ra : Reg) (s : State) : Out :=
  guarded g false 8 s fun c =>
    let q := quireOf s.cur
    let r := quire.toNat
    if !stSV c.st then notService s
    else if 2 ^ 16 ≤ (c.reg ra).toNat ∨ partOfQuire s r ≠ partOf s s.cur
        ∨ (r ≠ q ∧ !(Sparse.get 0 s.front.perm q).getLsbD r) then bad s (operand r)
    else ok (s.setCtx s.cur { c with wait := .flush r ((c.reg ra).setWidth 16) })

def waitsFlush (q : Nat) (tag : BitVec 16) (e : Nat × Ctx) : Bool := e.2.run == .running && e.2.wait == .flush q tag

/-- FLUSHTAG_ACK: the quire's copies of the tag go; with the last of them, contexts that wait for this go on, and a task that
has moved away from the quire may reach SCOPED pages (R281, R301). -/
def execFlushtagAck (q : Nat) (tag : BitVec 16) (s : State) : Out :=
  let l := s.ctxs.filter (waitsFlush q tag)
  let s1 := flushQuire s q tag
  let s2 := s1.setFront { s1.front with
    flushing := s1.front.flushing.filter (· != (q, tag))
    tasks := s1.front.tasks.map fun t => if t.tag = tag ∧ t.oldQuire = some q then { t with oldQuire := none } else t }
  if l.isEmpty && !s.front.flushing.contains (q, tag) then .fault (.notEnabled "no flush of this tag is asked of the quire")
  else if (flushCopies s1 q tag).isEmpty then .next (l.foldl (fun s e => resumePast s e.1 8) s2)
  else when (s1 != s) "a copy's write-back waits behind a lease" s1

/-! ### MREAD (R282, R370) -/

/-- The lag of the counters' readings: at most 64 cycles. -/
def meterLag : Nat := min 64 (Config.lag 0)

/-- A counter's value as read: without the events of the lag. -/
def meterValue (s : State) (part idx : Nat) : BitVec 64 :=
  let key := 48 * part + idx
  let late := (s.assize.recent.filter fun e => e.2.1 == key && s.cyc < e.1 + meterLag).map (·.2.2)
  Sparse.get 0 s.assize.total key - BitVec.ofNat 64 late.sum

def execMread (g : Guard) (rd : Reg) (idx : BitVec 6) (s : State) : Out :=
  guarded g false 8 s fun c =>
    if 48 ≤ idx.toNat then bad s (operand idx.toNat)
    else ok (retire s (c.setReg rd (match partOf s s.cur with
      | some n => meterValue s n idx.toNat
      | none => 0)) 8)

/-! ### IDLE and the delivery of records (R283, R330) -/

/-- The position of a partition's designated service context: a non-head one (R330, R365). -/
def servicePos (s : State) (n : Nat) : Option Nat :=
  let v := (s.part n).svc
  let pos := bits v.toNat 0 14
  if v.getLsbD 15 && slotOf pos != 0 then some pos else none

def isService (s : State) (pos : Nat) : Bool :=
  match partOf s pos with
  | some n => servicePos s n == some pos
  | none => false

def execIdle (g : Guard) (n : BitVec 20) (s : State) : Out :=
  guarded g false 8 s fun c =>
    if n = 0 then
      if isService s s.cur then ok (s.setCtx s.cur { c with wait := .service }) else bad s (operand 0)
    else ok (s.setCtx s.cur { c with wait := .idle (s.cyc + 64 * n.toNat) })

def execIdleExpiry (pos : Nat) (s : State) : Out :=
  let c := s.ctx pos
  match c.wait with
  | .idle till => when (c.run == .running && till ≤ s.cyc) "IDLE still runs" (resumePast s pos 8)
  | _ => .fault (.notEnabled "no IDLE runs")

/-- The oldest undelivered record reaches the service context, which goes on in service mode. -/
def deliverRec (s : State) (n pos : Nat) (r : FRec) : State :=
  let p := s.part n
  let s1 := s.setPart n { p with recs := p.recs.map fun x => if x.seq = r.seq then { x with delivered := true } else x }
  let c := s1.ctx pos
  let c1 := (c.setReg 1 r.seq).setReg 2 (BitVec.ofNat 64 r.slot)
  resumePast (s1.setCtx pos { c1 with st := putBits c1.st 63 1 1 }) pos 8

def execRecordDelivery (n : Nat) (s : State) : Out :=
  match servicePos s n, (s.part n).recs.find? fun r => !r.delivered with
  | some pos, some r =>
    let c := s.ctx pos
    when (c.run == .running && c.wait == .service && partOf s pos == some n) "the service context is not in IDLE 0"
      (deliverRec s n pos r)
  | _, _ => .fault (.notEnabled "no service context, or no undelivered record")

/-! ### Page walks (R326, R327) -/

/-- PAGE_WALK: a walk for a core whose context translates under the identifier and finds no cached leaf. -/
def execPageWalk (core asid : Nat) (va : BitVec 56) (s : State) : Out :=
  let w : Who := ⟨quireOfCore core, some core, some asid,
    let r := Sparse.get Root.reset s.front.roots asid
    if r.valid then some r.part else none⟩
  let uses := (List.range 16).any fun i =>
    (s.ctx (16 * core + i)).run == .running && asidOf s (16 * core + i) == some asid
  let hit := ((s.core core).tlb.find? (tlbHit asid va.toNat)).isSome
    || ((s.quire (quireOfCore core)).tlb.find? (tlbHit asid va.toNat)).isSome
  match pageWalk s w asid va.toNat with
  | (_, .error none) => .fault (.notEnabled "a table entry's read must wait")
  | (s1, _) => when (uses && !hit) "no context misses there" s1

/-! ### Write-back, Drop and the Write Queue's drain (R154, R191) -/

/-- The copy that a reference names, with the quire and scope under which its table is reached. -/
def copyAt (s : State) (r : CopyRef) : Option (Nat × Coh × Copy) :=
  let q := if r.ofDie then 32 * r.unit else r.unit
  let coh : Coh := if r.ofDie then .scopedD else .scopedQ
  (copyOf s q coh r.line).map fun c => (q, coh, c)

def execWriteBack (r : CopyRef) (s : State) : Out :=
  match copyAt s r with
  | some (q, coh, c) =>
    let t := evictCopy s q coh c
    when (c.mask != 0 && t != s) "the copy is clean, or its write-back waits behind a lease" t
  | none => .fault (.notEnabled "no such copy")

def execDrop (r : CopyRef) (s : State) : Out :=
  match copyAt s r with
  | some (q, coh, c) => when (c.mask == 0) "the copy holds masked bytes" (evictCopy s q coh c)
  | none => .fault (.notEnabled "no such copy")

/-- WRITE_QUEUE_DRAIN: the pending reductions of one entry are performed at the Home, in order; the line's other entries, if
any, stand before it (R191). -/
def execWriteQueueDrain (q line : Nat) (s : State) : Out :=
  when ((s.quire q).pend.any fun p => lineOf p.pa == line) "the entry holds no reduction" (drainLine s line)

end Sys2Proof.Machine
end

