-- ==== Sys2Proof/Machine/Place.lean ====
section
/-! DEFINITION. Teams placed, items dispatched, tasks ended, and a failed die link (R273, R290 to R294, R297, R303). -/
namespace Sys2Proof.Machine

/-! ### What a quire can take (R290, R291) -/

def residents (s : State) (q : Nat) : List Task := s.front.tasks.filter (·.quire == q)

/-- Units of a task's vat region. -/
def regionLen (t : Task) : Nat := t.vatlen + t.savelen

/-- The lowest free run of `n` units in a quire's vat. -/
def freeRun (s : State) (q n : Nat) : Option Nat :=
  let l := residents s q
  let ends := (0 :: l.map fun t => t.region + regionLen t).filter fun a =>
    a + n ≤ 65536 && l.all fun t => t.region + regionLen t ≤ a || a + n ≤ t.region
  ends.foldl (fun b a => match b with
    | some x => some (min x a)
    | none => some a) none

def sharesCore (a b : Nat) : Bool := (List.range 8).any fun i => hasCore a i && hasCore b i

/-- Running tasks of a quire that hold cores of a mask. -/
def coreHolders (s : State) (q cores : Nat) : List Task :=
  (residents s q).filter fun t => !t.parked && sharesCore t.cores cores

def inHandover (s : State) (tag : BitVec 16) : Bool := s.front.handovers.any fun h => h.out == tag || h.inn == some tag

/-- Quires that a launch occupies. -/
def launchQuires (s : State) (id : Nat) : List Nat :=
  ((s.front.tasks.filter (·.launch == id)).map (·.quire)).eraseDups

/-- QLIMIT counts the quires occupied after the placement. -/
def limitOk (s : State) (l : Launch) (q : Nat) : Bool :=
  let qs := launchQuires s l.id
  l.qlimit == 0 || qs.contains q || qs.length < l.qlimit

/-- A die whose direct link to the launch's home die has failed takes no further team (R303). -/
def cutOff (s : State) (l : Launch) (q : Nat) : Bool :=
  match l.home with
  | some h => linkDown s h (dieOfQuire q)
  | none => false

/-- R291's effective priority. -/
def effPrio (s : State) (n : Nat) (l : Launch) : Nat :=
  let age := (s.part n).age.toNat
  if age = 0 then l.prio else min 3 (l.prio + (s.cyc - l.taken) / (age * 65536))

/-- No team goes to a die while QCMD drains and scrubs its partition's slices there (R367). -/
def dieScrubbed (s : State) (q : Nat) : Bool := s.front.parts.any fun e => match e.2.busy with
  | some (_, k) => dieOfQuire k == dieOfQuire q && (k == q || partOfQuire s q == some e.1)
  | none => false

def roomFor (s : State) (l : Launch) (q : Nat) : Bool :=
  (residents s q).length < 4 && (freeRun s q (l.vatlen + l.savelen)).isSome && limitOk s l q && !cutOff s l q
    && !dieScrubbed s q

/-- A quire that can take a team at once (R291). -/
def canTake (s : State) (l : Launch) (q : Nat) : Bool := roomFor s l q && (coreHolders s q l.cores).isEmpty

/-- A quire whose running tasks would be handed over for a team of higher effective priority (R297). -/
def canPreempt (s : State) (n : Nat) (l : Launch) (q : Nat) : Bool :=
  roomFor s l q && (coreHolders s q l.cores).all fun t => t.savelen != 0 && t.prio < effPrio s n l && !inHandover s t.tag

/-- The quire that takes the launch's next team: the lowest that can take it at once, else the lowest that pre-empts. -/
def quireFor (s : State) (n : Nat) (l : Launch) : Option Nat :=
  match (quiresOf s n).find? (canTake s l) with
  | some q => some q
  | none => (quiresOf s n).find? (canPreempt s n l)

/-! ### The choice of a team (R291) -/

/-- The number of the ring entry that a launch came from, among the launches and replays taken. -/
def entryId (l : Launch) : Nat :=
  match l.graph with
  | some (r, _) => r
  | none => l.id

/-- ORD: every earlier entry of the queue has ended. -/
def ordMet (s : State) (l : Launch) : Bool :=
  !l.ord
  || (!(s.front.launches.any fun x => x.graph.isNone && x.fn == l.fn && x.queue == l.queue && x.id < entryId l)
      && !(s.front.replays.any fun r => r.fn == l.fn && r.queue == l.queue && r.id < entryId l))

def isCandidate (s : State) (n : Nat) (l : Launch) : Bool :=
  vdPart s l.fn == n && vdSched s l.fn && l.placed < l.teams && ordMet s l && (quireFor s n l).isSome

/-- The earlier of two launches of one function: lowest queue, then earliest entry. -/
def earlier (a b : Launch) : Launch :=
  if b.queue < a.queue ∨ (b.queue = a.queue ∧ (entryId b < entryId a ∨ (entryId b = entryId a ∧ b.id < a.id))) then b else a

/-- The function that weighted round robin grants, with the pointer and count after it (R237, R291). -/
def wrr (s : State) (n : Nat) (fns : List Nat) : Option (Nat × Nat) :=
  let p := s.part n
  if fns.contains p.rrPtr ∧ p.rrCnt < vdWeight s p.rrPtr then some (p.rrPtr, p.rrCnt + 1)
  else (((List.range 256).map fun i => (p.rrPtr + 1 + i) % 256).find? fns.contains).map fun f => (f, 1)

/-- The launch whose team is placed next, with the round robin's state. -/
def chooseLaunch (s : State) (n : Nat) : Option (Launch × Nat × Nat) :=
  let c := s.front.launches.filter (isCandidate s n)
  let top := c.foldl (fun m l => max m (effPrio s n l)) 0
  let c1 := c.filter fun l => effPrio s n l == top
  match wrr s n (c1.map (·.fn)) with
  | none => none
  | some (f, u) => match c1.filter (·.fn == f) with
    | [] => none
    | l :: r => some (r.foldl earlier l, f, u)

/-! ### TEAM_PLACE (R290, R294) -/

def tagUsed (s : State) (t : BitVec 16) : Bool := s.front.tasks.any (·.tag == t)

/-- A free tag: the device's choice, or the next one not in use. -/
def newTag (s : State) : State × BitVec 16 :=
  let f := s.fresh
  let t := Config.tag f.1
  (f.2, (((List.range 65536).map fun i => t + BitVec.ofNat 16 i).find? fun x => !tagUsed s x).getD t)

/-- Items per team. -/
def teamSpan (l : Launch) : Nat := 2 ^ ((levelWidths l.levels).take l.teamlv).sum

def newTask (s : State) (n : Nat) (l : Launch) (q run : Nat) (tag : BitVec 16) (parked : Bool) : Task :=
  { tag := tag, part := n, fn := l.fn, asid := vdAsid s l.fn, quire := q, launch := l.id, team := l.placed, cores := l.cores,
    region := run, vatlen := l.vatlen, savelen := l.savelen, ctrs := List.replicate 4 IterCtr.reset,
    nextItem := l.placed * teamSpan l, endItem := min ((l.placed + 1) * teamSpan l) l.count, wfw := [], parked := parked,
    since := s.cyc, weight := l.matw, prio := effPrio s n l, oldQuire := none, savedTiles := [], savedQueues := [],
    savedPriv := [], recorded := [], held := [], hasSave := false, late := [] }

/-- The first cycle from now on with CYC mod 16 = 1 (R298). -/
def handoverStart (cyc : Nat) : Nat := cyc + (17 - cyc % 16) % 16

def beginHandovers (s : State) (q : Nat) (outs : List Task) (inn : Option (BitVec 16)) : State :=
  s.setFront { s.front with
    handovers := s.front.handovers ++ outs.map fun o => ⟨q, o.cores, o.tag, inn, handoverStart s.cyc, [], []⟩ }

/-- A team placed: its task, its deckle pairs, and STATUS RUNNING at the first; the tasks in its way are handed
over. -/
def placeTeam (s : State) (n : Nat) (l : Launch) (q fn u : Nat) : Fr State :=
  match freeRun s q (l.vatlen + l.savelen) with
  | none => .error none
  | some run =>
    let outs := coreHolders s q l.cores
    let tg := newTag s
    let t := newTask s n l q run tg.2 (!outs.isEmpty)
    let s1 := tg.1.setFront { tg.1.front with tasks := tg.1.front.tasks ++ [t] }
    let s2 := l.dks.foldl (fun s e => setDeckle s q e.1 e.2) s1
    let l1 := { l with placed := l.placed + 1, home := some (l.home.getD (dieOfQuire q)), started := true }
    let s3 := (s2.setLaunch l1).setPart n { s2.part n with rrPtr := fn, rrCnt := u }
    let s4 := beginHandovers s3 q outs (some tg.2)
    if l.started then .ok s4
    else (doneWrite s4 l1 [(l1.done, statusBytes stRunning 0)]).map (·.1)

def execTeamPlace (n : Nat) (s : State) : Out :=
  match chooseLaunch s n with
  | none => .fault (.notEnabled "no team can be placed")
  | some (l, fn, u) => match quireFor s n l with
    | none => .fault (.notEnabled "no quire can take the team")
    | some q => asOut s (placeTeam s n l q fn u)

/-! ### ITEM_DISPATCH (R273, R292) -/

/-- A core of a handover in progress. -/
def coreMoves (s : State) (core : Nat) : Bool :=
  s.front.handovers.any fun h => h.quire == quireOfCore core
    && (hasCore h.cores (core % 8) || (h.inn.bind (taskOf s)).any fun t => hasCore t.cores (core % 8))

/-- The FREE head of the lowest core of a task. The manual does not say whether the head of a core whose handover is under way
counts as FREE; here it does not (log 133). -/
def freeHead (s : State) (t : Task) : Option Nat :=
  (((List.range 8).filter (hasCore t.cores)).map fun i => 8 * t.quire + i).find? fun c =>
    (s.ctx (16 * c)).run == .free && !coreMoves s c && !t.late.contains (16 * c)

/-- The item starts in a head context. -/
def dispatchHead (s : State) (t : Task) (l : Launch) (core : Nat) : State :=
  let pos := 16 * core
  let c := newThread (s.ctx pos) (some t.tag) l.entry (BitVec.ofNat 64 t.nextItem) l.levels 0 1 l.args
  startThread (s.setTask { t with nextItem := t.nextItem + 1 }) pos c

/-- The waiting context's registers as an item sets them: g1 to g6, then g[RD] ← 1. -/
def wfwRegs (c : Ctx) (args : List Word) (rd : Reg) : Ctx :=
  ((List.range 6).foldl (fun c i => c.setReg (BitVec.ofNat 4 (i + 1)) (args.getD i 0)) c).setReg rd 1

def wfwReg (c : Ctx) : Reg :=
  match c.wait with
  | .wfw rd => rd
  | _ => 0

/-- The item is delivered to the context that has waited longest in WFW; its posted writes follow its raised SLOTGEN, so that
a FENCE.S of the context still waits for them (R157, R273). -/
def dispatchWfw (s : State) (t : Task) (l : Launch) (pos : Nat) : State :=
  let s1 := s.setTask { t with nextItem := t.nextItem + 1, wfw := t.wfw.filter (· != pos) }
  let c := s1.ctx pos
  let c1 := wfwRegs c l.args (wfwReg c)
  let s2 := s1.setCtx pos { c1 with wid := BitVec.ofNat 64 t.nextItem, levels := l.levels, slotgen := c.slotgen + 1 }
  resumePast (renamePosted s2 pos c.slotgen pos (c.slotgen + 1)) pos 8

/-- When no item is left, every waiting WFW returns 0. -/
def releaseWfws (s : State) (tag : BitVec 16) : State :=
  match taskOf s tag with
  | none => s
  | some t =>
    if itemsLeft t then s
    else t.wfw.foldl (fun s pos =>
      let c := s.ctx pos
      resumePast (s.setCtx pos (c.setReg (wfwReg c) 0)) pos 8) (s.setTask { t with wfw := [] })

def execItemDispatch (tag : BitVec 16) (s : State) : Out :=
  match taskOf s tag with
  | none => .fault (.notEnabled "no such task")
  | some t => match launchOf s t.launch with
    | none => .fault (.notEnabled "its launch has ended")
    | some l =>
      if t.parked || !itemsLeft t then .fault (.notEnabled "no item to dispatch")
      else match freeHead s t with
        | some core => .next (releaseWfws (dispatchHead s t l core) tag)
        | none => match t.wfw with
          | pos :: _ => .next (releaseWfws (dispatchWfw s t l pos) tag)
          | [] => .fault (.notEnabled "no context can take an item")

/-! ### TASK_END (R293) -/

def isTask (tag : BitVec 16) (t : Option (BitVec 16)) : Bool := t == some tag

/-- A job or entry of the task's threads is left. -/
def workLeft (s : State) (tag : BitVec 16) : Bool :=
  s.quires.any (fun e => e.2.jobs.any fun j => isTask tag j.by_.task && !isRecv j)
  || s.cores.any fun e => e.2.queue.any fun x => isTask tag x.by_.task

/-- R293: the task ends. -/
def taskDone (s : State) (t : Task) : Bool :=
  !t.parked && !inHandover s t.tag && !itemsLeft t && t.late.isEmpty && !workLeft s t.tag
    && s.ctxs.all fun e => !(isTask t.tag e.2.task) || e.2.run == .halted || e.2.run == .free

/-- Whether a copy is one that a task's end writes back or drops (R293, R314). -/
def endsWith (t : Task) (c : Copy) : Bool := copyIsTasks (some t.tag) (some t.part) c

/-- The SCOPED copies of every quire and die that carry the task's tag, written back and dropped. -/
def flushTask (s : State) (t : Task) : State :=
  let s1 := s.quires.foldl (fun s e => evictAll s e.1 .scopedQ (e.2.copies.filter (endsWith t))) s
  s.dies.foldl (fun s e => evictAll s (32 * e.1) .scopedD (e.2.copies.filter (endsWith t))) s1

/-- A copy of the task still stands: its Write-back waits behind a lease. -/
def taskCopies (s : State) (t : Task) : Bool :=
  (s.quires.any fun e => e.2.copies.any (endsWith t)) || s.dies.any fun e => e.2.copies.any (endsWith t)

/-- Transfers still arriving for a task's tiles end as refused. -/
def endRecvs (s : State) (t : Task) : State :=
  let l := (s.quire t.quire).jobs.filter fun j => isRecv j && isTask t.tag j.by_.task
  l.foldl (fun s j => match j.kind with
    | .copyrRecv dev _ num _ _ _ _ => sendBend (dropJob s t.quire j.id) dev num j.by_.part true
    | _ => s) s

/-- Contexts, tiles, counters and vat region of a task freed. -/
def freeTask (s : State) (t : Task) : State :=
  let mine := s.ctxs.filter fun e => isTask t.tag e.2.task
  let s1 := mine.foldl (fun s e => freeSlot s e.1) (endRecvs s t)
  let q := s1.quire t.quire
  let s2 := s1.setQuire t.quire { q with tiles := q.tiles.filter fun e => !(isTask t.tag e.2.owner) }
  s2.setFront { s2.front with tasks := s2.front.tasks.filter (·.tag != t.tag) }

def execTaskEnd (tag : BitVec 16) (s : State) : Out :=
  match taskOf s tag with
  | none => .fault (.notEnabled "no such task")
  | some t =>
    let s0 := flushTask s t
    if !taskDone s t then .fault (.notEnabled "the task has not ended")
    else if taskCopies s0 t then when (s0 != s) "a copy's write-back waits behind a lease" s0
    else
      let s1 := (freeTask s0 t).tally (some t.part) 40 1
      asOut s (match launchOf s1 t.launch with
        | none => .ok s1
        | some l =>
          let l1 := { l with retired := l.retired ++ [t.team] }
          match doneWrite (s1.setLaunch l1) l1 (retireWrite l1 t.team) with
          | .error w => .error w
          | .ok (s2, _) => endIfDone s2 l.id)

/-! ### DIE_LINK_FAILURE (R303) -/

/-- A team cancelled: its contexts freed, its jobs and entries removed; its bit stays 0. A handover that it takes part in
goes on without it. -/
def cancelTask (s : State) (t : Task) : State :=
  let s1 := removeJobs s t.quire fun j => isTask t.tag j.by_.task && !isRecv j
  let s2 := (List.range 8).foldl (fun s i =>
    let core := 8 * t.quire + i
    let s2 := removeEntries s core fun e => isTask t.tag e.by_.task
    ((s2.core core).vec.filter fun v => isTask t.tag v.by_.task).foldl (fun s v => leaveVec s v.by_.pos) s2) s1
  let s4 := freeTask s2 t
  match launchOf s4 t.launch with
  | some l => s4.setLaunch { l with gone := l.gone ++ [t.team] }
  | none => s4

/-- Launches whose home die is one of the two are FAULTED with cause LINK; their teams across the link are cancelled. -/
def linkEffects (s : State) (d e : Nat) : State :=
  let hit := fun (l : Launch) => l.home == some d || l.home == some e
  let s1 := s.setFront { s.front with launches := s.front.launches.map fun l => if hit l then { l with link := true } else l }
  let cut := s1.front.tasks.filter fun t => match launchOf s1 t.launch with
    | some l => hit l && (match l.home with
        | some h => dieOfQuire t.quire != h && (dieOfQuire t.quire == d || dieOfQuire t.quire == e)
        | none => false)
    | none => false
  cut.foldl cancelTask s1

def endAll : List Nat → State → Fr State
  | [], s => .ok s
  | id :: r, s => match endIfDone s id with
    | .error w => .error w
    | .ok s1 => endAll r s1

def execDieLinkFailure (d e : Nat) (s : State) : Out :=
  if d < 4 ∧ e < 4 ∧ d ≠ e ∧ !linkDown s d e then
    let s1 := linkEffects (s.setFront { s.front with linksDown := s.front.linksDown ++ [(d, e)] }) d e
    asOut s (endAll (s1.front.launches.map (·.id)) s1)
  else .fault (.notEnabled "no link that still stands")

end Sys2Proof.Machine
end

