-- ==== Sys2Proof/Machine/Handover.lean ====
section
/-! DEFINITION. Pre-emption by slot handover: slots and heads saved and loaded, copy jobs of a parked task, the
accumulator exchange, restores in place and on another quire, and time slices (R297 to R301, R333 to R335). -/
namespace Sys2Proof.Machine

/-! ### A context at its handover (R298) -/

/-- The access in a context's Issue Port waits and is not being performed. -/
def portHeld (s : State) (pos : Nat) (c : Ctx) : Bool :=
  match c.port with
  | none => true
  | some p =>
    if p.sent || p.remote.isSome then false
    else match p.evs with
      | [] => true
      | ev :: _ => match ev.op with
        | .fence sc => !fenceDone s pos sc
        | _ => mustWait s (doerOf s pos) ev.pa ev.len ev.coh

/-- A context as it is handed over: an abandoned wait leaves PC at the instruction, IDLE ends with PC after it (R283);
none while it cannot be handed over yet. -/
def settled (s : State) (pos : Nat) : Option Ctx :=
  let c := s.ctx pos
  let c0 := { c with wait := .none, port := none }
  match c.wait with
  | .none | .retest | .waitline .. | .barWait .. | .align .. | .mwait _ | .wfw _ | .flush .. => some c0
  | .idle _ | .service => some { c0 with pc := c.pc + 8 }
  | .vector _ | .migrate _ | .exchange _ => none
  | .port => if portHeld s pos c then some c0 else none

def endsIdle (c : Ctx) : Bool :=
  match c.wait with
  | .idle _ | .service => true
  | _ => false

/-! ### A slot saved (R298, R334) -/

/-- A task no longer lists a context as waiting in WFW. -/
def leaveWfw (s : State) (t : Task) (pos : Nat) : State := s.setTask { t with wfw := t.wfw.filter (· != pos) }

/-- The lines of a stretch of memory on which reductions are pending. -/
def pendLines (s : State) (a n : Nat) : List Nat :=
  ((s.quires.flatMap fun e => e.2.pend.map fun p => lineOf p.pa).eraseDups).filter fun l => inRange a n (128 * l)

/-- A task's region ready for the device's own accesses: none while a lease stands on a line of it, else with the pending
reductions there performed (R151, R161). -/
def areaReady (s : State) (t : Task) : Option State :=
  let a := vatBase t.quire + t.region * 128
  let n := regionLen t * 128
  if (s.cores.flatMap fun e => e.2.leases).any fun l => inRange a n (128 * l.line) then none
  else some ((pendLines s a n).foldl drainLine s)

/-- The same for the tasks of a handover. -/
def areasReady (s : State) (tags : List (BitVec 16)) : Option State :=
  tags.foldl (fun o tag => o.bind fun s => match taskOf s tag with
    | some t => areaReady s t
    | none => some s) (some s)

/-- An empty slot's record. -/
def saveFree (s : State) (t : Task) (pos : Nat) : State :=
  if t.late.contains pos then s else homeWrite s (ctxRecAddr t pos) (ctxBytes (emptySlot (s.ctx pos)))

/-- The outgoing task's context of a slot saved and the slot emptied, an abandoned gather or scatter with its prefix given back
(R80); a thread that arrived by migration stays; none while the context cannot be handed over yet. -/
def slotOut (s : State) (out : BitVec 16) (pos : Nat) : Option State :=
  match taskOf s out with
  | none => some s
  | some t =>
    if (s.ctx pos).task ≠ some out ∨ (s.ctx pos).run = .free then some (saveFree s t pos)
    else match settled s pos with
      | none => none
      | some c =>
        let s1 := if endsIdle (s.ctx pos) then s.tally (some t.part) 32 1 else s
        let s2 := leaveSlot (leaveWfw (leaveVec s1 pos) t pos) pos
        let x := s2.ctx pos
        let c' := { c with st := x.st }
        some ((homeWrite s2 (ctxRecAddr t pos) (ctxBytes c')).setCtx pos (emptySlot c'))

/-! ### A slot loaded (R298, R335) -/

/-- Jobs, entries, records and posted writes made by a thread follow it to its new position and generation. -/
def rebind (s0 : State) (p0 : Nat) (g0 : BitVec 32) (p1 : Nat) (g1 : BitVec 32) : State :=
  let by_ := fun (b : Issuer) => if madeBy b p0 g0 then { b with pos := p1, slotgen := g1 } else b
  let job := fun (j : Job) => if isRecv j then j else { j with by_ := by_ j.by_ }
  let ent := fun (e : MatEntry) => { e with by_ := by_ e.by_ }
  let rc := fun (r : FRec) => if bits r.pos.toNat 0 14 = p0 ∧ r.slotgen = g0 ∧ r.src ≠ .front then
    { r with pos := putBits r.pos 0 14 p1, slotgen := g1 } else r
  let s := renamePosted s0 p0 g0 p1 g1
  let f := s.front
  { s with
    quires := s.quires.map fun e => (e.1, { e.2 with jobs := e.2.jobs.map job })
    cores := s.cores.map fun e => (e.1, { e.2 with queue := e.2.queue.map ent })
    front := { f with
      tasks := f.tasks.map fun t => { t with
        recorded := t.recorded.map job, savedQueues := t.savedQueues.map fun e => (e.1, e.2.map ent) }
      parts := f.parts.map fun e => (e.1, { e.2 with recs := e.2.recs.map rc, unposted := e.2.unposted.map rc }) } }

/-- The handle of a faulted context whose record was posted only after the save. -/
def lateHandle (s : State) (n p0 : Nat) (g0 : BitVec 32) : Option (BitVec 64) :=
  ((s.part n).recs.find? fun r => r.src == .ctx && bits r.pos.toNat 0 14 == p0 && r.slotgen == g0).map (·.seq)

/-- The handle of a faulted context restored: that of an outstanding record; that of a record posted after the save; none while
its record waits for ring space; else the one saved, which no record bears and a host's ABORT may name (R335, log 135). -/
def restoredHandle (s : State) (n p0 : Nat) (g0 : BitVec 32) (saved : Option (BitVec 64)) : Option (BitVec 64) :=
  let p := s.part n
  if saved.any fun h => p.recs.any (·.seq == h) then saved
  else match lateHandle s n p0 g0 with
    | some h => some h
    | none => if p.unposted.any fun r => r.src == .ctx && bits r.pos.toNat 0 14 == p0 && r.slotgen == g0 then none else saved

/-- A saved context loaded into a FREE slot. `oldQ` is the quire from which it was saved. An ABORT recorded meanwhile
removes its work; a running one whose record holds poison takes a POISON trap (R319, log 134). -/
def loadCtx (s : State) (t : Task) (oldQ pos : Nat) : State :=
  let a := ctxRecAddr t pos
  let p0 := 128 * oldQ + pos % 128
  let g0 : BitVec 32 := BitVec.ofNat 32 (saveWord s (a + 152))
  let c0 := ctxOfRec s a (s.ctx pos) t.tag
  if c0.run = .free then s
  else
    let c := if c0.run = .faulted then { c0 with handle := restoredHandle s t.part p0 g0 c0.handle } else c0
    let s1 := rebind (startThread s pos c) p0 g0 pos c.slotgen
    let state := saveWord s (a + 168)
    if c.run = .running ∧ poisoned s a 192 then takeTrap s1 pos (trapOf .poison (freeInfo .poison pos))
    else if bits state 3 2 = 3 then
      let s2 := removeWork s1 pos c.slotgen
      match taskOf s2 t.tag with
      | some u => s2.setTask { u with
          recorded := u.recorded.filter fun j => !madeBy j.by_ pos c.slotgen
          savedQueues := u.savedQueues.map fun e => (e.1, e.2.filter fun x => !madeBy x.by_ pos c.slotgen) }
      | none => s2
    else s1

/-- A slot of the incoming task: loaded if it is FREE, else left until it is. -/
def slotIn (s : State) (inn : BitVec 16) (oldQ pos : Nat) : State :=
  match taskOf s inn with
  | none => s
  | some t =>
    if !hasCore t.cores (coreOf pos % 8) || !t.hasSave then s
    else if (s.ctx pos).run = .free then loadCtx s t oldQ pos
    else if bits (saveWord s (ctxRecAddr t pos + 168)) 0 2 = 0 then s
    else
      let g0 : BitVec 32 := BitVec.ofNat 32 (saveWord s (ctxRecAddr t pos + 152))
      rebind (s.setTask { t with late := t.late ++ [pos] }) (128 * oldQ + pos % 128) g0 pos g0

/-! ### The matrix unit of a core (R299, R334) -/

/-- An entry as it is saved: rolled back to its k_done. -/
def rolledBack (e : MatEntry) : MatEntry :=
  { e with step := e.kdone / 32, half := none, got := [], cur := [], fail := none, granted := false }

def entryWord (e : MatEntry) : Nat :=
  pack [(1, 1), (1, bit1 e.faulted), (4, e.grp), (10, 0), (13, e.kdone)]

/-- One queue entry's record: its word, then the device's own bytes, which are free values (R334). -/
def saveEntry (core : Nat) (s : State) (x : Nat × MatEntry) (t : Task) : State × Task :=
  let f := s.fresh
  let priv := (List.range 504).map fun j => Config.ownByte (504 * f.1 + j)
  let a := queueRecAddr t core x.1
  (homeWrite f.2 a (toBytes 8 (entryWord x.2) ++ priv), { t with savedPriv := t.savedPriv ++ [(4 * (core % 8) + x.1, priv)] })

def saveEntries (core : Nat) : List (Nat × MatEntry) → State → Task → State × Task
  | [], s, t => (s, t)
  | x :: r, s, t =>
    let y := saveEntry core s x t
    saveEntries core r y.1 y.2

/-- Words of an accumulator put at their place in the save area: nothing else of the old contents stays. -/
def putAccs (m : Memory) (base : Nat) (l : Sparse (BitVec 32)) (acc promo : Bool) (addr : Bool → Bool → Nat → Nat) : Memory :=
  (l.filter fun e => inRange base 32768 e.1).foldl
    (fun m e => Memory.writeBytes m (addr acc promo (e.1 - base)) (toBytes 4 e.2.toNat)) m

/-- m0, m1 and their promotion accumulators written to the save area (R334). -/
def saveAccs (s : State) (t : Task) (core : Nat) : State :=
  let k := s.core core
  let lo := accAddr t core false false 0
  let blank := s.mem.filter fun e => !(inRange lo 0x80000 e.1)
  let at_ := accAddr t core
  let m1 := putAccs (putAccs blank 0 k.acc false false at_) 32768 k.acc true false at_
  let m2 := putAccs (putAccs m1 0 k.promo false true at_) 32768 k.promo true true at_
  { s with mem := m2, poison := s.poison.filter fun e => !(inRange (lo / 32) (0x80000 / 32) e.1) }

/-- The words of one accumulator read back; those of a poisoned granule are not delivered (R319, log 134). -/
def getAccs (s : State) (a0 base : Nat) : Sparse (BitVec 32) :=
  let l := (s.mem.filter fun e => inRange a0 131072 e.1).foldl (fun l e =>
    let i := (e.1 - a0) / 4
    Sparse.set 0 l (base + i) (BitVec.ofNat 32 (ofBytes (Memory.readBytes s.mem (a0 + 4 * i) 4)))) []
  (s.poison.filter fun e => inRange (a0 / 32) 4096 e.1).foldl (fun l e => (List.range 8).foldl (fun l k =>
    Sparse.set 0 l (base + (8 * (e.1 - a0 / 32) + k)) ((Config.lost s.cyc (32 * e.1 + 4 * k)).setWidth 32)) l) l

def loadAccs (s : State) (t : Task) (core : Nat) : State :=
  let at_ := fun acc promo => accAddr t core acc promo 0
  let k := s.core core
  s.setCore core { k with
    acc := getAccs s (at_ false false) 0 ++ getAccs s (at_ true false) 32768
    promo := getAccs s (at_ false true) 0 ++ getAccs s (at_ true true) 32768 }

/-- The outgoing task's queue entries and accumulators of a core saved. -/
def matrixOut (s : State) (out : BitVec 16) (core : Nat) : State :=
  match taskOf s out with
  | none => s
  | some t =>
    let mine := ((s.core core).queue.filter fun e => isTask out e.by_.task).map rolledBack
    let s1 := removeEntries s core fun e => isTask out e.by_.task
    let s2 := (List.range 4).foldl (fun s i => homeWrite s (queueRecAddr t core i) (toBytes 8 0)) s1
    let keep := t.savedPriv.filter fun e => e.1 / 4 != core % 8
    let y := saveEntries core ((List.range mine.length).zip mine) s2 { t with savedPriv := keep }
    let t1 := { y.2 with savedQueues := y.2.savedQueues.filter (·.1 != core % 8) ++ [(core % 8, mine)] }
    saveAccs (y.1.setTask t1) t1 core

/-- A vat slice of a task whose region has moved by `d` bytes. -/
def shiftSlice (d : Int) (sl : Slice) : Slice :=
  if sl.vat then { sl with base := sl.base + BitVec.ofInt 64 d, lo := ((sl.lo : Int) + d).toNat, hi := ((sl.hi : Int) + d).toNat }
  else sl

def shiftEntry (d : Int) (e : MatEntry) : MatEntry :=
  { e with a := shiftSlice d e.a, groups := e.groups.map fun g => { g with b := shiftSlice d g.b },
           scales := e.scales.map fun p => (shiftSlice d p.1, shiftSlice d p.2), td := e.td.map (shiftSlice d) }

/-- The context that made a discarded entry is held FAULTED, in its slot or, where that is not yet loaded, in its record. -/
def holdIssuer (s : State) (t : Task) (b : Issuer) : State :=
  let c := s.ctx b.pos
  if c.run = .running ∧ c.slotgen = b.slotgen then
    (leaveSlot (leaveVec s b.pos) b.pos).setCtx b.pos
      { (leaveSlot (leaveVec s b.pos) b.pos).ctx b.pos with run := .faulted, wait := .none, port := none, handle := none }
  else
    let a := ctxRecAddr t b.pos
    if t.late.contains b.pos ∧ bits (memWord s (a + 168)) 0 2 = 1 ∧ memWord s (a + 152) = b.slotgen.toNat then
      homeWrite s (a + 168) (toBytes 8 Run.faulted.code ++ toBytes 8 0)
    else s

/-- A saved entry restored, or, where its own bytes have changed or its record is poisoned, discarded: OPERAND or POISON is
posted for it and the context that made it is held FAULTED (R319, R335). -/
def loadEntry (core : Nat) (shift : Int) (s : State) (t : Task) (i : Nat) (e : MatEntry) : State :=
  let a := queueRecAddr t core i
  let w := memWord s a
  if poisoned s a 512 then
    holdIssuer (postFor s e.by_.part (matRec s core (shiftEntry shift e) (trapOf .poison (freeInfo .poison i)))) t e.by_
  else if bits w 0 1 = 0 then s
  else
    let e1 := { shiftEntry shift e with faulted := bits w 1 1 == 1, grp := bits w 2 4, kdone := bits w 16 13,
                                        step := bits w 16 13 / 32, since := s.cyc }
    let was := (t.savedPriv.find? (·.1 == 4 * (core % 8) + i)).map (·.2)
    if was = some (Memory.readBytes s.mem (a + 8) 504) then
      s.setCore core { s.core core with queue := (s.core core).queue ++ [e1] }
    else holdIssuer (postFor s e.by_.part (matRec s core e1 (operand i))) t e.by_

/-- Answers recorded for entries that are now in their queues take effect. -/
def applyHeld (s : State) (tag : BitVec 16) (test : FRec → Bool) : State :=
  match taskOf s tag with
  | none => s
  | some t =>
    let l := t.held.filter fun e => test e.1
    l.foldl (fun s e => actAnswer s t.part e.1 e.2) (s.setTask { t with held := t.held.filter fun e => !test e.1 })

def isMatrixRec (core : Nat) (r : FRec) : Bool :=
  match r.src with
  | .matrix k _ => k % 8 == core % 8
  | _ => false

def isJobRec (r : FRec) : Bool :=
  match r.src with
  | .job .. => true
  | _ => false

/-- The incoming task's queue entries, ahead of any that its threads have made meanwhile, and its accumulators. -/
def matrixIn (s : State) (inn : BitVec 16) (core : Nat) (shift : Int) : State :=
  match taskOf s inn with
  | none => s
  | some t =>
    if !t.hasSave || !hasCore t.cores (core % 8) then s
    else
      let k := s.core core
      let l := ((t.savedQueues.find? (·.1 == core % 8)).map (·.2)).getD []
      let s1 := (s.setCore core { k with queue := [] }).setTask { t with savedQueues := t.savedQueues.filter (·.1 != core % 8) }
      let s2 := ((List.range l.length).zip l).foldl (fun s x => loadEntry core shift s t x.1 x.2) s1
      let s3 := s2.setCore core { s2.core core with queue := (s2.core core).queue ++ k.queue }
      let s4 := loadAccs s3 t core
      applyHeld s4 inn (isMatrixRec core)

/-! ### Copy jobs of a task being parked (R300, R333) -/

/-- The physical bytes that a job has to write. -/
def jobTargets (s : State) (q : Nat) (j : Job) : List Nat :=
  (jobPairs j).filterMap fun p =>
    if j.dst.vat then some p.2
    else match (granuleAt s q j false p.2 .ewrite (.write [])).2 with
      | .ok (b, ev) => some (ev.pa + (p.2 - b))
      | .error _ => none

/-- R300: whether a job writes a save area, or a barrier word: one on which a BAR instruction has been performed (log 34). -/
def mustStop (s : State) (q : Nat) (j : Job) : Bool :=
  (jobTargets s q j).any fun a =>
    (s.front.tasks.any fun t => inRange (saveBase t) (saveSize t) a) || Sparse.get false s.front.barriers (a / 8)

/-- The destination's 8-byte units, ascending, each once. -/
def dstUnits (j : Job) : List Nat := ((jobPairs j).foldl (fun m p => Sparse.set false m (p.2 / 8) true) []).map (·.1)

/-- An event in flight finishes: what it writes is read, and it is written; it stays cancelled where something holds it
back. -/
def finishUnit (q id : Nat) (s : State) (u : Nat) : State :=
  let read := fun (s : State) (a : Nat) => match jobOf s q id with
    | some j => if (gotByte j a).isSome then s else (jobRead s q j a).getD s
    | none => s
  let want := match jobOf s q id with
    | some j => ((jobPairs j).filter fun (p : Nat × Nat) => p.2 / 32 == u / 4).map fun (p : Nat × Nat) => p.1
    | none => []
  let s1 := want.foldl read s
  match (jobOf s1 q id).bind fun j => jobWrite s1 q j (8 * u) with
  | some s2 => if (jobOf s2 q id).any fun j => !j.faulted && written j (8 * u) then s2 else s
  | none => s

/-- R333: the events in flight of a cancelled job finish, so that the writes performed form a prefix in ascending destination
order. -/
def finishFlight (s : State) (q : Nat) (j : Job) : State :=
  let l := dstUnits j
  let top := (l.filter j.wr.contains).getLastD 0
  if j.faulted then s else (l.filter fun u => u < top && !j.wr.contains u).foldl (finishUnit q j.id) s

/-- A job as it is recorded: reads that supplied no performed write are made again. -/
def recordJob (j : Job) : Job :=
  { j with got := j.got.filter fun e => (jobPairs j).any fun p => p.1 == e.1 && written j p.2 }

/-- The copy's minor, or the major where it has none. -/
def jobCode (j : Job) : Nat :=
  match j.kind with
  | .copyIn => 0 | .copyOut => 1 | .copyrSend .. | .copyrRecv .. => 0x5C | .copym => 0x5D

/-- The destination's granules, ascending. -/
def dstGranules (j : Job) : List Nat := ((dstUnits j).map (· / 4)).eraseDups

/-- The granule events that a job has performed, in order up to the first that it has not. -/
def jobPrefix (j : Job) : Nat :=
  ((dstGranules j).takeWhile fun g => (dstUnits j).all fun u => u / 4 != g || j.wr.contains u).length

/-- A recorded job (R333). The manual gives the place of the channel and of the minor or major, and for the rest what it
holds: the places are the model's (log 53). -/
def jobRecord (s : State) (j : Job) : List Byte :=
  let far := match j.kind with
    | .copyrSend _ rank quire tile _ _ _ _ => (rank, quire, tile)
    | _ => (0, 0, 0)
  toBytes 1 j.ch ++ toBytes 1 (jobCode j) ++ toBytes 1 ((jobTiles j).headD 0) ++ toBytes 1 far.2.2 ++ toBytes 2 far.1
    ++ toBytes 1 far.2.1 ++ toBytes 1 0 ++ toBytes 64 j.dk.toNat ++ toBytes 8 j.by_.pc.toNat
    ++ toBytes 8 (posWord s j.by_.pos).toNat ++ toBytes 4 (jobPrefix j) ++ toBytes 4 (dstGranules j).length

def jobRecAddr (t : Task) (i : Nat) : Nat := saveBase t + 0x5400 + 128 * i

/-- The unpublished jobs of a task: those that write a save area or a barrier word are cancelled and recorded; the others run
on (R300). -/
def parkJobs (q : Nat) : List Nat → State → Task → State × Task
  | [], s, t => (s, t)
  | id :: r, s, t => match jobOf s q id with
    | none => parkJobs q r s t
    | some j0 =>
      if mustStop s q j0 && t.recorded.length < 32 then
        let s1 := finishFlight s q j0
        let j := recordJob ((jobOf s1 q id).getD j0)
        let s2 := withdraw (dropJob s1 q id) (.job q id)
        parkJobs q r (homeWrite s2 (jobRecAddr t t.recorded.length) (jobRecord s2 j)) { t with recorded := t.recorded ++ [j] }
      else parkJobs q r s t

/-! ### The header, tile and deckle tables (R333) -/

def headerBytes (t : Task) : List Byte :=
  toBytes 8 (pack [(16, t.tag.toNat), (8, t.cores)]) ++ List.replicate 8 0
  ++ t.ctrs.flatMap (fun x => toBytes 8 x.next.toNat ++ toBytes 8 x.remain.toNat ++ toBytes 2 x.p.toNat ++ toBytes 2 0
      ++ toBytes 4 x.minc.toNat ++ List.replicate 8 0)
  ++ toBytes 8 t.recorded.length

/-- A counter read back from the header. -/
def ctrOfHeader (s : State) (t : Task) (n : Nat) : IterCtr :=
  let a := saveBase t + 16 + 32 * n
  ⟨BitVec.ofNat 64 (saveWord s a), BitVec.ofNat 64 (saveWord s (a + 8)), BitVec.ofNat 16 (saveWord s (a + 16)),
   BitVec.ofNat 32 (bits (saveWord s (a + 16)) 32 32)⟩

/-- The outgoing task after its last head: jobs, tiles, header and deckles saved; it is parked. -/
def parkTask (s : State) (out : BitVec 16) : State :=
  match taskOf s out with
  | none => s
  | some t0 =>
    let q := t0.quire
    let mine := (s.quire q).jobs.filter fun j => isTask out j.by_.task && !isRecv j
    let y := parkJobs q (mine.map (·.id)) s { t0 with recorded := [] }
    let tiles := (y.1.quire q).tiles.filter fun e => isTask out e.2.owner
    let t := { y.2 with parked := true, since := s.cyc, hasSave := true, late := [], savedTiles := tiles, wfw := [] }
    let x := y.1.quire q
    let s1 := y.1.setQuire q { x with tiles := x.tiles.filter fun e => !(isTask out e.2.owner) }
    let s2 := homeWrite (s1.setTask t) (saveBase t) (headerBytes t)
    let s3 := (List.range 64).foldl (fun s n => homeWrite s (deckleRecAddr t n) (toBytes 64 (deckleAt s q n).toNat)) s2
    (List.range 256).foldl (fun s n => homeWrite s (tileRecAddr t n)
      (match tiles.find? (·.1 == n) with
       | some e => tileBytes e.2
       | none => List.replicate 64 0)) s3

/-- The tile entries that the save area gives the task. `shift` moves VOFF, in units. -/
def restoreTiles (s : State) (t : Task) (shift : Int) : State :=
  (List.range 256).foldl (fun s n =>
    let a := tileRecAddr t n
    if bits (saveWord s (a + 56)) 0 1 = 1 then
      let before := ((t.savedTiles.find? (·.1 == n)).map (·.2.before)).getD .ready
      setTile s t.quire n (tileOfRec s a t.tag before shift)
    else s) s

/-- A job as its record tells it, where the record is no longer the one that was saved (R335): its slices are those of its
deckle and tile at the issuer's work identifier, and its first events count as performed. -/
def jobOfRec (s : State) (t : Task) (i : Nat) : Option Job :=
  let b := jobRecAddr t i
  let w := saveWord s b
  let tl : Handle := BitVec.ofNat 8 (bits w 16 8)
  let dk : BitVec 512 := BitVec.ofNat 512 (pack ((List.range 8).map fun k => (64, saveWord s (b + 8 + 8 * k))))
  let pos := 128 * t.quire + bits (saveWord s (b + 80)) 0 7
  let a := ctxRecAddr t pos
  let wid : Word := BitVec.ofNat 64 (saveWord s (a + 144))
  let levels : Word := BitVec.ofNat 64 (saveWord s (a + 184))
  let by_ : Issuer := { pos := pos, slotgen := BitVec.ofNat 32 (saveWord s (a + 152)), pc := BitVec.ofNat 56 (saveWord s (b + 72)),
                        enc := List.replicate 16 0, task := some t.tag, part := some t.part, asid := some t.asid }
  let mk := fun (k : JobKind) (src dst : Slice) (st dt : Option Nat) (sl : Option Nat) =>
    let j : Job := { id := (t.recorded[i]?.map (·.id)).getD s.front.nextId, by_ := by_, ch := bits w 0 3, kind := k, src := src, dst := dst, srcTile := st, dstTile := dt,
                     dk := dk, slot := sl, got := [], wr := [], landed := 0, inbox := [], faulted := false, cause := none }
    let gone := (dstGranules j).take (bits (saveWord s (b + 88)) 0 32)
    { j with wr := gone.flatMap fun g => [4 * g, 4 * g + 1, 4 * g + 2, 4 * g + 3] }
  match sliceOf dk wid levels true (dkBase dk) false 0 0, tileSlice s t.quire tl wid levels true with
  | some m, some x =>
    let code := bits w 8 8
    if code = 0 ∧ slicesMatch m x then
      (slotFor (tileAt s t.quire tl) (0x8000 + t.quire)).map fun sl => mk .copyIn m x none (some tl.toNat) sl
    else if code = 1 ∧ slicesMatch m x then some (mk .copyOut x m (some tl.toNat) none none)
    else if code = 0x5D ∧ slicesMatch m x then some (mk .copym x m (some tl.toNat) none none)
    else none
  | none, some x =>
    if bits w 8 8 = 0x5C then
      (rankDev s t.part (bits w 32 16)).map fun dev =>
        mk (.copyrSend dev (bits w 32 16) (bits w 48 7) (bits w 24 8) (jobNumber s dev) (linearBytes x).length 0
          ((linearBytes x).isEmpty)) x x (some tl.toNat) none none
    else none
  | _, none => none

/-- A recorded job whose record still stands as it was saved, moved with its region by `shift` bytes. -/
def sameJob (shift : Int) (j : Job) : Job :=
  let d8 := shift / 8
  { j with src := shiftSlice shift j.src, dst := shiftSlice shift j.dst,
           wr := if j.dst.vat then j.wr.map fun (u : Nat) => ((u : Int) + d8).toNat else j.wr,
           got := if j.src.vat then j.got.map fun e => (((e.1 : Int) + shift).toNat, e.2) else j.got }

/-- A job made afresh on its channel. -/
def addJob (q : Nat) (s : State) (j : Job) : State :=
  let s1 := s.setQuire q { s.quire q with jobs := (s.quire q).jobs ++ [j] }
  let x := chanAt s1 q j.ch
  let s2 := s1.setFront { s1.front with nextId := max s1.front.nextId (j.id + 1) }
  setChan s2 q j.ch { x with st := if j.faulted || x.st == .faulted then .faulted else .active }

/-- The i-th recorded job made afresh (R300, R335): as it was, or as its record now says; a poisoned record is not delivered,
and the job faults with POISON (R319, log 134). -/
def remakeJob (t : Task) (shift : Int) (s : State) (i : Nat) : State :=
  let b := jobRecAddr t i
  match t.recorded[i]? with
  | some j =>
    if poisoned s b 96 then jobFault (addJob t.quire s (sameJob shift j)) t.quire (sameJob shift j) (trapOf .poison (freeInfo .poison i))
    else if Memory.readBytes s.mem b 96 = jobRecord s j then addJob t.quire s (sameJob shift j)
    else match jobOfRec s t i with
      | some x => addJob t.quire s x
      | none => orphanChans s t.quire [j]
  | none => match jobOfRec s t i with
    | some x => addJob t.quire s x
    | none => s

/-- The recorded jobs that the header counts, made afresh; a job that it counts no longer has gone (R333, R335). -/
def remakeJobs (t : Task) (shift : Int) (s : State) : State :=
  let n := min 32 (bits (saveWord s (saveBase t + 144)) 0 32)
  orphanChans ((List.range n).foldl (remakeJob t shift) s) t.quire (t.recorded.drop n)

/-- A parked task runs again: its counters, tiles, recorded jobs and the answers to its jobs. `shift` is how far its
region has moved, in bytes, and `units` how far in its vat, in units. -/
def wakeTask (s : State) (inn : BitVec 16) (shift units : Int) : State :=
  match taskOf s inn with
  | none => s
  | some t =>
    if !t.hasSave then s.setTask { t with parked := false, since := s.cyc }
    else
      let t1 := { t with parked := false, since := s.cyc, late := [], recorded := [], savedTiles := [],
                         ctrs := (List.range 4).map (ctrOfHeader s t) }
      let s1 := restoreTiles (s.setTask t1) t units
      applyHeld (remakeJobs t shift s1) inn isJobRec

/-- Every slot of a core of a task, and its matrix unit, restored at once. -/
def loadCore (inn : BitVec 16) (oldQ : Nat) (shift : Int) (s : State) (core : Nat) : State :=
  matrixIn ((List.range 16).foldl (fun s i => slotIn s inn oldQ (16 * core + i)) s) inn core shift

/-- Cores of a task that no handover to it covers. -/
def openCores (s : State) (t : Task) : List Nat :=
  (List.range 8).filter fun i => hasCore t.cores i
    && !(s.front.handovers.any fun h => h.inn == some t.tag && hasCore h.cores i)

/-- The first slot of a handover wakes the incoming task, and fills the cores that stood free. -/
def beginIncoming (s : State) (inn : Option (BitVec 16)) : State :=
  match inn.bind (taskOf s) with
  | none => s
  | some t =>
    if !t.parked then s
    else ((openCores s t).map fun i => 8 * t.quire + i).foldl (loadCore t.tag t.quire 0) (wakeTask s t.tag 0 0)

/-! ### SLOT_HANDOVER and HEAD_HANDOVER (R298 to R300) -/

def handoverAt (s : State) (core : Nat) : Option Handover :=
  s.front.handovers.find? fun h => h.quire == quireOfCore core && hasCore h.cores (core % 8)

def setHandover (s : State) (h : Handover) : State :=
  s.setFront { s.front with handovers := s.front.handovers.map fun x => if x.out = h.out then h else x }

/-- A slot that has been handed over in this cycle: its new context first issues at its next slot (R298). -/
def noIssue (s : State) (pos : Nat) : State := { s with issued := pos :: s.issued }

/-- The incoming task's part in a slot's handover. -/
def comeIn (s : State) (h : Handover) (pos : Nat) : State :=
  let s1 := beginIncoming s h.inn
  match h.inn with
  | some tag => slotIn s1 tag h.quire pos
  | none => s1

/-- One of slots 1 to 15 handed over. -/
def handSlot (s0 : State) (h : Handover) (pos : Nat) : Option State :=
  match (areasReady s0 (h.out :: h.inn.toList)).bind fun s => slotOut s h.out pos with
  | none => none
  | some s1 =>
    let s2 := noIssue (comeIn s1 h pos) pos
    some ((setHandover s2 { h with done := h.done ++ [pos] }).tally (partOfQuire s2 h.quire) 41 1)

/-- A slot whose saved context waited for it to be FREE. -/
def loadLate (s : State) (pos : Nat) : Option State :=
  (s.front.tasks.find? fun t => !t.parked && t.late.contains pos).bind fun t =>
    if (s.ctx pos).run = .free then
      (areaReady s t).map fun s1 =>
        noIssue (loadCtx (s1.setTask { t with late := t.late.filter (· != pos) }) t t.quire pos) pos
    else none

/-- A slot's handover, or the loading of a context that has waited for it, at the slot's cycle. -/
def slotMove (s : State) (pos : Nat) : Option State :=
  if s.cyc % 16 ≠ slotOf pos ∨ slotOf pos = 0 ∨ s.issued.contains pos then none
  else match handoverAt s (coreOf pos) with
    | some h => if s.cyc < h.start ∨ h.done.contains pos then none else handSlot s h pos
    | none => loadLate s pos

def execSlotHandover (pos : Nat) (s : State) : Out :=
  match slotMove s pos with
  | some t => .next t
  | none => .fault (.notEnabled "the slot cannot be handed over now")

/-- Slots 1 to 15 of a core have all been handed over. -/
def slotsDone (h : Handover) (core : Nat) : Bool := (List.range 15).all fun i => h.done.contains (16 * core + i + 1)

/-- The heads of every core of a handover have been handed over. -/
def headsDone (h : Handover) : Bool :=
  ((List.range 8).filter (hasCore h.cores)).all fun i => h.done.contains (16 * (8 * h.quire + i))

/-- The incoming head waits for the accumulator exchange; a FAULTED one does so when it is resumed (`exchangeWait`). -/
def holdHead (s : State) (core till : Nat) : State :=
  let c := s.ctx (16 * core)
  if c.run = .running then s.setCtx (16 * core) { c with wait := .exchange till } else s

/-- The head slot handed over, with the core's matrix queue and accumulators; after the last one the outgoing task is
parked. -/
def handHead (s0 : State) (h : Handover) (core : Nat) : Option State :=
  match (areasReady s0 (h.out :: h.inn.toList)).bind fun s => slotOut s h.out (16 * core) with
  | none => none
  | some s1 =>
    let s2 := comeIn (matrixOut s1 h.out core) h (16 * core)
    let s3 := noIssue (match h.inn with
      | some tag => matrixIn s2 tag core 0
      | none => s2) (16 * core)
    let h1 := { h with done := h.done ++ [16 * core], exch := h.exch ++ [(core, s0.cyc + 1024)] }
    let s4 := (setHandover (holdHead s3 core (s0.cyc + 1024)) h1).tally (partOfQuire s3 h.quire) 41 1
    some (if headsDone h1 then parkTask s4 h.out else s4)

/-- A head's handover, at the head slot's cycle, after slots 1 to 15 of its core (R298, R299). -/
def headMove (s : State) (core : Nat) : Option State :=
  (handoverAt s core).bind fun h =>
    if s.cyc % 16 ≠ 0 ∨ s.cyc < h.start ∨ h.done.contains (16 * core) ∨ !slotsDone h core
        ∨ (headOf s core).any (·.granted) ∨ s.issued.contains (16 * core) then none
    else handHead s h core

def execHeadHandover (core : Nat) (s : State) : Out :=
  match headMove s core with
  | some t => .next t
  | none => .fault (.notEnabled "the head cannot be handed over now")

/-- ACCUMULATOR_EXCHANGE_END: the incoming head may issue; the handover is over with its last exchange. -/
def execAccumulatorExchangeEnd (core : Nat) (s : State) : Out :=
  match s.front.handovers.find? fun h => h.exch.any fun e => e.1 == core && e.2 ≤ s.cyc with
  | none => .fault (.notEnabled "no exchange has run its time")
  | some h =>
    let h1 := { h with exch := h.exch.filter (·.1 != core) }
    let s1 := if headsDone h1 && h1.exch.isEmpty then
        s.setFront { s.front with handovers := s.front.handovers.filter (·.out != h.out) }
      else setHandover s h1
    let c := s1.ctx (16 * core)
    .next (match c.wait with
      | .exchange _ => s1.setCtx (16 * core) { c with wait := .none }
      | _ => s1)

/-! ### QUANTUM_EXPIRY (R297) -/

/-- The parked task of a quire that has waited longest for cores of a task. -/
def waiterFor (s : State) (t : Task) : Option Task :=
  let l := (residents s t.quire).filter fun w => w.parked && !inHandover s w.tag && sharesCore w.cores t.cores
  match l with
  | [] => none
  | w :: r => some (r.foldl (fun a b => if b.since < a.since then b else a) w)

/-- A running task that its quantum lets be handed over. -/
def spent (s : State) (t : Task) : Bool :=
  !t.parked && t.savelen != 0 && !inHandover s t.tag && decide (t.since + (s.part t.part).quantum.toNat * 65536 ≤ s.cyc)

/-- The task's slice ends: it and the other holders of the waiter's cores are handed over to it where every one of them has
spent its own; else it gives up its cores, and the waiter waits for the others (log 49). -/
def expire (s : State) (t w : Task) : State :=
  let l := coreHolders s t.quire w.cores
  if l.all (spent s) then beginHandovers s t.quire l (some w.tag) else beginHandovers s t.quire [t] none

def execQuantumExpiry (tag : BitVec 16) (s : State) : Out :=
  match taskOf s tag with
  | none => .fault (.notEnabled "no such task")
  | some t =>
    if !spent s t then .fault (.notEnabled "its time slice still runs")
    else match waiterFor s t with
      | some w => .next (expire s t w)
      | none => .fault (.notEnabled "no other task waits for its cores")

/-! ### TASK_MOVE (R301) -/

/-- The copy of a region's bytes and poison to another place. -/
def moveRegion (s : State) (from_ dst n : Nat) : State :=
  let src := s.mem.filter fun e => inRange from_ n e.1
  let m := s.mem.filter fun e => !(inRange dst n e.1)
  let ps := s.poison.filter fun e => inRange (from_ / 32) (n / 32) e.1
  let p := s.poison.filter fun e => !(inRange (dst / 32) (n / 32) e.1)
  { s with
    mem := src.foldl (fun m e => Memory.write m (dst + (e.1 - from_)) e.2) m
    poison := ps.foldl (fun p e => Sparse.set false p (dst / 32 + (e.1 - from_ / 32)) e.2) p }

/-- Whether a parked task can run on a quire now (R291). -/
def canRestore (s : State) (t : Task) (q : Nat) : Bool :=
  t.parked && t.hasSave && !inHandover s t.tag && partOfQuire s q == some t.part && !dieScrubbed s q && (coreHolders s q t.cores).isEmpty
    && !((s.quire t.quire).jobs.any fun j => isTask t.tag j.by_.task && q != t.quire)
    && (q == t.quire
        || (t.oldQuire.isNone && (residents s q).length < 4 && (freeRun s q (regionLen t)).isSome
            && (match launchOf s t.launch with
                | some l => limitOk s l q && !cutOff s l q
                | none => false)))

/-- The task restored on its own quire, or with its region, deckles and tiles moved to another and a flush of its tag
asked of the old one. -/
def restoreTask (s : State) (t : Task) (q : Nat) : State :=
  let all := fun (q : Nat) => ((List.range 8).filter (hasCore t.cores)).map fun i => 8 * q + i
  if q = t.quire then (all q).foldl (loadCore t.tag q 0) (wakeTask s t.tag 0 0)
  else
    let run := (freeRun s q (regionLen t)).getD 0
    let from_ := vatBase t.quire + t.region * 128
    let dst := vatBase q + run * 128
    let shift : Int := (dst : Int) - (from_ : Int)
    let s1 := moveRegion s from_ dst (regionLen t * 128)
    let t1 := { t with quire := q, region := run, oldQuire := some t.quire }
    let s2 := (List.range 64).foldl (fun s n =>
      setDeckle s q n (BitVec.ofNat 512 (ofBytes (Memory.readBytes s.mem (deckleRecAddr t1 n) 64)))) (s1.setTask t1)
    let s3 := s2.setFront { s2.front with flushing := s2.front.flushing ++ [(t.quire, t.tag)] }
    (all q).foldl (loadCore t.tag t.quire shift) (wakeTask s3 t.tag shift ((run : Int) - t.region))

def execTaskMove (tag : BitVec 16) (q : Nat) (s : State) : Out :=
  match taskOf s tag with
  | none => .fault (.notEnabled "no such task")
  | some t => match areaReady s t with
    | some s1 => when (canRestore s t q) "the task cannot run there now" (restoreTask s1 t q)
    | none => .fault (.notEnabled "a lease stands in the task's region")

/-! ### What a cycle owes (R298, R331) -/

/-- The cores of handovers under way, and of tasks whose saved contexts still wait for a slot. -/
def handoverCores (s : State) : List Nat :=
  (s.front.handovers.flatMap fun h => ((List.range 8).filter (hasCore h.cores)).map fun i => 8 * h.quire + i)
    ++ s.front.tasks.flatMap fun t => (t.late.map coreOf).eraseDups

/-- The handover moves due in this cycle: they come before every other move of it, an answer to a faulted context among them
(R331). -/
def dueHandovers (s : State) : List Instr :=
  (handoverCores s).filterMap fun core =>
    if s.cyc % 16 = 0 then (headMove s core).map fun _ => .headHandover core
    else (slotMove s (16 * core + s.cyc % 16)).map fun _ => .slotHandover (16 * core + s.cyc % 16)

/-- Accumulator exchanges that have run their time. -/
def endedExchanges (s : State) : List Instr :=
  (s.front.handovers.flatMap (·.exch)).filterMap fun e => if e.2 ≤ s.cyc then some (.accumulatorExchangeEnd e.1) else none

end Sys2Proof.Machine
end

