-- ==== Sys2Proof/Machine/Partition.lean ====
section
/-! DEFINITION. Partitions: creation with its snapshot chain, quires assigned and released, the fault ring's consumer and
the host's answers, cache ways, and the granule table (R308, R309, R314, R329 to R331, R365 to R368, R371). -/
namespace Sys2Proof.Machine

/-! ### Snapshots (R371) -/

/-- The 512 bytes of a snapshot of partition `n`, captured now. -/
def snapshotBytes (s : State) (n : Nat) : List Byte :=
  let p := s.part n
  toBytes 8 p.snapSeq.toNat ++ toBytes 8 s.cyc ++ toBytes 2 n ++ toBytes 2 0 ++ toBytes 4 p.pgen.toNat
  ++ toBytes 32 s.dev.epoch.toNat ++ toBytes 48 p.prev.toNat ++ toBytes 8 0
  ++ (List.range 48).flatMap (fun i => toBytes 8 (meterValue s n i).toNat) ++ toBytes 16 0

/-- A capture: SEQ rises, the digest is kept, and counter 46 counts it. -/
def capture (s : State) (n : Nat) : State × List Byte :=
  let b := snapshotBytes s n
  let p := s.part n
  ((s.setPart n { p with snapSeq := p.snapSeq + 1, prev := Config.sha384 b }).tally (some n) 46 1, b)

/-! ### Creation and destruction (R365) -/

/-- Every counter of a partition is 0 (R369). -/
def clearMeters (s : State) (n : Nat) : State :=
  s.setAssize { total := s.assize.total.filter fun e => e.1 / 48 != n
                recent := s.assize.recent.filter fun e => e.2.1 / 48 != n }

/-- A partition's block as its creation leaves it; PGEN counts it, and the snapshot chain runs on. -/
def newPart (p : Part) : Part :=
  { Part.reset with exist_ := true, pgen := p.pgen + 1, snapSeq := p.snapSeq, prev := p.prev }

/-- The host may write partition registers (R374, R376). -/
def partsOpen (s : State) : Bool := s.dev.ready && barsOpen s .host 0

def execPartitionCreate (n : Nat) (s : State) : Out :=
  .next (if partsOpen s && !(s.part n).exist_ then (clearMeters s n).setPart n (newPart (s.part n)) else s)

/-- Refused while the partition holds a quire, or while one is being drained into it or out of it. -/
def execPartitionDestroy (n : Nat) (s : State) : Out :=
  .next (if partsOpen s && (s.part n).exist_ && (quiresOf s n).isEmpty && (s.part n).busy.isNone then
      (let c := capture s n
       c.1.setPart n { c.1.part n with exist_ := false, final := some c.2 })
    else s)

/-- A write to a register of a partition: ignored where the partition does not exist. -/
def partWrite (s : State) (n : Nat) (t : State) : Out := .next (if partsOpen s && (s.part n).exist_ then t else s)

/-! ### Host answers (R330) -/

/-- A FOP write: the record that FSEQ names is answered, unless it was delivered or is not outstanding. An ABORT may also name
the handle that a save area gave a FAULTED context and that no record bears (R335, log 135). -/
def fop (s : State) (n : Nat) (a : Answer) : State :=
  match findRec s n (s.part n).fseq with
  | some r =>
    if r.delivered then s.setPart n { s.part n with fop := 2 }
    else
      let s1 := answerRec s n r a
      s1.setPart n { s1.part n with fop := 1 }
  | none => match holderOf s n (s.part n).fseq with
    | some pos =>
      if a = .abort then
        let s1 := abortThread s pos
        s1.setPart n { s1.part n with fop := 1 }
      else s.setPart n { s.part n with fop := 2 }
    | none => s.setPart n { s.part n with fop := 2 }

def execFopResume (n : Nat) (s : State) : Out := partWrite s n (fop s n .resume)
def execFopResumeSt (n : Nat) (s : State) : Out := partWrite s n (fop s n (.resumeSt (s.part n).fst))
def execFopAbort (n : Nat) (s : State) : Out := partWrite s n (fop s n .abort)

/-! ### The fault ring (R329) -/

def execFqconsWrite (n : Nat) (v : BitVec 32) (s : State) : Out :=
  partWrite s n (postAllHeld (s.setPart n { s.part n with fqcons := v }) n)

/-! ### Cache ways (R309, R314, R365) -/

/-- Lines of HBM in granules of a partition. -/
def lineIsPart (s : State) (n line : Nat) : Bool := inPartHbm s n (128 * line) 128

/-- A write that gives up copies: while a lease holds one back it waits with the others gone, else it is done (R161). -/
def waitOr (s s1 : State) (left : Bool) (t : State) : Out :=
  if left then when (s1 != s) "a copy's write-back waits behind a lease" s1 else .next t

/-- The copies that lose their place when the ways of their partition become `ways`: of one set the oldest go, as many as are
too many (log 136). -/
def copiesOver (ways : Nat) (set : Nat → Nat) (l : List Copy) : List Copy :=
  (l.zipIdx.filter fun e => ways ≤ ((l.drop (e.2 + 1)).filter fun c => set c.line == set e.1.line).length).map (·.1)

/-- A die's SCOPED-D copies that a partition's new ways do not hold. -/
def scopedDOver (s : State) (n die ways : Nat) : List Copy :=
  copiesOver ways rdcSet ((s.die die).copies.filter (·.part == some n))

/-- The lines of a die's remote-data cache that a partition's new ways do not hold beside its copies. -/
def rdcOver (s : State) (n die ways : Nat) : List Nat :=
  let d := s.die die
  let l := d.rdc.filter (·.part == some n)
  let room := fun (line : Nat) => ways - (d.copies.filter fun c => c.part == some n && rdcSet c.line == rdcSet line).length
  (l.zipIdx.filter fun e =>
    room e.1.line ≤ ((l.drop (e.2 + 1)).filter fun x => rdcSet x.line == rdcSet e.1.line).length).map fun e => e.1.line

def dieWays (v : Word) (die : Nat) : Nat := bits v.toNat (16 * die) 16

/-- A die's part in a change of RDCMASK: the copies go first, then the lines, modified ones through the leaving buffer. -/
def trimDie (n : Nat) (v : Word) (s : State) (die : Nat) : State :=
  let w := popCount (dieWays v die) 16
  let s1 := evictAll s (32 * die) .scopedD (scopedDOver s n die w)
  (rdcOver s1 n die w).foldl (fun s line => evictRdc s die line) s1

/-- Another partition's ways meet the mask on some die. -/
def waysOverlap (s : State) (n : Nat) (v : Word) : Bool :=
  s.front.parts.any fun e => e.1 != n && e.2.exist_ && (e.2.rdcmask &&& v) != 0

/-- RDCMASK: what stands in the ways that a die loses goes first. -/
def execRdcmaskWrite (n : Nat) (v : Word) (s : State) : Out :=
  if !partsOpen s || !(s.part n).exist_ || waysOverlap s n v then .next s
  else
    let s1 := (List.range 4).foldl (trimDie n v) s
    waitOr s s1 ((List.range 4).any fun d => !(scopedDOver s1 n d (popCount (dieWays v d) 16)).isEmpty)
      (s1.setPart n { s1.part n with rdcmask := v })

/-- The SCOPED-Q copies of a quire that stand in ways which a change of SCOPEDW removes; those in the Write Queue stay. -/
def scopedQOver (s : State) (q old new : Nat) : List Copy :=
  let l := (s.quire q).copies
  let rank := fun (e : Copy × Nat) => ((l.take e.2).filter fun c => c.line % 16384 == e.1.line % 16384).length
  (l.zipIdx.filter fun e => new ≤ rank e && rank e < old).map (·.1)

/-- SCOPEDW: values 9 to 15 are ignored; the copies in the ways that are lost go first. -/
def execScopedwWrite (n : Nat) (v : BitVec 4) (s : State) : Out :=
  if !partsOpen s || !(s.part n).exist_ || 8 < v.toNat then .next s
  else
    let old := (s.part n).scopedw
    let lost := fun (s : State) (q : Nat) => scopedQOver s q old v.toNat
    let s1 := (quiresOf s n).foldl (fun s q => evictAll s q .scopedQ (lost s q)) s
    waitOr s s1 ((quiresOf s n).any fun q => (lost s q).any fun c => (s1.quire q).copies.contains c)
      (s1.setPart n { s1.part n with scopedw := v.toNat })

/-! ### ASSIGN and RELEASE (R367) -/

def residentOnDie (s : State) (n die : Nat) : Bool := s.front.tasks.any fun t => t.part == n && dieOfQuire t.quire == die

/-- A QCMD write: ignored while busy, refused in R367's cases, else the drain and scrub begins. -/
def qcmd (s : State) (n q : Nat) (assign : Bool) : State :=
  let p := s.part n
  let bad := residentOnDie s n (dieOfQuire q) || (if assign then (partOfQuire s q).isSome || inScrub s q
    else partOfQuire s q != some n)
  if p.busy.isSome then s
  else if bad then s.setPart n { p with qcmd := 3 }
  else s.setPart n { p with qcmd := 1, busy := some (assign, q) }

def execAssign (n q : Nat) (s : State) : Out := partWrite s n (qcmd s n q true)
def execRelease (n q : Nat) (s : State) : Out := partWrite s n (qcmd s n q false)

/-- Step 1: permission bits toward and from the quire are cleared, and transfers to it end as refused. -/
def clearPerms (s : State) (q : Nat) : State :=
  let s1 := s.setFront { s.front with
    perm := (s.front.perm.filter (·.1 != q)).filterMap fun e =>
      let v := e.2 &&& ~~~(BitVec.ofNat 128 (2 ^ q))
      if v = 0 then none else some (e.1, v) }
  ((s1.quire q).jobs.filter isRecv).foldl (fun s j => match j.kind with
    | .copyrRecv dev _ num _ _ _ _ => sendBend (dropJob s q j.id) dev num j.by_.part true
    | _ => s) s1

/-- The cores of a quire. -/
def coresOf (q : Nat) : List Nat := (List.range 8).map (8 * q + ·)

/-- Step 2: no L1D of the quire holds a line. -/
def dropL1ds (s : State) (q : Nat) : State :=
  (coresOf q).foldl (fun s k => s.setCore k { s.core k with l1d := [] }) s

/-- Step 3: the Write Queue's reductions are performed. -/
def drainQueue (s : State) (q : Nat) : State :=
  (((s.quire q).pend.map fun p => lineOf p.pa).eraseDups).foldl drainLine s

/-- The SCOPED-Q copies of a list of quires, written back or dropped. -/
def dropScopedQ (s : State) (qs : List Nat) : State := qs.foldl (fun s q => evictAll s q .scopedQ (s.quire q).copies) s

/-- Lines that no cache holds any more and no slice has an entry of. -/
def forgetLines (s : State) (gone : Nat → Bool) : State :=
  { s with
    cores := s.cores.map fun e => (e.1, { e.2 with l1d := e.2.l1d.filter fun x => !gone x.line })
    quires := s.quires.map fun e => (e.1, { e.2 with dirs := e.2.dirs.filter fun x => !gone x.1, l2 := e.2.l2.filter fun x => !gone x })
    dies := s.dies.map fun e => (e.1, { e.2 with rdc := e.2.rdc.filter fun x => !gone x.line }) }

/-- The quires whose slices a scrub covers: the partition's on the die, and the one that comes or goes. -/
def scrubQuires (s : State) (n q : Nat) : List Nat :=
  let qs := (quiresOf s n).filter fun r => dieOfQuire r == dieOfQuire q
  if qs.contains q then qs else q :: qs

/-- Step 4: the partition's slices on the die hold no line: copies written back, owned lines recalled. -/
def dropSlices (s : State) (n q : Nat) : State :=
  forgetLines (dropScopedQ s (scrubQuires s n q)) fun line => lineIsPart s n line && homeDie line == some (dieOfQuire q)

/-- Memory and poison of a range become zero and clear. -/
def zeroRange (s : State) (pa n : Nat) : State :=
  { s with mem := s.mem.filter fun e => !inRange pa n e.1
           poison := s.poison.filter fun e => !inRange (pa / 32) (n / 32) e.1 }

/-- Step 5: the vat is zeroed; L1I, TLBs, tile, deckle, lease and channel tables are reset. The stale-message counter
stays. -/
def resetQuire (s : State) (q : Nat) : State :=
  let s1 := (List.range 128).foldl (fun s i => breakLeases s (128 * q + i)) (zeroRange s (vatBase q) 0x800000)
  let s2 := (coresOf q).foldl (fun s k => s.setCore k { s.core k with tlb := [] }) s1
  let x := s2.quire q
  s2.setQuire q { x with tiles := [], deckles := [], chans := [], jobs := [], l1i := [], tlb := [] }

/-- A scrub cannot end yet: a lease of another quire stands in the vat, or holds a copy's write-back. -/
def scrubHeld (s : State) (n q : Nat) : Bool :=
  ((s.cores.flatMap fun e => e.2.leases).any fun l => quireOf l.owner != q && inRange (vatBase q) 0x800000 (128 * l.line))
  || (scrubQuires s n q).any fun r => !(s.quire r).copies.isEmpty

/-- Steps 1 to 4. -/
def scrubCaches (s : State) (n q : Nat) : State := dropSlices (drainQueue (dropL1ds (clearPerms s q) q) q) n q

/-- DRAIN_SCRUB_COMPLETE: the scrub's effects, then QMASK and QCMD. -/
def execDrainScrubComplete (n : Nat) (s : State) : Out :=
  match (s.part n).busy with
  | none => .fault (.notEnabled "no drain and scrub is under way")
  | some (assign, q) =>
    let s0 := scrubCaches s n q
    let s1 := resetQuire s0 q
    let s2 := s1.setFront { s1.front with owner := Sparse.set 0 s1.front.owner q (if assign then n + 1 else 0) }
    waitOr s s0 (scrubHeld s0 n q) (s2.setPart n { s2.part n with qcmd := 2, busy := none })

/-! ### The granule table (R308, R368) -/

def granKey (d g : Nat) : Nat := 178 * d + g
def granBase (d g : Nat) : Nat := d * 0x4000000000 + g * 0x40000000

/-- A copy of a line of a granule stands somewhere. -/
def granCopies (s : State) (k : Nat) : Bool :=
  let mine := fun (c : Copy) => granuleOf (128 * c.line) == some k
  (s.quires.any fun e => e.2.copies.any mine) || s.dies.any fun e => e.2.copies.any mine

/-- The lines of a granule leave every cache; pending reductions are performed and scoped copies written back. -/
def flushGranule (s : State) (k : Nat) : State :=
  let mine := fun (line : Nat) => granuleOf (128 * line) == some k
  let pend := ((s.quires.flatMap fun e => e.2.pend.map fun p => lineOf p.pa).eraseDups).filter mine
  let s1 := pend.foldl drainLine s
  let s2 := (s1.quires.map (·.1)).foldl (fun s q => evictAll s q .scopedQ ((s.quire q).copies.filter fun c => mine c.line)) s1
  let s3 := (List.range 4).foldl (fun s d => evictAll s (32 * d) .scopedD ((s.die d).copies.filter fun c => mine c.line)) s2
  let s4 := forgetLines s3 mine
  { s4 with dies := s4.dies.map fun e => (e.1, { e.2 with leaving := e.2.leaving.filter fun x => !mine x.line }) }

/-- A partition may own a granule of a die where it holds a quire (R308). -/
def granOk (s : State) (d : Nat) (v : BitVec 16) : Bool :=
  !v.getLsbD 15 || (quiresOf s (bits v.toNat 0 7)).any fun q => dieOfQuire q == d

def setGran (s : State) (k : Nat) (v : BitVec 16) : State :=
  s.setFront { s.front with gran := Sparse.set 0 s.front.gran k v }

/-- GRAN_WRITE: a change of H alone takes effect at once; a change of V or PART first flushes the granule, and the
entry changes only when it has been zeroed. A later write replaces the entry to come. -/
def execGranWrite (d g : Nat) (v : BitVec 16) (s : State) : Out :=
  let w := v &&& 0xC07F
  let k := granKey d g
  let old := Sparse.get 0 s.front.gran k
  let busy := s.front.zeroing.any (·.1 == k)
  if !partsOpen s || !granOk s d w then .next s
  else if busy then .next (s.setFront { s.front with zeroing := s.front.zeroing.map fun e => if e.1 = k then (k, w) else e })
  else if (old ^^^ w) &&& 0x807F = 0 then .next (setGran s k w)
  else
    let s1 := flushGranule s k
    waitOr s s1 (granCopies s1 k) (s1.setFront { s1.front with zeroing := s1.front.zeroing ++ [(k, w)] })

/-- GRANULE_ZERO_DONE. -/
def execGranuleZeroDone (d g : Nat) (s : State) : Out :=
  let k := granKey d g
  match s.front.zeroing.find? (·.1 == k) with
  | none => .fault (.notEnabled "the granule is not being zeroed")
  | some e =>
    let s1 := zeroRange s (granBase d g) 0x40000000
    let s2 := setGran (s1.setFront { s1.front with zeroing := s1.front.zeroing.filter (·.1 != k) }) k e.2
    .next (if e.2.getLsbD 15 then postAllHeld s2 (bits e.2.toNat 0 7) else s2)

end Sys2Proof.Machine
end

