-- ==== Sys2Proof/Machine/Device.lean ====
section
/-! DEFINITION. Device control: reset and bring-up, firmware staging, power, temperature, IDE; and the root of trust's
measurements (R363, R371, R372, R374 to R377). -/
namespace Sys2Proof.Machine

/-! ### Reset and bring-up (R374, R377) -/

/-- Host and bus memory, which no reset or bring-up of the device touches. -/
def outsideCells (m : Memory) : Memory := m.filter fun e => 0x8000000000000 ≤ e.1

/-- Device control right after its `k`-th cold reset: no step of bring-up is complete. -/
def coldDev (k : Nat) : Dev := { Dev.reset with resets := k, tj := Config.resetTemperature k }

/-- COLD_RESET: every block starts afresh. The agenda and the free counter are the model's own and go on. -/
def execColdReset (s : State) : Out :=
  .next { State.reset with
    agenda := s.agenda
    freeCtr := s.freeCtr
    mem := outsideCells s.mem
    dev := coldDev (s.dev.resets + 1) }

/-- Writes to STAGEOFF, STAGECMD and STAGE have an effect (R377). -/
def stagingOpen (s : State) : Bool := barsOpen s .host 0 && !s.dev.ready && !s.dev.booterr

def bootError (s : State) (code : Nat) : State := s.setDev { s.dev with booterr := true, ecode := code }

/-- STAGECMD_GO: the length, then the signature; measurements 2 and 3 are taken and the firmware starts (step 3). -/
def execStagecmdGo (len : BitVec 25) (sigOk : Bool) (s : State) : Out :=
  if !stagingOpen s then .next s
  else if s.dev.bstep < 2 then .fault (.notEnabled "the link has not trained")
  else if len.toNat < 1 ∨ 16777216 < len.toNat then .next (bootError s 2)
  else if !sigOk then .next (bootError s 1)
  else
    let f := s.fresh
    let m := Sparse.set 0 (Sparse.set 0 s.dev.measured 2 (Config.measurement 2 f.1)) 3 (Config.measurement 3 f.1)
    .next (f.2.setDev { s.dev with bstep := 3, staged := true, measured := m })

/-- The tables of the front end at their reset values; each partition's chain of snapshots runs on, since its numbers count
from cold reset (R371). -/
def bareFront (f : Front) : Front :=
  { Front.reset with
    parts := f.parts.filterMap fun e =>
      if e.2.snapSeq = 0 then none else some (e.1, { Part.reset with snapSeq := e.2.snapSeq, prev := e.2.prev }) }

/-- Step 4: HBM5 is trained and zeroed, and every table takes its reset value. -/
def resetTables (s : State) : State :=
  let s1 := { s with mem := outsideCells s.mem, poison := [], front := bareFront s.front }
  (s1.setFabric { s.fabric with cal := [], pkeyt := [], rcells := [], rtab0 := [], rtab1 := [], rmap := [] }).setDev
    { s.dev with bstep := 4 }

/-- BRINGUP_COMPLETE: the firmware's two last steps, one at a time (log 126). Step 4 trains and zeroes HBM5 and resets the
tables, or stops bring-up where training fails; step 5 makes READY 1. -/
def execBringupComplete (hbmOk : Bool) (s : State) : Out :=
  if s.dev.booterr ∨ s.dev.ready then .fault (.notEnabled "the firmware is not bringing the device up")
  else match s.dev.bstep, hbmOk with
    | 3, true => .next (resetTables s)
    | 3, false => .next (bootError s 3)
    | 4, true => .next (s.setDev { s.dev with bstep := 5, ready := true })
    | _, _ => .fault (.notEnabled "the firmware is not bringing the device up")

/-! ### Power and temperature (R375, R376) -/

/-- The cap in force, in watts. -/
def capWatts (s : State) : Nat := if s.dev.hot then 1500 else 25 * s.dev.pwrcap.toNat

def execPwrcapWrite (v : BitVec 7) (s : State) : Out :=
  barWrite s .host 0 (if 60 ≤ v.toNat ∧ v.toNat ≤ 120 then s.setDev { s.dev with pwrcap := v } else s)

/-- 105 °C and 115 °C in units of 0.25 °C. -/
def hotPoint : Nat := 420
def tripPoint : Nat := 460

/-- A temperature that THERM may show: HOT is 1 from 105 °C on, and from 115 °C on TRIP is too (R376). -/
def tjFits (s : State) (tj : BitVec 10) : Bool :=
  s.dev.hot == decide (hotPoint ≤ tj.toNat) && (s.dev.trip || decide (tj.toNat < tripPoint))

/-- POWER_WINDOW: the device holds the average of a window below the cap; THERM shows the hottest junction at the window's
end (log 127). -/
def execPowerWindow (watts : BitVec 16) (tj : BitVec 10) (s : State) : Out :=
  when (decide (watts.toNat < capWatts s) && tjFits s tj) "the device keeps its power below the cap"
    (s.setDev { s.dev with pwrnow := watts, tj := tj })

def execThermalCap (tj : BitVec 10) (s : State) : Out :=
  when (hotPoint ≤ tj.toNat && tj.toNat < tripPoint) "the junction is not at 105 °C"
    (s.setDev { s.dev with hot := true, tj := tj })

def execThermalTrip (tj : BitVec 10) (s : State) : Out :=
  when (tripPoint ≤ tj.toNat) "the junction is not at 115 °C"
    (s.setDev { s.dev with hot := true, trip := true, tj := tj })

def execHotCapEnd (tj : BitVec 10) (s : State) : Out :=
  when (s.dev.hot && tj.toNat < hotPoint) "no cap of 105 °C ends" (s.setDev { s.dev with hot := false, tj := tj })

/-! ### IDE (R363) -/

/-- IDEREQ: a write of 0 is ignored at all times. -/
def execIdereqSet (v : Bool) (s : State) : Out := barWrite s .host 0 (if v then s.setDev { s.dev with idereq := true } else s)

def execIdeStreamSecure (fn : Nat) (s : State) : Out :=
  .next (s.setDev { s.dev with ide := Sparse.set false s.dev.ide fn true })

/-! ### GET_MEASUREMENTS (R372) -/

/-- A request's bytes: SPDM 1.3, code 0xE0, Param1 with bit 0 for a signature, Param2, the nonce and SlotIDParam (log 97). -/
def reqBytes (r : MeasReq) (param2 : Byte) : List Byte :=
  [0x13, 0xE0, (if r.nonce.isSome then 1 else 0), param2] ++ r.nonce.getD [] ++ [r.slot.setWidth 8]

/-- A block's bytes: index, MeasurementSpecification, size, value type, value size, value (log 97). -/
def blockBytes (b : MeasBlock) : List Byte :=
  toBytes 1 b.index ++ [b.spec] ++ toBytes 2 (3 + b.value.length) ++ [b.vtype] ++ toBytes 2 b.value.length ++ b.value

/-- A response's bytes: SPDM 1.3, code 0x60, the block count or 0, the slot, and the blocks (log 97). -/
def respBytes (r : MeasReq) (b : MeasBody) : List Byte :=
  match b with
  | .count n => [0x13, 0x60] ++ toBytes 1 n ++ [r.slot.setWidth 8] ++ toBytes 1 0 ++ toBytes 3 0
  | .blocks l =>
    let rec_ := l.flatMap blockBytes
    [0x13, 0x60, 0, r.slot.setWidth 8] ++ toBytes 1 l.length ++ toBytes 3 rec_.length ++ rec_
  | .invalidRequest => []

/-- The transcript that a signed response covers. -/
def transcript (s : State) (r : MeasReq) (param2 : Byte) (b : MeasBody) : List Byte :=
  Config.spdmEarlier s.freeCtr ++ reqBytes r param2 ++ respBytes r b

/-- An answer is given, signed where the request asks for it by the key of the slot that it names. After THERM.TRIP only DOE
reaches the root of trust (R376). -/
def answerMeas (s : State) (r : MeasReq) (param2 : Byte) (b : MeasBody) : State :=
  let sign := match b with
    | .invalidRequest => none
    | _ => r.nonce.map fun _ => Config.signature r.slot.toNat (transcript s r param2 b)
  s.fresh.2.setDev { s.dev with answers := s.dev.answers ++ [⟨r.who, b, sign⟩] }

/-- A request that does not reach the device after THERM.TRIP does nothing (R376). -/
def measured (s : State) (r : MeasReq) (t : State) : State := if s.dev.trip && r.who == .mgmt then s else t

def execGetMeasurementsCount (r : MeasReq) (s : State) : Out :=
  .next (measured s r (answerMeas s r 0 (.count (Config.blockCount 0))))

def bootIndices (param2 : Byte) : List Nat :=
  if param2 = 0xFF then [1, 2, 3, 4] else if 1 ≤ param2.toNat ∧ param2.toNat ≤ 4 then [param2.toNat] else []

/-- The block of a boot measurement. -/
def bootBlock (s : State) (i : Nat) : MeasBlock :=
  ⟨i, 0x01, Config.bootType i, toBytes 48 (Sparse.get 0 s.dev.measured i).toNat⟩

def execGetMeasurementsBoot (r : MeasReq) (param2 : Byte) (s : State) : Out :=
  when (!(bootIndices param2).isEmpty) "Param2 names no boot measurement"
    (measured s r (answerMeas s r param2 (.blocks ((bootIndices param2).map (bootBlock s)))))

/-- Whether a requester may name a partition: a virtual function only its own. -/
def mayName (s : State) (w : Requester) (n : Nat) : Bool :=
  match w with
  | .mgmt | .doe 0 => true
  | .doe fn => vdPart s fn == n

/-- The block of a snapshot: a raw freeform manifest. -/
def snapBlock (n : Nat) (b : List Byte) : MeasBlock := ⟨0x20 + n, 0x01, 0x84, b⟩

/-- A fresh snapshot; the final one of a partition that has been destroyed, with no new capture. -/
def execGetMeasurementsSnapshot (r : MeasReq) (n : Nat) (s : State) : Out :=
  let answer := fun (t : State) (b : List Byte) => answerMeas t r (BitVec.ofNat 8 (0x20 + n)) (.blocks [snapBlock n b])
  when (mayName s r.who n) "the function may not name this partition"
    (measured s r (match (s.part n).final with
      | some b => answer s b
      | none => answer (capture s n).1 (capture s n).2))

def execGetMeasurementsInvalid (r : MeasReq) (param2 : Byte) (s : State) : Out :=
  let v := param2.toNat
  let snap := 0x20 ≤ v && v ≤ 0x9F
  let good := v == 0 || !(bootIndices param2).isEmpty || (snap && mayName s r.who (v - 0x20))
  when (!good) "the request is one that the device accepts" (measured s r (answerMeas s r param2 .invalidRequest))

end Sys2Proof.Machine
end

