-- ==== Sys2Proof/Machine/HostPort.lean ====
section
/-! DEFINITION. The Host Port toward non-coherent PCIe mappings: requests sent in acceptance order, and the completions that
perform a read or an AtomicOp in the host's memory (R172, R183, R192, R363). -/
namespace Sys2Proof.Machine

/-- HOST_PORT_SEND: the oldest accepted request goes to the host; it waits while its function's IDE streams are not secure. -/
def execHostPortSend (s : State) : Out :=
  match s.dev.hostQ with
  | [] => .fault (.notEnabled "the Host Port is empty")
  | r :: rest => when (!ideHolds s r.fn) "IDE streams are not secure" (hostSend (s.setDev { s.dev with hostQ := rest }) r)

/-- The event of a non-posted request, performed in the host's memory: its old bytes. -/
def hostMemory (s : State) (r : HostReq) : State × List Byte :=
  let old := Memory.readBytes s.mem r.pa r.len
  let s1 := countBytes s r.part r.pa r.len false
  match opWrites r.op old with
  | some w => (s1.setMem (Memory.writeBytes s1.mem r.pa w), old)
  | none => (s1, old)

/-- A completion that is not Successful raises TRANSLATION; its record holds the status, in SUB (R192, log 13). -/
def statusTrap (r : HostReq) (status : BitVec 3) : Trap := accTrap .translation r.addr r.acc status.toNat

/-- What a completion does to a context's own access: one whose thread has gone is discarded (R302). -/
def completeCtx (s : State) (pos : Nat) (r : HostReq) (res : Except Trap (List Byte)) : State :=
  let c := s.ctx pos
  match c.port with
  | some p =>
    if c.run = .running ∧ c.wait = .port ∧ c.slotgen = r.gen ∧ p.sent ∧ p.remote.isNone then match res with
      | .ok old => advancePort s pos old
      | .error t => portTrap s pos t
    else discardStale s (quireOf pos) none
  | none => discardStale s (quireOf pos) none

/-- What a completion does to a remote access under way at its home. -/
def completeWork (w : Work) (res : Except Trap (List Byte)) : Work :=
  match w.evs, res with
  | ev :: rest, .ok old => { w with evs := rest, got := if opReads ev.op then w.got ++ old else w.got, sent := false }
  | [], .ok _ => { w with sent := false }
  | _, .error t => { w with sent := false, err := some t }

/-- What a completion does to a streamed read of the entry at a core's head. -/
def completeStream (s : State) (core : Nat) (r : HostReq) (res : Except Trap (List Byte)) : State :=
  match headOf s core with
  | some e =>
    if BitVec.ofNat 32 e.id ≠ r.gen ∨ e.faulted then s
    else match res with
      | .ok old => streamGot s core e r.addr.toNat old
      | .error t => failRead s core e t
  | none => s

/-- What a completion does to a block fetch: the block, or the fault that its fetch met (R76, R138). -/
def completeFetch (s : State) (pos : Nat) (r : HostReq) (res : Except Trap (List Byte)) : State :=
  let a := r.addr.toNat
  giveBlock s (quireOf pos) a (asidOf s pos) (match res with
    | .ok old => ⟨a, old, none⟩
    | .error t => ⟨a, [], some t⟩)

/-- A completion reaches the party whose request it answers. -/
def completeFor (s : State) (r : HostReq) (res : Except Trap (List Byte)) : State :=
  match r.by_ with
  | .ctx pos => completeCtx s pos r res
  | .job q id => match jobOf s q id, res with
    | some j, .ok old => jobGot s q j r.addr.toNat old
    | some j, .error t => if j.faulted then s else jobFault s q j t
    | none, _ => s
  | .racc src => setWork s none src ((workOf s none src).map fun w => completeWork w res)
  | .ownRacc pos =>
    if (s.ctx pos).slotgen = r.gen then setWork s (some pos) 0 ((workOf s (some pos) 0).map fun w => completeWork w res)
    else discardStale s (quireOf pos) none
  | .stream core => completeStream s core r res
  | .fetch pos => completeFetch s pos r res
  | _ => s

/-- PCIE_COMPLETION: a read's or AtomicOp's completion, by the number of its request. -/
def execPcieCompletion (req : Nat) (status : BitVec 3) (s : State) : Out :=
  match s.dev.hostSent.find? fun r => r.id == req && r.wait with
  | none => .fault (.notEnabled "no request awaits such a completion")
  | some r =>
    let s1 := s.setDev { s.dev with hostSent := s.dev.hostSent.erase r }
    if status = 0 then
      let m := hostMemory s1 r
      .next (completeFor m.1 r (.ok m.2))
    else .next (completeFor s1 r (.error (statusTrap r status)))

end Sys2Proof.Machine
end

