-- ==== Sys2Proof/Machine/MemInstr.lean ====
section
/-! DEFINITION. Loads, stores, atomics, reductions, leases, fences and barriers (R176 to R199). -/
namespace Sys2Proof.Machine

/-- The low bytes of a register as stored. -/
def regBytes (c : Ctx) (r : Reg) (n : Nat) : List Byte := toBytes n (c.reg r).toNat

/-- A slice of the stored bytes for the granule event at `off`. -/
def storeOp (d : List Byte) (off n : Nat) : GOp := .write ((d.drop off).take n)

def readOp (_ _ : Nat) : GOp := .read

/-- A register pair's 16 bytes, the lower register first. -/
def pairNat (c : Ctx) (r : Reg) : Nat := (c.reg r).toNat + 2 ^ 64 * (c.reg (regSucc r)).toNat

/-! ### Loads and stores (R180 to R184) -/

def loadWith (sx : Bool) (maj : Nat) (g : Guard) (sz : Sz) (po : Pol) (rd : Reg) (a : Addr) (s : State) : Out :=
  guarded g false (addrBytes a) s fun c =>
    access s c ⟨eaOf c a, szBytes sz, 1, .read, .v, readOp, .load rd sx, addrBytes a, maj, 0, po⟩ noTest

def execLd (g : Guard) (sz : Sz) (po : Pol) (rd : Reg) (a : Addr) (s : State) : Out := loadWith false 0x40 g sz po rd a s

def execLdx (g : Guard) (sz : Sz) (po : Pol) (rd : Reg) (a : Addr) (s : State) : Out := loadWith true 0x41 g sz po rd a s

def execSt (g : Guard) (sz : Sz) (po : Pol) (rd : Reg) (a : Addr) (s : State) : Out :=
  guarded g false (addrBytes a) s fun c =>
    access s c ⟨eaOf c a, szBytes sz, 1, .write, .v, storeOp (regBytes c rd (szBytes sz)), .store, addrBytes a, 0x42, 0, po⟩
      noTest

def execLdp (g : Guard) (po : Pol) (rd : Reg) (a : Addr) (s : State) : Out :=
  guarded g false (addrBytes a) s fun c =>
    if regOdd rd then bad s (operand rd.toNat)
    else access s c ⟨eaOf c a, 16, 1, .read, .v, readOp, .loadPair rd, addrBytes a, 0x43, 0, po⟩ noTest

def execStp (g : Guard) (po : Pol) (rd : Reg) (a : Addr) (s : State) : Out :=
  guarded g false (addrBytes a) s fun c =>
    if regOdd rd then bad s (operand rd.toNat)
    else
      access s c ⟨eaOf c a, 16, 1, .write, .v, storeOp (toBytes 16 (pairNat c rd)), .store, addrBytes a, 0x44, 0, po⟩ noTest

/-- PREF makes no move of the ordering machine and never traps after decode (R184). -/
def execPref (g : Guard) (_po : Pol) (a : Addr) (s : State) : Out :=
  guarded g false (addrBytes a) s fun c => ok (retire s c (addrBytes a))

/-- WAITLINE (R185). -/
def execWaitline (g : Guard) (sz : Sz) (po : Pol) (rd : Reg) (pd : Pred) (rc : Reg) (a : Addr) (s : State) : Out :=
  guarded g false (addrBytes a) s fun c =>
    let n := szBytes sz
    access s c ⟨eaOf c a, n, n, .read, .v, readOp, .waitline rd pd ((c.reg rc).toNat % 2 ^ (8 * n)) s.cyc, addrBytes a,
      0x46, 0, po⟩ noTest

/-! ### Atomics and reductions (R186 to R192) -/

def execAtom (g : Guard) (op : AtomOp) (sz : Sz) (sc : Scope) (po : Pol) (rd rc : Reg) (a : Addr) (s : State) : Out :=
  guarded g false (addrBytes a) s fun c =>
    let n := szBytes sz
    access s c ⟨eaOf c a, n, n, .atomic, sc, fun _ _ => .rmw op sz ((c.reg rc).toNat % 2 ^ (8 * n)), .atom rd,
      addrBytes a, 0x47, op.code, po⟩ noTest

def execCas (g : Guard) (sz : Sz) (sc : Scope) (po : Pol) (rd : Reg) (pd : Pred) (rc rb : Reg) (a : Addr) (s : State) :
    Out :=
  guarded g false (addrBytes a) s fun c =>
    let n := szBytes sz
    let e := (c.reg rc).toNat % 2 ^ (8 * n)
    access s c ⟨eaOf c a, n, n, .atomic, sc, fun _ _ => .cas e ((c.reg rb).toNat % 2 ^ (8 * n)), .cas rd pd e,
      addrBytes a, 0x48, 0, po⟩ noTest

def execCas2 (g : Guard) (sc : Scope) (po : Pol) (rd : Reg) (pd : Pred) (rc rb : Reg) (a : Addr) (s : State) : Out :=
  guarded g false (addrBytes a) s fun c =>
    if regOdd rd ∨ regOdd rc ∨ regOdd rb then bad s (operand rd.toNat)
    else
      access s c ⟨eaOf c a, 16, 16, .atomic, sc, fun _ _ => .cas (pairNat c rc) (pairNat c rb),
        .cas2 rd pd (pairNat c rc), addrBytes a, 0x49, 0, po⟩ noTest

def execRed (g : Guard) (op : AtomOp) (sz : Sz) (sc : Scope) (po : Pol) (rc : Reg) (a : Addr) (s : State) : Out :=
  guarded g false (addrBytes a) s fun c =>
    let n := szBytes sz
    access s c ⟨eaOf c a, n, n, .reduce, sc, fun _ _ => .rmw op sz ((c.reg rc).toNat % 2 ^ (8 * n)), .red, addrBytes a,
      0x4A, op.code, po⟩ noTest

/-! ### Leases (R193, R194) -/

def execLease (g : Guard) (pd : Pred) (n : BitVec 4) (a : Addr) (s : State) : Out :=
  guarded g false (addrBytes a) s fun c =>
    access s c ⟨eaOf c a, 1, 1, .lease, .v, fun _ _ => .lease (n.toNat + 1), .lease pd, addrBytes a, 0x4B, 0, .dflt⟩ noTest

def execLend (g : Guard) (pd : Pred) (s : State) : Out :=
  guarded g false 8 s fun c =>
    if stLC c.st = 0 then writesPredAt s c pd false
    else if (leasesOf s s.cur).any fun l => granuleBusy s (128 * l.line) then waitRetest s s.cur
    else
      let s1 := commitAll s s.cur
      writesPredAt s1 (s1.ctx s1.cur) pd true
where
  /-- The predicate written and the instruction retired. -/
  writesPredAt (s : State) (c : Ctx) (pd : Pred) (v : Bool) : Eff := ok (retire s (c.setPred pd v) 8)

/-! ### Fences and barriers (R196 to R199) -/

def fenceEv (sc : Scope) : GEv :=
  { pa := 0, len := 0, coh := .coherent, addr := 0, acc := .none, sc := sc, op := .fence sc }

def execFence (g : Guard) (sc : Scope) (s : State) : Out :=
  guarded g false 8 s fun c =>
    let p : Port := { evs := [fenceEv sc], got := [], fin := .fence, len := 8, remote := none, sent := false,
                      minor := 0, major := 0x4D, since := s.cyc, po := .dflt, work := none }
    ok (s.setCtx s.cur { c with port := some p, wait := .port })

/-- R198, R199: the page must be COHERENT device memory. -/
def barTest (ea : Word) (l : List Loc) : Option Trap :=
  if l.all fun x => x.coh == .coherent && !rangeIsHost x.pa then none else some (barTrap ea)

def execBarArrive (g : Guard) (rd : Reg) (a : Addr) (s : State) : Out :=
  guarded g false (addrBytes a) s fun c =>
    access s c ⟨eaOf c a, 8, 8, .atomic, .v, fun _ _ => .barArrive, .barArrive rd, addrBytes a, 0x4E, 0, .dflt⟩
      (barTest (eaOf c a))

def execBarWait (g : Guard) (rd : Reg) (a : Addr) (s : State) : Out :=
  guarded g false (addrBytes a) s fun c =>
    access s c ⟨eaOf c a, 8, 8, .read, .v, readOp, .barWait (BitVec.ofNat 32 (bits (c.reg rd).toNat 32 32)), addrBytes a,
      0x4E, 1, .dflt⟩ (barTest (eaOf c a))

end Sys2Proof.Machine
end

