-- ==== Sys2Proof/Machine/Registers.lean ====
section
/-! DEFINITION. Writes to the registers that have no opcode-table row of their own and to a queue's registers; and BAR0 of a
function by offset, written and read (R5, R285, R320, R330, R339, R343, R345, R358, R360, R361, R363, R365, R366, R377). -/
namespace Sys2Proof.Machine

/-! ### Queue registers (R361) -/

/-- Ignored while the producer index differs from the consumer index; else both indices become 0. -/
def execQueueRegisterWrite (fn q : Nat) (isLog : Bool) (v : Word) (s : State) : Out :=
  let x := lqueue s fn q
  barWrite s .host fn (if x.kick ≠ x.cons ∨ x.prod ≠ x.cons then s
    else setLqueue s fn q
      { base := if isLog then x.base else v, log := if isLog then v.setWidth 5 else x.log, prod := 0, cons := 0, kick := 0 })

/-! ### The fabric register block (R358) -/

/-- A write that the state permits in CONFIG only; elsewhere it sets ERR. -/
def inConfig (s : State) (ok : Bool) (t : State) : State := if s.fabric.state = stConfig ∧ ok = true then t else setErr s

def writeFid (s : State) (v : Nat) : State :=
  inConfig s (bits v 16 4 ≤ 10)
    (s.setFabric { s.fabric with fid := BitVec.ofNat 20 (bits v 0 10 + bits v 16 4 * 2 ^ 16) })

def writeCal (s : State) (e v : Nat) : State :=
  inConfig s (e < 1024) (s.setFabric { s.fabric with
    cal := Sparse.set none s.fabric.cal e (if bits v 0 10 = defaultKey e then none else some (BitVec.ofNat 10 v)) })

/-- PKEYT: a key of 0x0000 is taken as written and is never valid (R341: `pkeyOf`). -/
def writePkeyt (s : State) (n v : Nat) : State :=
  inConfig s (n < 128) (s.setFabric { s.fabric with pkeyt := Sparse.set 0 s.fabric.pkeyt n (BitVec.ofNat 32 v &&& 0x8000FFFF) })

/-- RCELLS: at most 16,128 in all. -/
def writeRcells (s : State) (n v : Nat) : State :=
  let others := ((s.fabric.rcells.filter (·.1 != n)).map (·.2.toNat)).sum
  inConfig s (n < 128 && others + v % 2 ^ 32 ≤ 16128)
    (s.setFabric { s.fabric with rcells := Sparse.set 0 s.fabric.rcells n (BitVec.ofNat 32 v) })

/-- RTAB: the inactive generation only; bits 127 to 92 are reserved. -/
def writeRtab (s : State) (g : Bool) (d : Nat) (v : BitVec 128) : State :=
  let w := BitVec.ofNat 128 (v.toNat % 2 ^ 92)
  if g = s.fabric.gensel ∨ 1024 ≤ d then setErr s
  else if g then s.setFabric { s.fabric with rtab1 := Sparse.set 0 s.fabric.rtab1 d w }
  else s.setFabric { s.fabric with rtab0 := Sparse.set 0 s.fabric.rtab0 d w }

/-- A read-only register: a write is ignored, and in the fabric block it sets ERR. -/
def writeReadOnly (s : State) (off : Nat) : State := if inRange 0x400000 0x80000 off then setErr s else s

/-! ### Partition blocks (R365, R366) -/

/-- A partition register takes a new value. -/
def putPart (s : State) (n : Nat) (f : Part → Part) : State := s.setPart n (f (s.part n))

/-- PERM of a quire of the partition. -/
def writePerm (s : State) (n q : Nat) (v : BitVec 128) : State :=
  if partOfQuire s q = some n then s.setFront { s.front with perm := Sparse.set 0 s.front.perm q v } else s

/-! ### Virtual devices and roots (R320, R361) -/

/-- The fields of a virtual device table entry but SCHED. -/
def vdtMask : BitVec 128 := 0x7FFF03FF00000000

/-- A write of an entry: its fields, and SCHED as a scheduling command. -/
def writeVdt (s : State) (v : Nat) (x : BitVec 128) : Out :=
  let sched := BitVec.ofNat 128 (bit1 (vdSched s v) * 2 ^ 63)
  let s1 := s.setFront { s.front with vdt := Sparse.set 0 s.front.vdt v ((x &&& vdtMask) ||| sched) }
  if x.getLsbD 63 then asOut s (takePending v (List.range 16) (setSched s1 v true)) else .next (setSched s1 v false)

/-- A root table entry, in the model's layout (log 5): bit 0 valid, [14:8] partition, [115:64] top-level table. -/
def rootOf (x : BitVec 128) : Root := ⟨x.getLsbD 0, bits x.toNat 8 7, bits x.toNat 64 52⟩

/-! ### REGISTER_WRITE -/

/-- A write of the staging window: eight bytes at an offset of the piece that STAGEOFF names (R377). -/
def writeStage (s : State) (off : Nat) (v : Nat) : State :=
  if 32768 ≤ off + 7 then s
  else
    let a := 32768 * s.dev.stageOff.toNat + off
    let put := fun (m : Sparse Byte) (i : Nat) => Sparse.set 0 m (a + i) (BitVec.ofNat 8 (bits v (8 * i) 8))
    s.setDev { s.dev with stage := (List.range 8).foldl put s.dev.stage }

/-- STAGECMD: a write with GO hands the image over; whether its signature is good is a free value here. -/
def writeStageCmd (s : State) (v : BitVec 128) : Out :=
  if v.getLsbD 63 then execStagecmdGo (v.setWidth 25) (Config.imageGood s.freeCtr) s.fresh.2 else .next s

/-! ### BAR0 by offset (R285, R358, R360, R361, R365, R377) -/

/-- One event after another. -/
def andThen (o : Out) (f : State → Out) : Out :=
  match o with
  | .next s => f s
  | other => other

/-- FSTATE: ERR's clear, then the state, then GENSEL (log 137). -/
def writeFstate (w : Writer) (v : BitVec 128) (s : State) : Out :=
  let cleared := if v.getLsbD 16 then execErrClear w s else .next s
  let moved := andThen cleared fun s => match bits v.toNat 0 2 with
    | 0 => execFabricOff w s
    | 1 => execFabricConfig w s
    | 2 => execFabricRun w s
    | _ => barWrite s w 0 (setErr s)
  andThen moved (execGenerationCommit w (v.getLsbD 8))

/-- The index of the register of `size` bytes that begins at an offset of a table of `n` of them. -/
def entryAt (base size n off : Nat) : Option Nat :=
  if base ≤ off ∧ off < base + size * n ∧ (off - base) % size = 0 then some ((off - base) / size) else none

/-- The kick page (R285). -/
def writeKickPage (fn off : Nat) (v : BitVec 128) (s : State) : Out :=
  if off = 0x100 then execGraphCommit fn (v.setWidth 64) s
  else match entryAt 0 8 16 off with
    | some q => execKick fn q (v.setWidth 64) s
    | none => .next s

/-- A queue's registers (R361). -/
def writeQueueRegs (fn off : Nat) (v : BitVec 128) (s : State) : Out :=
  match entryAt 0x1000 8 32 off with
  | some i => execQueueRegisterWrite fn (i / 2) (i % 2 == 1) (v.setWidth 64) s
  | none => .next s

/-- What a host answer in FOP does (R330). -/
def writeFop (n : Nat) (v : BitVec 128) (s : State) : Out :=
  match bits v.toNat 0 2 with
  | 1 => execFopResume n s
  | 2 => execFopResumeSt n s
  | 3 => execFopAbort n s
  | _ => .next s

/-- QCMD (R365). -/
def writeQcmd (n : Nat) (v : BitVec 128) (s : State) : Out :=
  let q := bits v.toNat 8 7
  match bits v.toNat 0 2 with
  | 1 => execAssign n q s
  | 2 => execRelease n q s
  | _ => .next s

/-- A partition register takes a new value, by a write that reaches the block (R365). -/
def writePart (s : State) (n : Nat) (f : Part → Part) : Out := partWrite s n (putPart s n f)

def writeFqbase (n : Nat) (v : Nat) (s : State) : Out :=
  partWrite s n (postAllHeld (putPart s n fun p => { p with fqbase := BitVec.ofNat 64 v }) n)

def writeFqlog (n : Nat) (v : Nat) (s : State) : Out :=
  partWrite s n (postAllHeld (putPart s n fun p => { p with fqlog := BitVec.ofNat 5 v }) n)

/-- A partition's block, by the offset in it (R365). -/
def writePartBlock (n off : Nat) (v : BitVec 128) (s : State) : Out :=
  match off with
  | 0x000 => if v.getLsbD 0 then execPartitionCreate n s else execPartitionDestroy n s
  | 0x018 => writeQcmd n v s
  | 0x020 => writeFqbase n v.toNat s
  | 0x028 => writeFqlog n v.toNat s
  | 0x038 => execFqconsWrite n (v.setWidth 32) s
  | 0x040 => writePart s n fun p => { p with fseq := v.setWidth 64 }
  | 0x048 => writeFop n v s
  | 0x050 => writePart s n fun p => { p with fst := v.setWidth 64 }
  | 0x058 => writePart s n fun p => { p with svc := v.setWidth 16 &&& 0xBFFF }
  | 0x060 => writePart s n fun p => { p with age := v.setWidth 16 }
  | 0x068 => writePart s n fun p => { p with quantum := v.setWidth 16 }
  | 0x070 => execRdcmaskWrite n (v.setWidth 64) s
  | 0x078 => execScopedwWrite n (v.setWidth 4) s
  | 0x080 => writePart s n fun p => { p with migasid := bits v.toNat 0 10 }
  | _ => match entryAt 0x800 16 128 off with
    | some q => partWrite s n (writePerm s n q v)
    | none => .next s

/-- A write of the root table, once the device is ready (R320, R374). -/
def writeRoot (s : State) (a : Nat) (v : BitVec 128) : State :=
  if s.dev.ready ∧ a < 1024 then s.setFront { s.front with roots := Sparse.set Root.reset s.front.roots a (rootOf v) } else s

/-- The fabric register block, by the offset in it; its reserved offsets do nothing (R5, R358). -/
def writeFabricBlock (w : Writer) (off : Nat) (v : BitVec 128) (s : State) : Out :=
  let n := v.toNat
  let put := barWrite s w 0
  match off with
  | 0x00 => put (writeFid s n)
  | 0x08 => writeFstate w v s
  | 0x10 | 0x18 | 0x20 => put (setErr s)
  | _ => match entryAt 0x800 2 1024 off, entryAt 0x1000 4 128 off, entryAt 0x1200 4 128 off with
    | some e, _, _ => put (writeCal s e n)
    | _, some k, _ => put (writePkeyt s k n)
    | _, _, some k => put (writeRcells s k n)
    | _, _, _ => match entryAt 0x2000 16 1024 off, entryAt 0x6000 16 1024 off, entryAt 0xA000 2 131072 off with
      | some d, _, _ => put (writeRtab s false d v)
      | _, some d, _ => put (writeRtab s true d v)
      | _, _, some i => execRankMapWrite w (i / 1024) (i % 1024) (v.setWidth 16) s
      | _, _, _ => .next s

/-- The device control block, by the offset in it (R377). -/
def writeDevBlock (off : Nat) (v : BitVec 128) (s : State) : Out :=
  match off with
  | 0x08 => execIdereqSet (v.getLsbD 0) s
  | 0x10 => execPwrcapWrite (v.setWidth 7) s
  | 0x28 => .next (if stagingOpen s then s.setDev { s.dev with stageOff := v.setWidth 9 } else s)
  | 0x30 => if stagingOpen s then writeStageCmd s v else .next s
  | _ => match entryAt 0x1000 2 1024 off with
    | some i => if i % 256 < 178 then execGranWrite (i / 256) (i % 256) (v.setWidth 16) s else .next s
    | none =>
      .next (if stagingOpen s ∧ inRange 0x8000 0x8000 off then writeStage s (off - 0x8000) v.toNat else s)

/-- A host write of one register at its offset of BAR0; any other offset is reserved, and so is all of a virtual function's
BAR0 past 8 KiB but its own pages (R5, R360). -/
def writeBar (fn off : Nat) (v : BitVec 128) (s : State) : Out :=
  if off < 0x1000 then writeKickPage fn off v s
  else if off < 0x1100 then writeQueueRegs fn off v s
  else if fn ≠ 0 then .next s
  else if inRange 0x400000 0x80000 off then writeFabricBlock .host (off - 0x400000) v s
  else if inRange 0x800000 0x10000 off then writeDevBlock (off - 0x800000) v s
  else if inRange 0x100000 0x80000 off then
    writePartBlock ((off - 0x100000) / 4096) ((off - 0x100000) % 4096) v s
  else if !barsOpen s .host 0 then .next s
  else match entryAt 0x10000 16 256 off, entryAt 0x20000 16 1024 off with
    | some f, _ => writeVdt s f v
    | _, some a => .next (writeRoot s a v)
    | _, _ => .next s

/-! ### REGISTER_WRITE -/

/-- The registers that the management interface may write: the fabric register block (R358). -/
def mgmtMay : RegName → Bool
  | .fid | .cal _ | .pkeyt _ | .rcells _ | .rtab _ _ | .fstate => true
  | .readOnly off | .reserved off => inRange 0x400000 0x80000 off
  | _ => false

/-- A write reaches its register: the host's by its link's state, the management interface's to the fabric block; a function's
AtomicOp enable is configuration, which the link always carries (R358, R363, R376). -/
def linkTakes (s : State) (w : Writer) (r : RegName) : Bool :=
  match w, r with
  | .host, .atomicOpEnable _ => true
  | .host, .bar fn _ => barsOpen s .host fn
  | .host, _ => barsOpen s .host 0
  | .mgmt, _ => mgmtMay r && barsOpen s .mgmt 0

/-- What a write that reaches its register does. -/
def writeReg (w : Writer) (r : RegName) (v : BitVec 128) (s : State) : Out :=
  let n := v.toNat
  match r with
  | .fid => .next (writeFid s n)
  | .cal e => .next (writeCal s e n)
  | .pkeyt k => .next (writePkeyt s k n)
  | .rcells k => .next (writeRcells s k n)
  | .rtab g d => .next (writeRtab s g d v)
  | .fqbase k => writeFqbase k n s
  | .fqlog k => writeFqlog k n s
  | .fseq k => writePart s k fun p => { p with fseq := BitVec.ofNat 64 n }
  | .fst k => writePart s k fun p => { p with fst := BitVec.ofNat 64 n }
  | .svc k => writePart s k fun p => { p with svc := BitVec.ofNat 16 n &&& 0xBFFF }
  | .age k => writePart s k fun p => { p with age := BitVec.ofNat 16 n }
  | .quantum k => writePart s k fun p => { p with quantum := BitVec.ofNat 16 n }
  | .migasid k => writePart s k fun p => { p with migasid := n % 1024 }
  | .perm k q => partWrite s k (writePerm s k q v)
  | .vdt f => if f < 256 then writeVdt s f v else .next s
  | .root a => .next (writeRoot s a v)
  | .stageOff => .next (if stagingOpen s then s.setDev { s.dev with stageOff := BitVec.ofNat 9 n } else s)
  | .stage off => .next (if stagingOpen s then writeStage s off n else s)
  | .stageCmd => if stagingOpen s then writeStageCmd s v else .next s
  | .atomicOpEnable fn => .next (s.setDev { s.dev with atomicEn := Sparse.set false s.dev.atomicEn fn (v.getLsbD 0) })
  | .fstate => writeFstate w v s
  | .bar fn off => writeBar fn off v s
  | .readOnly off => .next (writeReadOnly s off)
  | .reserved _ => .next s

def execRegisterWrite (w : Writer) (r : RegName) (v : BitVec 128) (s : State) : Out :=
  if linkTakes s w r then writeReg w r v s else .next s

/-! ### Host reads of BAR0 (R360) -/

/-- `n` fields of `size` bytes in ascending order, as the word that a read of 8 bytes returns. -/
def packed (n size : Nat) (f : Nat → Nat) : Nat := ofBytes ((List.range n).flatMap fun i => toBytes size (f i))

/-- A 16-byte register's low or high half. -/
def half (off : Nat) (v : Nat) : Nat := if off % 16 = 0 then v % 2 ^ 64 else v / 2 ^ 64

/-- A root table entry in the model's layout (log 5). -/
def rootBits (r : Root) : Nat := bit1 r.valid + 2 ^ 8 * r.part + 2 ^ 64 * r.top

/-- QMASK: quires 64h to 64h + 63 of a partition. -/
def qmask (s : State) (n h : Nat) : Nat :=
  ((quiresOf s n).filter fun q => q / 64 == h).foldl (fun x q => x + 2 ^ (q % 64)) 0

def readPartBlock (s : State) (n off : Nat) : Option Nat :=
  let p := s.part n
  match off with
  | 0x000 => some (bit1 p.exist_ + 2 ^ 16 * p.pgen.toNat)
  | 0x008 => some (qmask s n 0)
  | 0x010 => some (qmask s n 1)
  | 0x018 => some p.qcmd
  | 0x020 => some p.fqbase.toNat
  | 0x028 => some p.fqlog.toNat
  | 0x030 => some p.fqprod.toNat
  | 0x038 => some p.fqcons.toNat
  | 0x040 | 0x050 => none
  | 0x048 => some p.fop
  | 0x058 => some p.svc.toNat
  | 0x060 => some p.age.toNat
  | 0x068 => some p.quantum.toNat
  | 0x070 => some p.rdcmask.toNat
  | 0x078 => some p.scopedw
  | 0x080 => some p.migasid
  | _ => if inRange 0x800 0x800 off then
      some (half off (Sparse.get 0 s.front.perm ((off - 0x800) / 16 )).toNat)
    else some 0

def readFabricBlock (s : State) (off : Nat) : Nat :=
  let f := s.fabric
  match off with
  | 0x00 => f.fid.toNat
  | 0x08 => f.state + 2 ^ 8 * bit1 f.gensel + 2 ^ 16 * bit1 f.err
  | 0x10 => f.slot % 2 ^ 64
  | 0x18 => oldCnt s
  | 0x20 => f.discnt.toNat
  | _ =>
    if inRange 0x800 0x800 off then
      packed 4 2 fun i => calKey s (((off - 0x800) / 2 + i) / 64) (((off - 0x800) / 2 + i) % 64)
    else if inRange 0x1000 0x200 off then packed 2 4 fun i => (Sparse.get 0 f.pkeyt ((off - 0x1000) / 4 + i)).toNat
    else if inRange 0x1200 0x200 off then packed 2 4 fun i => (Sparse.get 0 f.rcells ((off - 0x1200) / 4 + i)).toNat
    else if inRange 0x2000 0x4000 off then half off (rtab s false ((off - 0x2000) / 16)).toNat
    else if inRange 0x6000 0x4000 off then half off (rtab s true ((off - 0x6000) / 16)).toNat
    else if inRange 0xA000 0x40000 off then packed 4 2 fun i => (Sparse.get 0 f.rmap ((off - 0xA000) / 2 + i)).toNat
    else 0

def readDevBlock (s : State) (off : Nat) : Option Nat :=
  let d := s.dev
  match off with
  | 0x00 => some (bit1 d.ready + 2 * bit1 d.booterr + 2 ^ 8 * d.bstep + 2 ^ 16 * d.ecode)
  | 0x08 => some (bit1 d.idereq)
  | 0x10 => some d.pwrcap.toNat
  | 0x18 => some d.pwrnow.toNat
  | 0x20 => some (d.tj.toNat + 2 ^ 16 * bit1 d.hot + 2 ^ 17 * bit1 d.trip)
  | 0x28 | 0x30 => none
  | _ =>
    if inRange 0x800 48 off then some (Sparse.get 0 d.cecnt ((off - 0x800) / 8)).toNat
    else if inRange 0x1000 0x800 off then some (packed 4 2 fun i =>
      if ((off - 0x1000) / 2 + i) % 256 < 178 then
        (Sparse.get 0 s.front.gran (granKey (((off - 0x1000) / 2 + i) / 256) (((off - 0x1000) / 2 + i) % 256))).toNat
      else 0)
    else if inRange 0x8000 0x8000 off then none
    else some 0

/-- What the eight bytes at an aligned offset of BAR0 hold, but for a register that is written only, for which the manual gives
no read. -/
def barWord (s : State) (fn off : Nat) : Option Nat :=
  if off < 0x1000 then some (match entryAt 0 8 16 off with
    | some q => (lqueue s fn q).cons.toNat
    | none => 0)
  else if off < 0x1100 then
    (let x := lqueue s fn ((off - 0x1000) / 16)
     some (if off % 16 = 0 then x.base.toNat else x.log.toNat))
  else if fn ≠ 0 then some 0
  else if inRange 0x2000 0x800 off then some (capWord (0x100 + (off - 0x2000) / 8)).toNat
  else if inRange 0x10000 0x1000 off then some (half off (vdt s ((off - 0x10000) / 16)))
  else if inRange 0x20000 0x4000 off then some (half off (rootBits (Sparse.get Root.reset s.front.roots ((off - 0x20000) / 16))))
  else if inRange 0x100000 0x80000 off then readPartBlock s ((off - 0x100000) / 4096) ((off - 0x100000) % 4096)
  else if inRange 0x400000 0x80000 off then some (readFabricBlock s (off - 0x400000))
  else if inRange 0x800000 0x10000 off then readDevBlock s (off - 0x800000)
  else some 0

/-- A host read of eight bytes of a function's BAR0: Unsupported Request where the link carries no memory request, and after
THERM.TRIP device control alone answers (R363, R376). A read changes nothing. -/
def barRead (s : State) (fn off : Nat) : Option Word :=
  if off % 8 ≠ 0 ∨ ideHolds s fn ∨ (s.dev.trip ∧ ¬ (fn = 0 ∧ inRange 0x800000 0x10000 off)) then none
  else (barWord s fn off).map (BitVec.ofNat 64)

end Sys2Proof.Machine
end

