-- ==== Sys2Proof/Machine/Dispatch.lean ====
section
/-! DEFINITION. One arm per constructor of Instr: each a direct call of its meaning. -/
namespace Sys2Proof.Machine

def exec (i : Instr) (s : State) : Host.Outcome State Fault Refusal :=
  match i with
  | .nop g => Sys2Proof.Machine.execNop g s
  | .br g off => Sys2Proof.Machine.execBr g off s
  | .brTile g t cv cn off => Sys2Proof.Machine.execBrTile g t cv cn off s
  | .brChan g ch cv cn off => Sys2Proof.Machine.execBrChan g ch cv cn off s
  | .jmp g n => Sys2Proof.Machine.execJmp g n s
  | .call g off => Sys2Proof.Machine.execCall g off s
  | .callReg g n => Sys2Proof.Machine.execCallReg g n s
  | .ret g => Sys2Proof.Machine.execRet g s
  | .align g limit => Sys2Proof.Machine.execAlign g limit s
  | .gchunk g pd rd n => Sys2Proof.Machine.execGchunk g pd rd n s
  | .gchunkInit g n ra rb rc => Sys2Proof.Machine.execGchunkInit g n ra rb rc s
  | .fmt p => Sys2Proof.Machine.execFmt p s
  | .add g o => Sys2Proof.Machine.execAdd g o s
  | .sub g o => Sys2Proof.Machine.execSub g o s
  | .mul g o => Sys2Proof.Machine.execMul g o s
  | .mulh g o => Sys2Proof.Machine.execMulh g o s
  | .div g o => Sys2Proof.Machine.execDiv g o s
  | .rem g o => Sys2Proof.Machine.execRem g o s
  | .and g o => Sys2Proof.Machine.execAnd g o s
  | .or g o => Sys2Proof.Machine.execOr g o s
  | .xor g o => Sys2Proof.Machine.execXor g o s
  | .andn g o => Sys2Proof.Machine.execAndn g o s
  | .shl g o => Sys2Proof.Machine.execShl g o s
  | .shr g o => Sys2Proof.Machine.execShr g o s
  | .sha g o => Sys2Proof.Machine.execSha g o s
  | .rot g o => Sys2Proof.Machine.execRot g o s
  | .min g o => Sys2Proof.Machine.execMin g o s
  | .max g o => Sys2Proof.Machine.execMax g o s
  | .clz g o => Sys2Proof.Machine.execClz g o s
  | .ctz g o => Sys2Proof.Machine.execCtz g o s
  | .popc g o => Sys2Proof.Machine.execPopc g o s
  | .bfx g ty rd ra pos len => Sys2Proof.Machine.execBfx g ty rd ra pos len s
  | .bfi g rd ra pos len => Sys2Proof.Machine.execBfi g rd ra pos len s
  | .sext g ty rd ra => Sys2Proof.Machine.execSext g ty rd ra s
  | .zext g ty rd ra => Sys2Proof.Machine.execZext g ty rd ra s
  | .mov g rd ra => Sys2Proof.Machine.execMov g rd ra s
  | .movi g rd im => Sys2Proof.Machine.execMovi g rd im s
  | .cmp g c ty pd ra b => Sys2Proof.Machine.execCmp g c ty pd ra b s
  | .sel g rd pn ra rb => Sys2Proof.Machine.execSel g rd pn ra rb s
  | .lea g rd a => Sys2Proof.Machine.execLea g rd a s
  | .vqual g rd ra die => Sys2Proof.Machine.execVqual g rd ra die s
  | .vset g rd ra v => Sys2Proof.Machine.execVset g rd ra v s
  | .vget g rd ra => Sys2Proof.Machine.execVget g rd ra s
  | .vclr g rd ra => Sys2Proof.Machine.execVclr g rd ra s
  | .fadd g o => Sys2Proof.Machine.execFadd g o s
  | .fsub g o => Sys2Proof.Machine.execFsub g o s
  | .fmul g o => Sys2Proof.Machine.execFmul g o s
  | .fma g ty rd ra rb rc => Sys2Proof.Machine.execFma g ty rd ra rb rc s
  | .fdiv g o => Sys2Proof.Machine.execFdiv g o s
  | .fsqrt g ty rd ra => Sys2Proof.Machine.execFsqrt g ty rd ra s
  | .fmin g o => Sys2Proof.Machine.execFmin g o s
  | .fmax g o => Sys2Proof.Machine.execFmax g o s
  | .fcmp g c ty pd ra rb => Sys2Proof.Machine.execFcmp g c ty pd ra rb s
  | .fcvt g dst src sf rd ra => Sys2Proof.Machine.execFcvt g dst src sf rd ra s
  | .fclass g ty rd ra => Sys2Proof.Machine.execFclass g ty rd ra s
  | .ld g sz po rd a => Sys2Proof.Machine.execLd g sz po rd a s
  | .ldx g sz po rd a => Sys2Proof.Machine.execLdx g sz po rd a s
  | .st g sz po rd a => Sys2Proof.Machine.execSt g sz po rd a s
  | .ldp g po rd a => Sys2Proof.Machine.execLdp g po rd a s
  | .stp g po rd a => Sys2Proof.Machine.execStp g po rd a s
  | .pref g po a => Sys2Proof.Machine.execPref g po a s
  | .waitline g sz po rd pd rc a => Sys2Proof.Machine.execWaitline g sz po rd pd rc a s
  | .atom g op sz sc po rd rc a => Sys2Proof.Machine.execAtom g op sz sc po rd rc a s
  | .cas g sz sc po rd pd rc rb a => Sys2Proof.Machine.execCas g sz sc po rd pd rc rb a s
  | .cas2 g sc po rd pd rc rb a => Sys2Proof.Machine.execCas2 g sc po rd pd rc rb a s
  | .red g op sz sc po rc a => Sys2Proof.Machine.execRed g op sz sc po rc a s
  | .lease g pd n a => Sys2Proof.Machine.execLease g pd n a s
  | .lend g pd => Sys2Proof.Machine.execLend g pd s
  | .fence g sc => Sys2Proof.Machine.execFence g sc s
  | .barArrive g rd a => Sys2Proof.Machine.execBarArrive g rd a s
  | .barWait g rd a => Sys2Proof.Machine.execBarWait g rd a s
  | .spawn g rd n ra rb => Sys2Proof.Machine.execSpawn g rd n ra rb s
  | .reap g rd n wait => Sys2Proof.Machine.execReap g rd n wait s
  | .halt g => Sys2Proof.Machine.execHalt g s
  | .wfw g rd => Sys2Proof.Machine.execWfw g rd s
  | .migr g rd ra quire named => Sys2Proof.Machine.execMigr g rd ra quire named s
  | .talloc g ready td dk voff len => Sys2Proof.Machine.execTalloc g ready td dk voff len s
  | .tallocProd g td slot rx => Sys2Proof.Machine.execTallocProd g td slot rx s
  | .tfree g t => Sys2Proof.Machine.execTfree g t s
  | .tstate g rx pd t => Sys2Proof.Machine.execTstate g rx pd t s
  | .twait g t st => Sys2Proof.Machine.execTwait g t st s
  | .dkld g dn ra disp => Sys2Proof.Machine.execDkld g dn ra disp s
  | .dkset g dn f src => Sys2Proof.Machine.execDkset g dn f src s
  | .copyIn g td dk ch => Sys2Proof.Machine.execCopyIn g td dk ch s
  | .copyOut g ts dk ch => Sys2Proof.Machine.execCopyOut g ts dk ch s
  | .copyr g ch ra quire td ts => Sys2Proof.Machine.execCopyr g ch ra quire td ts s
  | .copym g ts dk ch => Sys2Proof.Machine.execCopym g ts dk ch s
  | .wmark g ch ra rb => Sys2Proof.Machine.execWmark g ch ra rb s
  | .wmarkGet g gd ch => Sys2Proof.Machine.execWmarkGet g gd ch s
  | .chwait g ch => Sys2Proof.Machine.execChwait g ch s
  | .vadd g o => Sys2Proof.Machine.execVadd g o s
  | .vsub g o => Sys2Proof.Machine.execVsub g o s
  | .vmul g o => Sys2Proof.Machine.execVmul g o s
  | .vfma g td ta bc => Sys2Proof.Machine.execVfma g td ta bc s
  | .vdiv g o => Sys2Proof.Machine.execVdiv g o s
  | .vsqrt g o => Sys2Proof.Machine.execVsqrt g o s
  | .vrsqrt g o => Sys2Proof.Machine.execVrsqrt g o s
  | .vexp2 g o => Sys2Proof.Machine.execVexp2 g o s
  | .vlog2 g o => Sys2Proof.Machine.execVlog2 g o s
  | .vmin g o => Sys2Proof.Machine.execVmin g o s
  | .vmax g o => Sys2Proof.Machine.execVmax g o s
  | .vabs g o => Sys2Proof.Machine.execVabs g o s
  | .vneg g o => Sys2Proof.Machine.execVneg g o s
  | .vcmp g c td ta b => Sys2Proof.Machine.execVcmp g c td ta b s
  | .vsel g td ta tb c => Sys2Proof.Machine.execVsel g td ta tb c s
  | .vcvt g o => Sys2Proof.Machine.execVcvt g o s
  | .vquant g o => Sys2Proof.Machine.execVquant g o s
  | .vred g o => Sys2Proof.Machine.execVred g o s
  | .vscan g o => Sys2Proof.Machine.execVscan g o s
  | .vtrans g td ta axa axb => Sys2Proof.Machine.execVtrans g td ta axa axb s
  | .vperm g td ta tb axis => Sys2Proof.Machine.execVperm g td ta tb axis s
  | .vgath g td ta rx scale => Sys2Proof.Machine.execVgath g td ta rx scale s
  | .vscat g ta tb rx scale => Sys2Proof.Machine.execVscat g ta tb rx scale s
  | .vbcast g td a => Sys2Proof.Machine.execVbcast g td a s
  | .vext g rx ta im => Sys2Proof.Machine.execVext g rx ta im s
  | .vins g td rx im => Sys2Proof.Machine.execVins g td rx im s
  | .vshift g td ta axis amt fill => Sys2Proof.Machine.execVshift g td ta axis amt fill s
  | .mma g acc ta b tsa tsw row0 col0 => Sys2Proof.Machine.execMma g acc ta b tsa tsw row0 col0 s
  | .mmas g keep acc ta b tm row0 col0 => Sys2Proof.Machine.execMmas g keep acc ta b tm row0 col0 s
  | .mmg g mem acc ta tg row0 col0 => Sys2Proof.Machine.execMmg g mem acc ta tg row0 col0 s
  | .mzero g acc => Sys2Proof.Machine.execMzero g acc s
  | .mst g s32 sf acc td row0 col0 => Sys2Proof.Machine.execMst g s32 sf acc td row0 col0 s
  | .mwait g => Sys2Proof.Machine.execMwait g s
  | .srd g rd spec => Sys2Proof.Machine.execSrd g rd spec s
  | .swr g spec ra => Sys2Proof.Machine.execSwr g spec ra s
  | .trap g imm => Sys2Proof.Machine.execTrap g imm s
  | .eret g ra => Sys2Proof.Machine.execEret g ra s
  | .eretSt g ra rb => Sys2Proof.Machine.execEretSt g ra rb s
  | .eretAbort g ra st => Sys2Proof.Machine.execEretAbort g ra st s
  | .tlbiAsid g ra => Sys2Proof.Machine.execTlbiAsid g ra s
  | .tlbiAddr g ra rb => Sys2Proof.Machine.execTlbiAddr g ra rb s
  | .tlbiRange g ra rb n => Sys2Proof.Machine.execTlbiRange g ra rb n s
  | .tlbiKind g ra k => Sys2Proof.Machine.execTlbiKind g ra k s
  | .tlbiAll g => Sys2Proof.Machine.execTlbiAll g s
  | .cwb g ra rb => Sys2Proof.Machine.execCwb g ra rb s
  | .cinv g ra rb => Sys2Proof.Machine.execCinv g ra rb s
  | .flushtag g quire ra => Sys2Proof.Machine.execFlushtag g quire ra s
  | .mread g rd idx => Sys2Proof.Machine.execMread g rd idx s
  | .idle g n => Sys2Proof.Machine.execIdle g n s
  | .fetchBlockDelivery q => Sys2Proof.Machine.execFetchBlockDelivery q s
  | .waitRetest pos => Sys2Proof.Machine.execWaitRetest pos s
  | .granuleEventPerform pos => Sys2Proof.Machine.execGranuleEventPerform pos s
  | .writeBack c => Sys2Proof.Machine.execWriteBack c s
  | .drop c => Sys2Proof.Machine.execDrop c s
  | .writeQueueDrain q line => Sys2Proof.Machine.execWriteQueueDrain q line s
  | .orderPointTake die r => Sys2Proof.Machine.execOrderPointTake die r s
  | .notificationDelivery die => Sys2Proof.Machine.execNotificationDelivery die s
  | .recallResponse die line => Sys2Proof.Machine.execRecallResponse die line s
  | .remoteWriteBack die line => Sys2Proof.Machine.execRemoteWriteBack die line s
  | .hostPortSend => Sys2Proof.Machine.execHostPortSend s
  | .pcieCompletion req status => Sys2Proof.Machine.execPcieCompletion req status s
  | .leaseExpiry pos => Sys2Proof.Machine.execLeaseExpiry pos s
  | .waitlineReread pos => Sys2Proof.Machine.execWaitlineReread pos s
  | .barWaitWake pos => Sys2Proof.Machine.execBarWaitWake pos s
  | .alignRelease q pc => Sys2Proof.Machine.execAlignRelease q pc s
  | .idleExpiry pos => Sys2Proof.Machine.execIdleExpiry pos s
  | .recordDelivery n => Sys2Proof.Machine.execRecordDelivery n s
  | .vectorOpComplete core at_ => Sys2Proof.Machine.execVectorOpComplete core at_ s
  | .engineElementEvent q job wr at_ => Sys2Proof.Machine.execEngineElementEvent q job wr at_ s
  | .watermarkAdvance q ch w => Sys2Proof.Machine.execWatermarkAdvance q ch w s
  | .publish q job => Sys2Proof.Machine.execPublish q job s
  | .matrixOperandRead core vat va => Sys2Proof.Machine.execMatrixOperandRead core vat va s
  | .stepGrant q => Sys2Proof.Machine.execStepGrant q s
  | .tileStep q => Sys2Proof.Machine.execTileStep q s
  | .mzeroEntryRun core => Sys2Proof.Machine.execMzeroEntryRun core s
  | .mstEntryRun core at_ => Sys2Proof.Machine.execMstEntryRun core at_ s
  | .pageWalk core asid va => Sys2Proof.Machine.execPageWalk core asid va s
  | .slotStart => Sys2Proof.Machine.execSlotStart s
  | .receipt port bitmap => Sys2Proof.Machine.execReceipt port bitmap s
  | .pairFailure dst => Sys2Proof.Machine.execPairFailure dst s
  | .relayForward im => Sys2Proof.Machine.execRelayForward im s
  | .bdata a => Sys2Proof.Machine.execBdata a s
  | .bend a => Sys2Proof.Machine.execBend a s
  | .migrate a => Sys2Proof.Machine.execMigrate a s
  | .accept a => Sys2Proof.Machine.execAccept a s
  | .refuse a => Sys2Proof.Machine.execRefuse a s
  | .racc a => Sys2Proof.Machine.execRacc a s
  | .rreply a => Sys2Proof.Machine.execRreply a s
  | .acks a => Sys2Proof.Machine.execAcks a s
  | .spdm a => Sys2Proof.Machine.execSpdm a s
  | .kick fn q v => Sys2Proof.Machine.execKick fn q v s
  | .graphCommit fn a => Sys2Proof.Machine.execGraphCommit fn a s
  | .schedule fn => Sys2Proof.Machine.execSchedule fn s
  | .deschedule fn => Sys2Proof.Machine.execDeschedule fn s
  | .teamPlace n => Sys2Proof.Machine.execTeamPlace n s
  | .itemDispatch tag => Sys2Proof.Machine.execItemDispatch tag s
  | .taskEnd tag => Sys2Proof.Machine.execTaskEnd tag s
  | .quantumExpiry tag => Sys2Proof.Machine.execQuantumExpiry tag s
  | .slotHandover pos => Sys2Proof.Machine.execSlotHandover pos s
  | .headHandover core => Sys2Proof.Machine.execHeadHandover core s
  | .taskMove tag q => Sys2Proof.Machine.execTaskMove tag q s
  | .flushtagAck q tag => Sys2Proof.Machine.execFlushtagAck q tag s
  | .dieLinkFailure d e => Sys2Proof.Machine.execDieLinkFailure d e s
  | .partitionCreate n => Sys2Proof.Machine.execPartitionCreate n s
  | .partitionDestroy n => Sys2Proof.Machine.execPartitionDestroy n s
  | .assign n q => Sys2Proof.Machine.execAssign n q s
  | .release n q => Sys2Proof.Machine.execRelease n q s
  | .drainScrubComplete n => Sys2Proof.Machine.execDrainScrubComplete n s
  | .fqconsWrite n v => Sys2Proof.Machine.execFqconsWrite n v s
  | .fopResume n => Sys2Proof.Machine.execFopResume n s
  | .fopResumeSt n => Sys2Proof.Machine.execFopResumeSt n s
  | .fopAbort n => Sys2Proof.Machine.execFopAbort n s
  | .rdcmaskWrite n v => Sys2Proof.Machine.execRdcmaskWrite n v s
  | .scopedwWrite n v => Sys2Proof.Machine.execScopedwWrite n v s
  | .queueRegisterWrite fn q isLog v => Sys2Proof.Machine.execQueueRegisterWrite fn q isLog v s
  | .granWrite d g v => Sys2Proof.Machine.execGranWrite d g v s
  | .granuleZeroDone d g => Sys2Proof.Machine.execGranuleZeroDone d g s
  | .idereqSet v => Sys2Proof.Machine.execIdereqSet v s
  | .ideStreamSecure fn => Sys2Proof.Machine.execIdeStreamSecure fn s
  | .pwrcapWrite v => Sys2Proof.Machine.execPwrcapWrite v s
  | .powerWindow watts tj => Sys2Proof.Machine.execPowerWindow watts tj s
  | .thermalCap tj => Sys2Proof.Machine.execThermalCap tj s
  | .thermalTrip tj => Sys2Proof.Machine.execThermalTrip tj s
  | .stagecmdGo len sigOk => Sys2Proof.Machine.execStagecmdGo len sigOk s
  | .coldReset => Sys2Proof.Machine.execColdReset s
  | .bringupComplete hbmOk => Sys2Proof.Machine.execBringupComplete hbmOk s
  | .fabricOff w => Sys2Proof.Machine.execFabricOff w s
  | .fabricConfig w => Sys2Proof.Machine.execFabricConfig w s
  | .fabricRun w => Sys2Proof.Machine.execFabricRun w s
  | .generationCommit w g => Sys2Proof.Machine.execGenerationCommit w g s
  | .errClear w => Sys2Proof.Machine.execErrClear w s
  | .rankMapWrite w n k v => Sys2Proof.Machine.execRankMapWrite w n k v s
  | .registerWrite w r v => Sys2Proof.Machine.execRegisterWrite w r v s
  | .getMeasurementsCount r => Sys2Proof.Machine.execGetMeasurementsCount r s
  | .getMeasurementsBoot r param2 => Sys2Proof.Machine.execGetMeasurementsBoot r param2 s
  | .getMeasurementsSnapshot r n => Sys2Proof.Machine.execGetMeasurementsSnapshot r n s
  | .keyExchange pkey dev => Sys2Proof.Machine.execKeyExchange pkey dev s
  | .keyUpdate pkey dev => Sys2Proof.Machine.execKeyUpdate pkey dev s
  | .hostCxlMemAccess a => Sys2Proof.Machine.execHostCxlMemAccess a s
  | .hostSnoop pa data => Sys2Proof.Machine.execHostSnoop pa data s
  | .patrolScrub pa row err => Sys2Proof.Machine.execPatrolScrub pa row err s
  | .discardedPacket a why => Sys2Proof.Machine.execDiscardedPacket a why s
  | .relayReceive a => Sys2Proof.Machine.execRelayReceive a s
  | .barWaitRemoteReread pos => Sys2Proof.Machine.execBarWaitRemoteReread pos s
  | .hotCapEnd tj => Sys2Proof.Machine.execHotCapEnd tj s
  | .accumulatorExchangeEnd core => Sys2Proof.Machine.execAccumulatorExchangeEnd core s
  | .getMeasurementsInvalid r param2 => Sys2Proof.Machine.execGetMeasurementsInvalid r param2 s

end Sys2Proof.Machine
end

