-- ==== Sys2Proof/Machine/Turn.lean ====
section
/-! DEFINITION. One turn of the machine: an issue slot of a context with R76's steps 1 to 4, an event, or a cycle; and what
each cycle owes, and in which order, before it may pass (R63, R76, R138, R139, R143, R146, R173, R284, R287, R329, R331, R372,
R376; log 138). -/
namespace Sys2Proof.Machine

/-! ### What a cycle owes -/

/-- Whether a context may issue: RUNNING and in the rotation, or out of it to be re-tested (R17, R284). -/
def inRotation (c : Ctx) : Bool :=
  c.run == .running && (match c.wait with
    | .none | .retest => true
    | _ => false)

/-- The ready contexts whose slot this cycle is and that must still issue in it, in ascending position; the turn of a position
has passed once a higher one has issued or has had a record presented (R138, R143, R284, R329). -/
def dueIssues (s : State) : List Nat :=
  if s.dev.trip then []
  else (s.ctxs.filter fun e => slotOf e.1 == s.cyc % 16 && inRotation e.2 && (currentBlock e.2).isSome
    && s.issued.all (· < e.1) && s.shown.all (· ≤ e.1)).map (·.1)

/-- A waiting context whose wake condition holds and that has to go on in this cycle: a waiter woken for as long as R173
allows, an IDLE that has run, an ALIGN that is released (R139, R283). -/
def overdue (s : State) (e : Nat × Ctx) : Bool :=
  e.2.run == .running && (match e.2.wait with
    | .waitline _ true | .barWait _ true => match e.2.wakeBy with
      | some b => decide (b ≤ s.cyc) && !isRemote e.2
      | none => false
    | .idle till => decide (till ≤ s.cyc)
    | .align pc _ _ => alignFree s (quireOf e.1) pc e
    | _ => false)

/-- Nothing is left that this cycle owes. -/
def cycleOver (s : State) : Bool :=
  (dueHandovers s).isEmpty && (dueIssues s).isEmpty && (endedExchanges s).isEmpty && !s.ctxs.any (overdue s)

/-- So many cycles pass, each once it owes nothing. -/
def passCycles : Nat → State → Option State
  | 0, s => some s
  | n + 1, s => if cycleOver s then passCycles n (tick s) else none

/-! ### Order within a cycle -/

/-- A context may take this cycle's slot: no handover is due, and its turn comes neither after that of a higher position nor
before that of a lower one. -/
def mayIssue (s : State) (pos : Nat) : Bool :=
  (dueHandovers s).isEmpty && s.issued.all (· < pos) && s.shown.all (· ≤ pos) && (dueIssues s).all (pos ≤ ·)

/-- The records that a move has presented come after those presented before it in this cycle, and after the issue of lower
positions (R329). -/
def inOrder (s t : State) : Bool :=
  (t.shown.take (t.shown.length - s.shown.length)).all fun p => s.shown.all (· ≤ p) && (dueIssues s).all (p ≤ ·)

/-- A move kept to that order. -/
def ordered (s : State) (o : Out) : Out :=
  match o with
  | .next t => if inOrder s t then .next t else .fault .notReady
  | other => other

/-- The source of an event of the front end's arbiter: the host link 0, dies 0 to 3 as 1 to 4, the timer 5 (R287). -/
def arbiterSource (s : State) : Instr → Option Nat
  | .kick .. | .graphCommit .. | .schedule .. | .deschedule .. | .registerWrite _ (.vdt _) _ => some 0
  | .registerWrite _ (.bar _ off) _ => if off < 0x1000 ∨ inRange 0x10000 0x1000 off then some 0 else none
  | .dieLinkFailure d e => some (1 + min d e)
  | .taskEnd tag => (taskOf s tag).map fun t => 1 + dieOfQuire t.quire
  | .quantumExpiry _ => some 5
  | _ => none

/-- The source of a measurement request: the management interface 8, DOE of a function from 9 on (R372). -/
def askSource : Instr → Option Nat
  | .getMeasurementsCount r | .getMeasurementsBoot r _ | .getMeasurementsSnapshot r _ | .getMeasurementsInvalid r _ =>
    some (match r.who with
      | .mgmt => 8
      | .doe fn => 9 + fn)
  | _ => none

/-- The arbiter takes one event per mesh cycle, of which a core cycle has two, and both it and the root of trust take the events
of one core cycle in the order of their sources (R287, R372). -/
def mayTake (s : State) (i : Instr) : Bool :=
  let arb := s.taken.filter (· < 8)
  match arbiterSource s i, askSource i with
  | some n, _ => arb.length < 2 && arb.all (· ≤ n)
  | none, some n => s.taken.all fun m => m < 8 || m ≤ n
  | none, none => true

/-- The source of an event noted as taken in this cycle. -/
def noteTaken (s : State) (i : Instr) (t : State) : State :=
  match arbiterSource s i, askSource i with
  | some n, _ | none, some n => { t with taken := n :: t.taken }
  | none, none => t

/-! ### Turns -/

/-- Steps 1 to 4 of R76 at PC, then the instruction. `s` stands in the context's slot. -/
def issueAt (s : State) (pos : Nat) (b : Block) : Out :=
  let c0 := s.ctx pos
  let s1 := s.setCtx pos { promote c0 b with wait := .none }
  match b.err with
  | some t => .next (takeTrap { s1 with issued := pos :: s1.issued } pos t)
  | none =>
    match decode (bytesAt b c0.pc) with
    | .error .skipCode =>
      let c := s1.ctx pos
      .next (requestBlock (s1.setCtx pos { c with pc := BitVec.ofNat 56 (nextBlock c.pc) }) pos (nextBlock c.pc))
    | .error _ => .next (takeTrap { s1 with issued := pos :: s1.issued } pos (trapOf .illegal (freeInfo .illegal 0)))
    | .ok (i, _) =>
      let s2 := if (s1.ctx pos).ahead.isNone then requestBlock s1 pos (nextBlock c0.pc) else s1
      exec i { s2 with cur := pos, issued := pos :: s2.issued }

/-- What a context does in its slot: it issues, or asks for the block at its PC, or waits for that block. -/
def slotTurn (s : State) (pos : Nat) : Out :=
  let c := s.ctx pos
  if !inRotation c then .fault .notReady
  else match currentBlock c with
    | some b => issueAt s pos b
    | none => if hasRequested s pos (blockAddr c.pc) then .fault .notReady
      else .next (requestBlock { s with issued := pos :: s.issued } pos (blockAddr c.pc))

/-- An issue turn of the context at `pos`, in the first of its slots from now on. -/
def issueTurn (s0 : State) (pos : Nat) : Out :=
  if s0.dev.trip then .fault .tripped
  else match passCycles (cyclesToSlot s0 pos) s0 with
    | none => .fault .notReady
    | some s => if mayIssue s pos then ordered s (slotTurn s pos) else .fault .notReady

/-- An event's turn: a due handover comes before every other move of its cycle, but for a cold reset. -/
def eventTurn (s : State) (i : Instr) : Out :=
  if !i.isEvent || !i.wf then .fault (.notEnabled "no event of the machine")
  else if !(dueHandovers s).isEmpty && !(dueHandovers s).contains i && i != .coldReset then .fault .notReady
  else if !mayTake s i then .fault .notReady
  else match ordered s (exec i s) with
    | .next t => .next (noteTaken s i t)
    | other => other

/-- One turn. -/
def runTurn (s : State) (t : Turn) : Out :=
  match t with
  | .tick => match passCycles 1 s with
    | some u => .next u
    | none => .fault .notReady
  | .issue pos => if posOk pos then issueTurn s pos else .fault .notReady
  | .event i => eventTurn s i

/-! ### The turn taken when the agenda is empty (log 1) -/

/-- Events that a context may make for itself. -/
def ctxEvents (s : State) (e : Nat × Ctx) : List Instr :=
  match e.2.run, e.2.wait with
  | .running, .port => .granuleEventPerform e.1 :: (ownRacc s e.1).toList.map fun x => .racc (ownArrival x.1 none)
  | .running, .waitline .. => [.waitlineReread e.1]
  | .running, .barWait .. => [.barWaitWake e.1, .barWaitRemoteReread e.1]
  | .running, .mwait _ => [.waitRetest e.1]
  | .running, .idle _ => [.idleExpiry e.1]
  | .running, .align pc _ _ => [.alignRelease (quireOf e.1) pc]
  | .running, .flush q t => [.flushtagAck q t]
  | .running, .migrate _ => (ownMigration s e.1).toList.map fun x => .migrate (ownArrival x.1 none)
  | _, _ => []

/-- Copies that a waiting FENCE needs gone are written back or dropped (R157). -/
def copyEvents (s : State) : List Instr :=
  s.quires.flatMap (fun e => e.2.copies.flatMap fun c =>
    [.writeBack ⟨false, e.1, c.line⟩, .drop ⟨false, e.1, c.line⟩])
  ++ s.dies.flatMap fun e => e.2.copies.flatMap fun c => [.writeBack ⟨true, e.1, c.line⟩, .drop ⟨true, e.1, c.line⟩]

/-- A FENCE stands in some Issue Port. -/
def fenceWaits (s : State) : Bool :=
  s.ctxs.any fun e => match e.2.port with
    | some p => p.fin == .fence
    | none => false

/-- The moves of the operation in a core's vector unit: a granule still to be read or written, or its completion (R216). -/
def vectorEvents (core : Nat) (v : VecOp) : List Instr :=
  let granules := match vecOut v with
    | some o => o.writes.map fun (w : BitWrite) => w.1 / 32
    | none => vecNeeds v
  (granules.take 1).map (fun g => .vectorOpComplete core (some g)) ++ [.vectorOpComplete core none]

/-- The moves of an MZERO or MST at the head of a core's queue (R244, R245). -/
def storeEvents (core : Nat) (e : MatEntry) : List Instr :=
  match e.kind with
  | .mzero => [.mzeroEntryRun core]
  | .mst .. => ((mstNeeds e).take 1).map (fun g => .mstEntryRun core (some g)) ++ [.mstEntryRun core none]
  | _ => []

def coreEvents (e : Nat × Core) : List Instr :=
  (e.2.vec.take 1).flatMap (vectorEvents e.1) ++ (e.2.queue.take 1).flatMap (storeEvents e.1)

/-- The matrix units: a read that a head entry still needs, streamed or of the vat, a granted step's end, a grant (R237, R238). -/
def matrixEvents (s : State) : List Instr :=
  s.cores.flatMap (fun e => (streamNeeds s e.1).map fun a => Instr.matrixOperandRead e.1 false a)
  ++ s.cores.flatMap fun e => (e.2.queue.take 1).flatMap fun m =>
    (if m.granted then (vatNeeds m).map fun g => Instr.matrixOperandRead e.1 true (BitVec.ofNat 64 (32 * g)) else [])
    ++ [.tileStep (quireOfCore e.1), .stepGrant (quireOfCore e.1)]

def jobEvents (s : State) : List Instr :=
  s.quires.flatMap fun e => e.2.jobs.flatMap fun j =>
    (match jobNext s e.1 j with
     | some (w, a) => [Instr.engineElementEvent e.1 j.id w a]
     | none => [])
    ++ [.publish e.1 j.id]

def frontEvents (s : State) : List Instr :=
  (s.front.parts.map fun e => Instr.recordDelivery e.1)
  ++ (s.front.parts.map fun e => Instr.drainScrubComplete e.1)
  ++ (s.front.zeroing.map fun e => Instr.granuleZeroDone (e.1 / 178) (e.1 % 178))
  ++ (s.front.parts.map fun e => Instr.teamPlace e.1)
  ++ (s.front.tasks.map fun t => Instr.itemDispatch t.tag)
  ++ (s.front.tasks.map fun t => Instr.taskEnd t.tag)
  ++ endedExchanges s
  ++ (s.front.tasks.map fun t => Instr.quantumExpiry t.tag)
  ++ ((s.front.tasks.filter (·.parked)).map fun t => Instr.taskMove t.tag t.quire)
  ++ s.front.flushing.map fun f => .flushtagAck f.1 f.2

/-- Packets of the own rank, remote accesses of other devices that waited at their home, a relay's forwards, and failed
pairs (R263, R347, R348). -/
def packetEvents (s : State) : List Instr :=
  ((ownDatas s).map fun x => Instr.bdata (ownArrival x.1 (some x.2.2.2)))
  ++ (s.fabric.chans.flatMap fun e => (e.2.window.filter (waitsAtHead s)).map .racc)
  ++ (if s.fabric.out.any toForward then (List.range s.fabric.out.length).map .relayForward else [])
  ++ (s.fabric.out.filter pairBroken).map fun o => .pairFailure o.pkt.dst

/-- Every event that waits behind a lease, with its line (R161). -/
def queuedParties (s : State) : List (Nat × Party) :=
  s.releases ++ (s.cores.flatMap fun e => e.2.leases.flatMap fun l => l.probes.map fun p => (l.line, p))
    ++ s.dies.flatMap fun e => e.2.held

/-- The caches' own moves: requests that wait at an Order Point or come over a die link, notifications, answers to recalls,
write-backs, and copies that waited behind a lease (R310, R312, R313). -/
def cacheEvents (s : State) : List Instr :=
  (queuedParties s).filterMap (fun e => match e.2 with
    | .req r => (homeDie r.line).map fun d => .orderPointTake d r
    | .copy c => some (.writeBack c)
    | _ => none)
  ++ (s.dies.flatMap fun e => e.2.reqs.filterMap fun r => (homeDie r.line).map fun d => Instr.orderPointTake d r)
  ++ (s.dies.flatMap fun e => if e.2.seq.isEmpty then [] else [Instr.notificationDelivery e.1])
  ++ (s.dies.flatMap fun e => e.2.recalls.map fun c => Instr.recallResponse e.1 c.line)
  ++ s.dies.flatMap fun e => e.2.leaving.map fun w => Instr.remoteWriteBack e.1 w.line

/-- The events that the machine may make of itself in this state, in the order in which they are tried. -/
def ownEvents (s : State) : List Instr :=
  s.ctxs.flatMap (ctxEvents s)
  ++ (if fenceWaits s then copyEvents s else [])
  ++ (if s.dev.hostQ.isEmpty then [] else [.hostPortSend]) ++ s.dev.hostHeld.map .hostCxlMemAccess
  ++ s.cores.flatMap coreEvents ++ matrixEvents s ++ jobEvents s ++ packetEvents s ++ cacheEvents s
  ++ frontEvents s
  ++ s.quires.flatMap fun e => if e.2.fetches.isEmpty then [] else [.fetchBlockDelivery e.1]

/-- The first event of a list that is a move in this state, made. -/
def firstMove (s : State) : List Instr → Option State
  | [] => none
  | i :: r => match eventTurn s i with
    | .next t => some t
    | _ => firstMove s r

/-- The contexts in whose slot the machine stands that have a block to ask for. -/
def askers (s : State) : List Nat :=
  if s.dev.trip then []
  else (s.ctxs.filter fun e => slotOf e.1 == s.cyc % 16 && inRotation e.2 && (currentBlock e.2).isNone
    && !hasRequested s e.1 (blockAddr e.2.pc) && mayIssue s e.1).map (·.1)

/-- A move, or a cycle where the order within this one does not let it be made. -/
def orTick (s : State) (o : Out) : Out :=
  match o with
  | .fault .notReady => .next (tick s)
  | other => other

/-- A due handover, else a due issue, else the first event that is a move, else a request for a block, else a cycle. -/
def defaultMove (s : State) : Out :=
  match firstMove s (dueHandovers s), dueIssues s with
  | some t, _ => .next t
  | none, pos :: _ => orTick s (issueTurn s pos)
  | none, [] => match firstMove s (ownEvents s), askers s with
    | some t, _ => .next t
    | none, pos :: _ => orTick s (issueTurn s pos)
    | none, [] => .next (tick s)

/-- A slot of the fabric starts, where nothing that its last window owes stands against it. -/
def slotWith (s : State) : State :=
  match execSlotStart s with
  | .next t => t
  | _ => s

/-- The default turn: the default move; a slot of the fabric starts after it where CYC has passed a multiple of 2,380,
the core cycles of 3.4 µs. -/
def defaultTurn (s : State) : Out :=
  match defaultMove s with
  | .next t => .next (if s.cyc / 2380 ≠ t.cyc / 2380 then slotWith t else t)
  | o => o

/-! ### Placing an instruction for the next step -/

/-- The bytes of an instruction followed by zeros, standing at the place of PC in its block. -/
def blockWith (pc : BitVec 56) (bytes : List Byte) : Block :=
  ⟨blockAddr pc, (List.replicate (pc.toNat % 32) 0 ++ bytes ++ List.replicate 32 0).take 32, none⟩

/-- The context at `cur` RUNNING in the rotation with the bytes at its PC, in its slot, the turns of lower positions past; its
issue is the next turn. -/
def placeAtFetch (s : State) (bytes : List Byte) : State :=
  let c := s.ctx s.cur
  let pc : BitVec 56 := if c.pc.toNat % 32 ≤ 16 ∧ c.pc.toNat % 4 = 0 then c.pc else BitVec.ofNat 56 (blockAddr c.pc)
  { s.setCtx s.cur { c with run := .running, wait := .none, pc := pc, block := some (blockWith pc bytes) } with
    agenda := .issue s.cur :: s.agenda
    cyc := s.cyc + (slotOf s.cur + 16 - s.cyc % 16) % 16
    issued := if s.cur = 0 then [] else [s.cur - 1]
    shown := [] }

end Sys2Proof.Machine
end

