-- ==== Sys2Proof/Machine/Step.lean ====
section
/-! DEFINITION. One step: the agenda's next turn, or the default turn when the agenda is empty (log 1); and the
state in which the next step runs a given instruction. -/
namespace Sys2Proof.Machine

def step (s : State) : Host.Outcome State Fault Refusal :=
  match s.agenda with
  | t :: r => runTurn { s with agenda := r } t
  | [] => defaultTurn s

def State.withFetchWord (s : State) (nbits w : Nat) : State := placeAtFetch s (toBytes 16 (w % 2 ^ nbits))

end Sys2Proof.Machine
end

