-- ==== Sys2Proof/Certificates/Slice0/Terms.lean ====
section
/-! DEFINITION. The terms in which the statements speak of a step: when an instruction issues, what a step leaves
alone, and what retiring an instruction does (R64, R76, R80, R369, R370). -/
namespace Sys2Proof.Claims
open Sys2Proof.Machine

/-- The context whose instruction `exec` runs. -/
abbrev here (s : State) : Ctx := s.ctx s.cur

/-- An instruction of no vector-matrix class issues with its effect: no prefix is held (R80) and its guard passes
(R64). -/
def Issues (g : Guard) (s : State) : Prop := stPP (here s).st = false ∧ guardHolds g (here s).st = true

/-- A vector-matrix instruction issues with its effect: its guard passes, whatever the prefix (R64, R80). -/
def IssuesVm (g : Guard) (s : State) : Prop := guardHolds g (here s).st = true

/-- Every byte of memory and its poison are as before. -/
def SameMemory (s t : State) : Prop := (∀ a, Memory.read t.mem a = Memory.read s.mem a) ∧ t.poison = s.poison

/-- The cycle, the place in the agenda, what this cycle has shown and taken, and the model's own counter are as before. -/
def SameTime (s t : State) : Prop :=
  t.cyc = s.cyc ∧ t.cur = s.cur ∧ t.agenda = s.agenda ∧ t.issued = s.issued ∧ t.shown = s.shown ∧ t.taken = s.taken
    ∧ t.freeCtr = s.freeCtr

/-- Everything outside the contexts, the quires and the counters is as before: every byte of memory, every core and die,
the front end, the device's registers and the fabric. -/
def SameButQuires (s t : State) : Prop :=
  SameMemory s t ∧ SameTime s t ∧ t.cores = s.cores ∧ t.dies = s.dies ∧ t.front = s.front ∧ t.dev = s.dev
    ∧ t.fabric = s.fabric ∧ t.releases = s.releases

/-- Everything outside the contexts, the front end and the counters is as before. -/
def SameButFront (s t : State) : Prop :=
  SameMemory s t ∧ SameTime s t ∧ t.cores = s.cores ∧ t.quires = s.quires ∧ t.dies = s.dies ∧ t.dev = s.dev
    ∧ t.fabric = s.fabric ∧ t.releases = s.releases

/-- Everything outside the contexts and the counters is as before. -/
def SameElsewhere (s t : State) : Prop := SameButQuires s t ∧ t.quires = s.quires

/-- No context but the current one has changed. -/
def OthersSame (s t : State) : Prop := ∀ p, p ≠ s.cur → t.ctx p = s.ctx p

/-- A context as a write leaves one that waits to read again: as it was, or woken from its WAITLINE or BAR.WAIT (R185,
R199). -/
def Roused (c d : Ctx) : Prop :=
  d = c ∨ (∃ x b, c.wait = .waitline x false ∧ d = { c with wait := .waitline x true, wakeBy := b })
    ∨ ∃ x b, c.wait = .barWait x false ∧ d = { c with wait := .barWait x true, wakeBy := b }

/-- Every context but the one at `pos` is as before, or woken by a write. -/
def OthersRoused (s t : State) (pos : Nat) : Prop := ∀ p, p ≠ pos → Roused (s.ctx p) (t.ctx p)

/-- No reduction is pending on a line in any quire's Write Queue. -/
def NonePending (s : State) (line : Nat) : Prop := ∀ e ∈ s.quires, ∀ p ∈ e.2.pend, lineOf p.pa ≠ line

/-- Only what stands at the Homes has changed: bytes, caches, TLBs, Write Queues and counters; a waiter may have been
woken. -/
def HomesOnly (s t : State) : Prop :=
  SameTime s t ∧ t.front = s.front ∧ t.dev = s.dev ∧ t.fabric = s.fabric ∧ t.releases = s.releases
    ∧ ∀ p, Roused (s.ctx p) (t.ctx p)

/-- The numbers under which the device holds packets differ, and are below the next one. -/
def NumbersFresh (s : State) : Prop :=
  (s.fabric.out.map (·.readyNo)).Nodup ∧ ∀ x ∈ s.fabric.out, x.readyNo < s.fabric.made

/-- A counter of the Assize (R369). -/
def counter (s : State) (part idx : Nat) : BitVec 64 := Sparse.get 0 s.assize.total (48 * part + idx)

/-- Counter `idx` of the partition of `part` has risen by `n` and no other counter has moved. -/
def Counted (s t : State) (part : Option Nat) (idx n : Nat) : Prop :=
  ∀ k i, i < 48 → counter t k i = if part = some k ∧ i = idx then counter s k i + BitVec.ofNat 64 n else counter s k i

/-- The current context becomes `c` past an instruction of `len` bytes; the instruction is counted once under counter
32 of the context's partition, and nothing else changes. -/
def Retires (s t : State) (c : Ctx) (len : Nat) : Prop :=
  here t = { c with pc := c.pc + BitVec.ofNat 56 len, refused := 0 } ∧ OthersSame s t ∧ SameElsewhere s t
    ∧ Counted s t (partOf s s.cur) 32 1

/-- The current context becomes `c` at the target of a taken branch; a branch may ask the quire's fetch port for a block
(R138), it is counted as retired, and nothing else changes. -/
def Jumps (s t : State) (c : Ctx) (target : BitVec 56) : Prop :=
  here t = { c with pc := target, refused := 0, ahead := (here t).ahead } ∧ OthersSame s t ∧ SameButQuires s t
    ∧ (∀ q, { t.quire q with fetches := (s.quire q).fetches } = s.quire q) ∧ Counted s t (partOf s s.cur) 32 1

/-! ### Integer types as R112 reads and extends them -/

/-- Width(TY). -/
def width : ITy → Nat
  | .dflt | .s64 | .n64 => 64
  | .s32 | .n32 => 32
  | .s16 | .n16 => 16
  | .s8 | .n8 => 8

/-- Whether TY is an S type; 0x00 is read as S64. -/
def isSigned : ITy → Bool
  | .dflt | .s64 | .s32 | .s16 | .s8 => true
  | .n64 | .n32 | .n16 | .n8 => false

/-- The low bits of a source, as the type's width of bits. -/
def lowBits (ty : ITy) (x : Word) : BitVec (width ty) := x.setWidth (width ty)

/-- Int(x, TY). -/
def readInt (ty : ITy) (x : Word) : Int := if isSigned ty then (lowBits ty x).toInt else (lowBits ty x).toNat

/-- Bits of the type's width, extended to a register. -/
def extend (ty : ITy) (x : BitVec (width ty)) : Word := if isSigned ty then x.signExtend 64 else x.setWidth 64

/-- Ext(r, TY) of an exact integer. -/
def extInt (ty : ITy) (r : Int) : Word := extend ty (BitVec.ofInt (width ty) r)

/-- The least and the greatest number of the type. -/
def least (ty : ITy) : Int := if isSigned ty then -(2 ^ (width ty - 1)) else 0
def greatest (ty : ITy) : Int := if isSigned ty then 2 ^ (width ty - 1) - 1 else 2 ^ width ty - 1

/-- The exact result, brought into the type's range under SF (R115). -/
def saturate (ty : ITy) (sf : Bool) (r : Int) : Int := if sf then min (max r (least ty)) (greatest ty) else r

/-- The shift count: the second source mod w. -/
def count (ty : ITy) (y : Word) : Nat := (lowBits ty y).toNat % width ty

end Sys2Proof.Claims
end

