-- ==== Sys2Proof/Certificates/Slice0/Obligations.lean ====
section
/-! DEFINITION. The statements for the provers. -/
namespace Sys2Proof.Claims
open Sys2Proof.Machine

/-- Instruction `i` writes `v` to g[rd] and retires; nothing else changes (R10, R111). -/
def Writes (i : Instr) (s : State) (rd : Reg) (v : Word) : Prop :=
  ∃ t, exec i s = .next t ∧ Retires s t ((here s).setReg rd v) i.bytes

/-- Instruction `i` writes `v` to p[pd], where a write to p0 is discarded, and retires; nothing else changes (R11). -/
def WritesPred (i : Instr) (s : State) (pd : Pred) (v : Bool) : Prop :=
  ∃ t, exec i s = .next t ∧ Retires s t ((here s).setPred pd v) i.bytes

/-- Instruction `i` takes the trap `x` of the current context. -/
def Traps (i : Instr) (s : State) (x : Trap) : Prop := exec i s = .next (takeTrap s s.cur x)

/-- Instruction `i` takes a trap of the cause of the current context, with an info that the manual may leave open. -/
def TrapsWith (i : Instr) (s : State) (k : Cause) : Prop := ∃ x : Trap, x.cause = k ∧ Traps i s x

/-- The result of a two-source integer instruction whose exact result is `f` of its operands (R115). -/
def IntResult (mk : Guard → IntBin → Instr) (f : ITy → Int → Int → Int) : Prop :=
  ∀ (g : Guard) (o : IntBin) (s : State), Issues g s →
    let x := readInt o.ty ((here s).reg o.ra)
    let y := readInt o.ty (srcWord (here s) o.b)
    Writes (mk g o) s o.rd (extInt o.ty (saturate o.ty o.sf (f o.ty x y)))

/-- The result of a two-source integer instruction that works on the low bits of its operands (R115). -/
def BitResult (mk : Guard → IntBin → Instr) (f : (ty : ITy) → BitVec (width ty) → Word → BitVec (width ty)) : Prop :=
  ∀ (g : Guard) (o : IntBin) (s : State), Issues g s →
    Writes (mk g o) s o.rd (extend o.ty (f o.ty (lowBits o.ty ((here s).reg o.ra)) (srcWord (here s) o.b)))

end Sys2Proof.Claims

open Sys2Proof Sys2Proof.Machine Sys2Proof.Claims

/-- R115, R116: ADD, SUB, MUL, MULH, MIN and MAX write Ext of the exact result, saturated under SF, and change nothing
else. -/
def Sys2Proof.Claims.AddsAndProducts : Prop :=
  IntResult .add (fun _ x y => x + y) ∧ IntResult .sub (fun _ x y => x - y) ∧ IntResult .mul (fun _ x y => x * y)
  ∧ IntResult .mulh (fun ty x y => (x * y).fdiv (2 ^ width ty))
  ∧ IntResult .min (fun _ x y => if x ≤ y then x else y) ∧ IntResult .max (fun _ x y => if x ≤ y then y else x)

/-- R115, R117: DIV truncates toward zero and REM is x − y × DIV(x, y) where y is not 0; where y is 0 both trap with
DIVIDE and info 0. -/
def Sys2Proof.Claims.DivideAndRemainder : Prop :=
  ∀ (g : Guard) (o : IntBin) (s : State), Issues g s →
    let x := readInt o.ty ((here s).reg o.ra)
    let y := readInt o.ty (srcWord (here s) o.b)
    (y ≠ 0 → Writes (.div g o) s o.rd (extInt o.ty (saturate o.ty o.sf (x.tdiv y)))
      ∧ Writes (.rem g o) s o.rd (extInt o.ty (saturate o.ty o.sf (x - y * x.tdiv y))))
    ∧ (y = 0 → Traps (.div g o) s ⟨.divide, 0, .none, 0⟩ ∧ Traps (.rem g o) s ⟨.divide, 0, .none, 0⟩)

/-- R115: AND, OR, XOR, ANDN, SHL, SHR, SHA and ROT on the type's width of bits. -/
def Sys2Proof.Claims.BitwiseAndShift : Prop :=
  BitResult .and (fun ty x y => x &&& lowBits ty y) ∧ BitResult .or (fun ty x y => x ||| lowBits ty y)
  ∧ BitResult .xor (fun ty x y => x ^^^ lowBits ty y) ∧ BitResult .andn (fun ty x y => x &&& ~~~lowBits ty y)
  ∧ BitResult .shl (fun ty x y => x <<< count ty y) ∧ BitResult .shr (fun ty x y => x >>> count ty y)
  ∧ BitResult .sha (fun ty x y => x.sshiftRight (count ty y)) ∧ BitResult .rot (fun ty x y => x.rotateLeft (count ty y))

/-- R118: CLZ, CTZ and POPC write the number of leading zeros, trailing zeros and one bits of the low w bits. -/
def Sys2Proof.Claims.CountBits : Prop :=
  ∀ (g : Guard) (o : IntUn) (s : State), Issues g s →
    let x := lowBits o.ty ((here s).reg o.ra)
    let w := width o.ty
    (∃ n, n ≤ w ∧ (∀ i, i < n → x.getLsbD (w - 1 - i) = false) ∧ (n < w → x.getLsbD (w - 1 - n) = true)
      ∧ Writes (.clz g o) s o.rd (BitVec.ofNat 64 n))
    ∧ (∃ n, n ≤ w ∧ (∀ i, i < n → x.getLsbD i = false) ∧ (n < w → x.getLsbD n = true)
      ∧ Writes (.ctz g o) s o.rd (BitVec.ofNat 64 n))
    ∧ Writes (.popc g o) s o.rd (BitVec.ofNat 64 ((List.range w).filter fun i => x.getLsbD i).length)

/-- R119: BFX extracts and BFI inserts the field of `len` bits at `pos`; a field of no bit or past bit 63 is an OPERAND
trap. -/
def Sys2Proof.Claims.BitFields : Prop :=
  ∀ (g : Guard) (ty : BfxTy) (rd ra : Reg) (pos : BitVec 6) (len : BitVec 7) (s : State), Issues g s →
    let p := pos.toNat
    let n := len.toNat
    let x := (here s).reg ra
    (1 ≤ n ∧ n ≤ 64 ∧ p + n ≤ 64 →
      (∃ v : Word, (∀ j, j < 64 → v.getLsbD j = if j < n then x.getLsbD (p + j) else (ty != .n64 && x.getLsbD (p + n - 1)))
        ∧ Writes (.bfx g ty rd ra pos len) s rd v)
      ∧ ∃ v : Word, (∀ j, j < 64 → v.getLsbD j =
            if p ≤ j ∧ j < p + n then x.getLsbD (j - p) else ((here s).reg rd).getLsbD j)
          ∧ Writes (.bfi g rd ra pos len) s rd v)
    ∧ (n = 0 ∨ 64 < n ∨ 64 < p + n →
        TrapsWith (.bfx g ty rd ra pos len) s .operand ∧ TrapsWith (.bfi g rd ra pos len) s .operand)

/-- R120: SEXT, ZEXT, MOV and MOVI. -/
def Sys2Proof.Claims.Moves : Prop :=
  ∀ (g : Guard) (ty : ExtTy) (rd ra : Reg) (i : Imm) (s : State), Issues g s →
    let x := (here s).reg ra
    Writes (.sext g ty rd ra) s rd
        (match ty with
          | .s8 | .n8 => (x.setWidth 8).signExtend 64
          | .s16 | .n16 => (x.setWidth 16).signExtend 64
          | .s32 | .n32 => (x.setWidth 32).signExtend 64)
    ∧ Writes (.zext g ty rd ra) s rd
        (match ty with
          | .s8 | .n8 => x &&& 0xFF
          | .s16 | .n16 => x &&& 0xFFFF
          | .s32 | .n32 => x &&& 0xFFFFFFFF)
    ∧ Writes (.mov g rd ra) s rd x
    ∧ Writes (.movi g rd i) s rd
        (match i with
          | .i28 v => v.signExtend 64
          | .i60 v => v.signExtend 64
          | .i64 v => v)

/-- R121: CMP sets its predicate to the condition on the two sources. -/
def Sys2Proof.Claims.Compare : Prop :=
  ∀ (g : Guard) (k : ICond) (ty : ITy) (pd : Pred) (ra : Reg) (b : Src) (s : State), Issues g s →
    let x := readInt ty ((here s).reg ra)
    let y := readInt ty (srcWord (here s) b)
    WritesPred (.cmp g k ty pd ra b) s pd
      (match k with
        | .eq => decide (x = y) | .ne => decide (x ≠ y) | .lt => decide (x < y) | .le => decide (x ≤ y)
        | .gt => decide (y < x) | .ge => decide (y ≤ x)
        | .tst => lowBits ty ((here s).reg ra) &&& lowBits ty (srcWord (here s) b) != 0)

/-- R122: SEL chooses by the predicate, as it is when SEL issues; p0 always reads 1. -/
def Sys2Proof.Claims.Select : Prop :=
  ∀ (g : Guard) (rd : Reg) (pn : Pred) (ra rb : Reg) (s : State), Issues g s →
    Writes (.sel g rd pn ra rb) s rd
      (if pn = 0 ∨ (here s).st.getLsbD pn.toNat = true then (here s).reg ra else (here s).reg rb)

/-- An address with its top byte replaced. -/
def Sys2Proof.Claims.atView (x : Word) (v : BitVec 8) : Word := v ++ x.setWidth 56

/-- R68: the effective address. -/
def Sys2Proof.Claims.effective (c : Ctx) : Addr → Word
  | .base8 ra d vw => let a := c.reg ra + d.signExtend 64; if vw = 0 then a else atView a vw
  | .base40 ra d vw => let a := c.reg ra + d.signExtend 64; if vw = 0 then a else atView a vw
  | .index ra rb k vw => let a := c.reg ra + c.reg rb * 2 ^ k.toNat; if vw = 0 then a else atView a vw
  | .abs a vw => if vw = 0 then a else atView a vw

/-- R68, R123: LEA writes the effective address, the view override included, and raises nothing. -/
def Sys2Proof.Claims.LoadEffectiveAddress : Prop :=
  ∀ (g : Guard) (rd : Reg) (a : Addr) (s : State), Issues g s → Writes (.lea g rd a) s rd (effective (here s) a)

/-- R124 to R126: VQUAL stamps the position into a pointer with view byte 0, VSET replaces the view byte or traps on a
reserved one, VGET reads it and VCLR clears it. -/
def Sys2Proof.Claims.Views : Prop :=
  ∀ (g : Guard) (rd ra rb : Reg) (v : BitVec 8) (s : State), Issues g s →
    let x := (here s).reg ra
    let top := x.extractLsb' 56 8
    let r := (here s).reg rb
    let reserved := fun (n : Nat) => (1 ≤ n ∧ n ≤ 0x3F) ∨ (0x44 ≤ n ∧ n ≤ 0x7F)
    Writes (.vqual g rd ra false) s rd (if top = 0 then atView x (BitVec.ofNat 8 (0x80 + quireOf s.cur)) else x)
    ∧ Writes (.vqual g rd ra true) s rd (if top = 0 then atView x (BitVec.ofNat 8 (0x40 + quireOf s.cur / 32)) else x)
    ∧ (¬ reserved (r.setWidth 8).toNat → Writes (.vset g rd ra (.reg rb)) s rd (atView x (r.setWidth 8)))
    ∧ (reserved (r.setWidth 8).toNat → TrapsWith (.vset g rd ra (.reg rb)) s .operand)
    ∧ (¬ reserved v.toNat → Writes (.vset g rd ra (.imm v)) s rd (atView x v))
    ∧ (reserved v.toNat → TrapsWith (.vset g rd ra (.imm v)) s .operand)
    ∧ Writes (.vget g rd ra) s rd (top.setWidth 64) ∧ Writes (.vclr g rd ra) s rd (atView x 0)

/-- R91, R127, R128: a scalar floating instruction rounds its exact result under ST and ORs the flags into ST; a format
that scalars do not take is an OPERAND trap. `v` is the exact result and the flags it raises. -/
def Sys2Proof.Claims.FltResult (mk : Fmt → Instr) (s : State) (rd : Reg) (v : Fmt → Exact × Flags) : Prop :=
  ∀ ty, (scalarFloat ty = true →
      let c : Ctl := ⟨opMode (stRM (here s).st), false, stFTZ (here s).st, 0⟩
      let r := roundTo ty (v ty).1 c
      ∃ t, exec (mk ty) s = .next t
        ∧ Retires s t { (here s).setReg rd (BitVec.ofNat 64 r.1) with
            st := (here s).st ||| (((v ty).2 ||| r.2).setWidth 64 <<< 16) } 8)
    ∧ (scalarFloat ty = false → TrapsWith (mk ty) s .operand)

/-- The scalar floating instructions, by their exact results (R127, R128). The exact operations and RoundTo are the
model's own; ExactOperations and RoundToKeepsRepresentable speak of them. -/
def Sys2Proof.Claims.FloatArithmetic : Prop :=
  ∀ (g : Guard) (rd ra rb rc : Reg) (s : State), Issues g s →
    let a := fun ty => fread (here s) ty ra
    let b := fun ty => fread (here s) ty rb
    let c := fun ty => fread (here s) ty rc
    let m := stRM (here s).st
    let ex := fun (r : Val × Flags) => ((⟨r.1, false⟩, r.2) : Exact × Flags)
    FltResult (fun ty => .fadd g ⟨ty, rd, ra, rb⟩) s rd (fun ty => ex (addVal m (a ty) (b ty)))
    ∧ FltResult (fun ty => .fsub g ⟨ty, rd, ra, rb⟩) s rd (fun ty => ex (addVal m (a ty) (negVal (b ty))))
    ∧ FltResult (fun ty => .fmul g ⟨ty, rd, ra, rb⟩) s rd (fun ty => ex (mulVal (a ty) (b ty)))
    ∧ FltResult (fun ty => .fma g ty rd ra rb rc) s rd (fun ty => ex (fmaVal m (a ty) (b ty) (c ty)))
    ∧ FltResult (fun ty => .fdiv g ⟨ty, rd, ra, rb⟩) s rd (fun ty => divVal (a ty) (b ty))
    ∧ FltResult (fun ty => .fsqrt g ty rd ra) s rd (fun ty => sqrtVal (a ty))
    ∧ FltResult (fun ty => .fmin g ⟨ty, rd, ra, rb⟩) s rd (fun ty => ex (minVal (a ty) (b ty), 0))
    ∧ FltResult (fun ty => .fmax g ⟨ty, rd, ra, rb⟩) s rd (fun ty => ex (maxVal (a ty) (b ty), 0))

/-- The rational number that a finite value stands for. -/
def Sys2Proof.Claims.ratOf : Val → Option ℚ
  | .fin neg n e => some ((if neg then -1 else 1) * n * (2 : ℚ) ^ e)
  | _ => none

/-- A positive exact result as RoundTo takes it: `n` units of 2^`e`, and `more` where `a` is not that multiple; then `n` has
bits enough for every format. -/
def Sys2Proof.Claims.Stands (n : Nat) (e : ℤ) (more : Bool) (a : ℚ) : Prop :=
  n * (2 : ℚ) ^ e ≤ a ∧ a < (n + 1) * (2 : ℚ) ^ e ∧ (more = true ↔ a ≠ n * (2 : ℚ) ^ e) ∧ (more = true → 2 ^ 100 ≤ n)

/-- R92, R94, R127: the sum, product and fused sum that scalars round are exact, and the quotient and the square root stand
as exact results; a product with a zero factor and an infinity and a difference of infinities are NaN with NV, 0 / 0 and a
root below zero are NaN with NV, x / 0 is an infinity with DZ, and −x has the value −x. -/
def Sys2Proof.Claims.ExactOperations : Prop :=
  (∀ (m : Nat) (s t u : Bool) (n k h : Nat) (e d f : ℤ),
    ∃ x y z, ratOf (.fin s n e) = some x ∧ ratOf (.fin t k d) = some y ∧ ratOf (.fin u h f) = some z
      ∧ ratOf (addVal m (.fin s n e) (.fin t k d)).1 = some (x + y) ∧ (addVal m (.fin s n e) (.fin t k d)).2 = 0
      ∧ ratOf (mulVal (.fin s n e) (.fin t k d)).1 = some (x * y) ∧ (mulVal (.fin s n e) (.fin t k d)).2 = 0
      ∧ ratOf (fmaVal m (.fin s n e) (.fin t k d) (.fin u h f)).1 = some (x * y + z)
      ∧ ratOf (negVal (.fin s n e)) = some (-x)
      ∧ cmpVal (.fin s n e) (.fin t k d) = some (if x < y then -1 else if x = y then 0 else 1)
      ∧ (n ≠ 0 → k ≠ 0 → ∃ i g more, divVal (.fin s n e) (.fin t k d) = (⟨.fin (s != t) i g, more⟩, 0)
          ∧ Stands i g more |x / y|)
      ∧ (n ≠ 0 → s = false → ∃ i g more, sqrtVal (.fin s n e) = (⟨.fin false i g, more⟩, 0)
          ∧ (i * (2 : ℚ) ^ g) ^ 2 ≤ x ∧ x < ((i + 1) * (2 : ℚ) ^ g) ^ 2 ∧ (more = true ↔ x ≠ (i * (2 : ℚ) ^ g) ^ 2)
          ∧ 2 ^ 100 ≤ i))
  ∧ (∀ (m : Nat) (s t : Bool) (n : Nat) (e d : ℤ), addVal m (.inf s) (.inf (!s)) = (.nan, flNV)
      ∧ mulVal (.fin s 0 e) (.inf t) = (.nan, flNV) ∧ mulVal (.inf t) (.fin s 0 e) = (.nan, flNV)
      ∧ divVal (.fin s 0 e) (.fin t 0 d) = (⟨.nan, false⟩, flNV) ∧ divVal (.inf s) (.inf t) = (⟨.nan, false⟩, flNV)
      ∧ (n ≠ 0 → divVal (.fin s n e) (.fin t 0 d) = (⟨.inf (s != t), false⟩, flDZ)
          ∧ sqrtVal (.fin true n e) = (⟨.nan, false⟩, flNV)))

/-- R87, R96: rounding the value of an encoding to the same format gives that encoding back and raises no flag, whatever
the mode; with flushing, that is so of every value that is not subnormal. -/
def Sys2Proof.Claims.RoundToKeepsRepresentable : Prop :=
  ∀ (f : Fmt) (p : FParam) (w : Nat) (mode h : Nat) (sat : Bool), fparam f = some p → w < 2 ^ (p.e + p.t + 1) →
    (∀ neg n e, floatVal f w = .fin neg n e → roundTo f ⟨floatVal f w, false⟩ ⟨mode, sat, false, h⟩ = (w, 0))
    ∧ (∀ neg n e, floatVal f w = .fin neg n e → (n = 0 ∨ 2 ^ p.t ≤ n) →
        roundTo f ⟨floatVal f w, false⟩ ⟨mode, sat, true, h⟩ = (w, 0))
    ∧ (∀ neg, floatVal f w = .inf neg → roundTo f ⟨floatVal f w, false⟩ ⟨mode, sat, false, h⟩ = (w, 0))

/-- R96, R97: RoundTo of any non-zero real. With E the exponent of |x| or that of the least normal value, q the spacing
there and L the count of whole spacings in |x|, the result is x itself, or L or L + 1 spacings, as the mode says: to nearest
with ties to even, toward zero, up, down, or by the stochastic value. NX is set where it is not x, and UF where also |x| is
below the least normal value, which flushing makes a zero. Past the greatest finite value, OF and NX are set and the result
is that value, E4M3's NaN or an infinity. -/
def Sys2Proof.Claims.RoundToRounds : Prop :=
  ∀ (f : Fmt) (p : FParam) (neg : Bool) (n : Nat) (e : ℤ) (more : Bool) (c : Ctl) (a : ℚ) (big : Nat) (high : ℤ),
    fparam f = some p → c.mode ≤ 4 → c.h < 2 ^ 32 → 0 < a → Stands n e more a →
    floatVal f (maxEnc f p) = .fin false big high →
    let least := (2 : ℚ) ^ (1 - ((2 ^ (p.e - 1) - 1 : Nat) : ℤ))
    let q := (2 : ℚ) ^ (max (Int.log 2 a) (1 - ((2 ^ (p.e - 1) - 1 : Nat) : ℤ)) - p.t)
    let L := ⌊a / q⌋₊
    let up : Prop := match c.mode with
      | 0 => q * (2 * L + 1) < 2 * a ∨ (2 * a = q * (2 * L + 1) ∧ L % 2 = 1)
      | 1 => False
      | 2 => neg = false
      | 3 => neg = true
      | _ => c.h < ⌊(a / q - L) * 2 ^ 32⌋₊
    let r := roundTo f ⟨.fin neg n e, more⟩ c
    let tiny := if a < least then flUF else 0
    let gives := fun (m : Nat) (fl : Flags) =>
      (m * q ≤ big * (2 : ℚ) ^ high → r.2 = fl ∧ ∃ k d, floatVal f r.1 = .fin neg k d ∧ k * (2 : ℚ) ^ d = m * q)
      ∧ (big * (2 : ℚ) ^ high < m * q → r.2 = (flOF ||| flNX ||| fl)
          ∧ let stays := c.sat = true ∨ hasNaN f = false ∨ c.mode = 1 ∨ (c.mode = 2 ∧ neg = true) ∨ (c.mode = 3 ∧ neg = false)
            (stays → floatVal f r.1 = .fin neg big high)
            ∧ (¬stays → (f = .e4m3 → r.1 = if neg then 0xFF else 0x7F) ∧ (f ≠ .e4m3 → floatVal f r.1 = .inf neg)))
    (a < least → c.flush = true → r.2 = (flUF ||| flNX) ∧ ∃ d, floatVal f r.1 = .fin neg 0 d)
    ∧ (¬(a < least ∧ c.flush = true) →
        (a = q * L → gives L 0) ∧ (a ≠ q * L → (up → gives (L + 1) (flNX ||| tiny)) ∧ (¬up → gives L (flNX ||| tiny))))

/-- R112, R217: an element of an integer format as a number, and a number in it, saturated under SF. -/
def Sys2Proof.Claims.elemInt (f : Fmt) (x : Nat) : Int :=
  if fmtSigned f then (BitVec.ofNat (fmtBits f) x).toInt else (BitVec.ofNat (fmtBits f) x).toNat
def Sys2Proof.Claims.leastOf (f : Fmt) : Int := if fmtSigned f then -(2 ^ (fmtBits f - 1)) else 0
def Sys2Proof.Claims.greatestOf (f : Fmt) : Int := if fmtSigned f then 2 ^ (fmtBits f - 1) - 1 else 2 ^ fmtBits f - 1
def Sys2Proof.Claims.intElem (f : Fmt) (sf : Bool) (r : Int) : Nat :=
  (BitVec.ofInt (fmtBits f) (if sf then min (max r (leastOf f)) (greatestOf f) else r)).toNat

/-- R101: the integer to which a mode rounds a number; SR rounds to nearest even. -/
def Sys2Proof.Claims.RoundsToInt (mode : Nat) (x : ℚ) (z : ℤ) : Prop :=
  match mode with
  | 1 => |(z : ℚ)| ≤ |x| ∧ |x| < |(z : ℚ)| + 1 ∧ (0 ≤ (z : ℚ) * x)
  | 2 => z = ⌈x⌉
  | 3 => z = ⌊x⌋
  | _ => |x - z| ≤ 1 / 2 ∧ (|x - z| = 1 / 2 → 2 ∣ z)

/-- R93, R94, R97, R100, R101: a conversion's result. Between floating formats, and from an integer to a floating one, it is
RoundTo of the value, SR acting only to a narrower floating format, as SF does; to an integer it is the rounded integer, the
nearest end of the range with NV where it lies outside, and 0 with NV for a NaN; between integers it wraps, or saturates under
SF to a format that is not wider. Narrower is read as of fewer bits, the model's choice (log 129). -/
def Sys2Proof.Claims.ConvertsTo (d c : Fmt) (w : Nat) (daz ftz sf : Bool) (rm h : Nat) (r : Nat × Flags) : Prop :=
  let narrower := fmtBits d < fmtBits c
  let ctl := fun (floating : Bool) =>
    (⟨if rm = 4 ∧ ¬(floating = true ∧ narrower) then 0 else rm, sf && decide narrower, ftz && flushable d, h⟩ : Ctl)
  let x := dazVal c daz (floatVal c w)
  (fmtFloat c = true → fmtFloat d = true → r = roundTo d ⟨x, false⟩ (ctl true))
  ∧ (fmtFloat c = true → fmtInt d = true →
      (x = .nan → r = (0, flNV))
      ∧ (∀ neg, x = .inf neg → r = (intElem d false (if neg then leastOf d else greatestOf d), flNV))
      ∧ (∀ v, ratOf x = some v → ∃ z, RoundsToInt rm v z ∧ r =
          if z < leastOf d then (intElem d false (leastOf d), flNV)
          else if greatestOf d < z then (intElem d false (greatestOf d), flNV)
          else (intElem d false z, if (z : ℚ) = v then 0 else flNX)))
  ∧ (fmtInt c = true → fmtInt d = true →
      r = (intElem d (sf && decide (fmtBits d ≤ fmtBits c)) (elemInt c w), 0))
  ∧ (fmtInt c = true → fmtFloat d = true →
      let z := elemInt c w
      r = roundTo d ⟨.fin (decide (z < 0)) z.natAbs 0, false⟩ (ctl false))

/-- R94, R100, R101: the conversion of one element, as FCVT, VCVT and MST use it. -/
def Sys2Proof.Claims.ElementConverts : Prop :=
  ∀ (d c : Fmt) (w : Nat) (daz ftz sf : Bool) (rm h : Nat), rm ≤ 4 →
    ConvertsTo d c w daz ftz sf rm h (convElem c d (elemOf c daz w) rm sf ftz h)

/-- R129: FCMP sets its predicate to the condition on the two values, and NV where an ordering condition meets a NaN. -/
def Sys2Proof.Claims.FloatCompare : Prop :=
  ∀ (g : Guard) (k : FCond) (ty : Fmt) (pd : Pred) (ra rb : Reg) (s : State), Issues g s →
    let a := fread (here s) ty ra
    let b := fread (here s) ty rb
    let o := cmpVal a b
    let nan := a = .nan ∨ b = .nan
    (scalarFloat ty = true → ∃ p : Bool,
      (nan → p = (k == .ne || k == .un))
      ∧ (∀ x : Int, o = some x → p = match k with
          | .eq => decide (x = 0) | .ne => decide (x ≠ 0) | .lt => decide (x < 0) | .le => decide (x ≤ 0)
          | .gt => decide (0 < x) | .ge => decide (0 ≤ x) | .un => false)
      ∧ (o = none ↔ nan)
      ∧ ∃ t, exec (.fcmp g k ty pd ra rb) s = .next t
        ∧ Retires s t ({ here s with st := (here s).st |||
            (if o = none ∧ (k = FCond.lt ∨ k = FCond.le ∨ k = FCond.gt ∨ k = FCond.ge) then 0x100000 else 0) }.setPred pd p) 8)
    ∧ (scalarFloat ty = false → TrapsWith (.fcmp g k ty pd ra rb) s .operand)

/-- R98, R99, R130: FCVT converts between every pair of floating and integer formats but E8M0 and the block-scaled ones,
under ST, with index 0 for SR, writes its result, sign-extended from an S type, and the flags, and otherwise traps with
OPERAND. R131: FCLASS writes exactly one of the bits 0 to 8 and sets no flag. -/
def Sys2Proof.Claims.ConvertAndClassify : Prop :=
  ∀ (g : Guard) (d c ty : Fmt) (sf : Bool) (rd ra : Reg) (s : State), Issues g s →
    let plain := fun (f : Fmt) => f ≠ .bs8 ∧ f ≠ .bs4 ∧ f ≠ .e8m0
    let st := (here s).st
    (plain d → plain c → ∃ r t, exec (.fcvt g d c sf rd ra) s = .next t
      ∧ (stRM st ≤ 4 → ConvertsTo d c ((here s).reg ra).toNat (stDAZ st) (stFTZ st) sf (stRM st)
          (srBits (here s).seed (widRead (here s)) 0) r)
      ∧ Retires s t { (here s).setReg rd (if fmtInt d then BitVec.ofInt 64 (elemInt d r.1) else BitVec.ofNat 64 r.1) with
          st := st ||| (BitVec.setWidth 64 (r.2 : Flags) <<< 16) } 8)
    ∧ (¬ (plain d ∧ plain c) → TrapsWith (.fcvt g d c sf rd ra) s .operand)
    ∧ (scalarFloat ty = true → ∃ k, k ≤ 8 ∧ Writes (.fclass g ty rd ra) s rd (BitVec.ofNat 64 (2 ^ k))
        ∧ (k = 8 ↔ floatVal ty ((here s).reg ra).toNat = .nan)
        ∧ ((k = 0 ∨ k = 7) ↔ ∃ neg, floatVal ty ((here s).reg ra).toNat = .inf neg)
        ∧ ((k = 3 ∨ k = 4) ↔ ∃ neg e, floatVal ty ((here s).reg ra).toNat = .fin neg 0 e))
    ∧ (scalarFloat ty = false → TrapsWith (.fclass g ty rd ra) s .operand)

/-- The guard of an instruction; FMT has none, and the events are no instructions (R61, R73). -/
def Sys2Proof.Claims.guardOf : Instr → Option Guard
  | .nop g | .br g _ | .brTile g _ _ _ _ | .brChan g _ _ _ _ | .jmp g _ | .call g _ | .callReg g _ | .ret g
  | .align g _ | .gchunk g _ _ _ | .gchunkInit g _ _ _ _ | .add g _ | .sub g _ | .mul g _ | .mulh g _ | .div g _
  | .rem g _ | .and g _ | .or g _ | .xor g _ | .andn g _ | .shl g _ | .shr g _ | .sha g _ | .rot g _ | .min g _
  | .max g _ | .clz g _ | .ctz g _ | .popc g _ | .bfx g _ _ _ _ _ | .bfi g _ _ _ _ | .sext g _ _ _ | .zext g _ _ _
  | .mov g _ _ | .movi g _ _ | .cmp g _ _ _ _ _ | .sel g _ _ _ _ | .lea g _ _ | .vqual g _ _ _ | .vset g _ _ _
  | .vget g _ _ | .vclr g _ _ | .fadd g _ | .fsub g _ | .fmul g _ | .fma g _ _ _ _ _ | .fdiv g _ | .fsqrt g _ _ _
  | .fmin g _ | .fmax g _ | .fcmp g _ _ _ _ _ | .fcvt g _ _ _ _ _ | .fclass g _ _ _ | .ld g _ _ _ _
  | .ldx g _ _ _ _ | .st g _ _ _ _ | .ldp g _ _ _ | .stp g _ _ _ | .pref g _ _ | .waitline g _ _ _ _ _ _
  | .atom g _ _ _ _ _ _ _ | .cas g _ _ _ _ _ _ _ _ | .cas2 g _ _ _ _ _ _ _ | .red g _ _ _ _ _ _ | .lease g _ _ _
  | .lend g _ | .fence g _ | .barArrive g _ _ | .barWait g _ _ | .spawn g _ _ _ _ | .reap g _ _ _ | .halt g
  | .wfw g _ | .migr g _ _ _ _ | .talloc g _ _ _ _ _ | .tallocProd g _ _ _ | .tfree g _ | .tstate g _ _ _
  | .twait g _ _ | .dkld g _ _ _ | .dkset g _ _ _ | .copyIn g _ _ _ | .copyOut g _ _ _ | .copyr g _ _ _ _ _
  | .copym g _ _ _ | .wmark g _ _ _ | .wmarkGet g _ _ | .chwait g _ | .vadd g _ | .vsub g _ | .vmul g _
  | .vfma g _ _ _ | .vdiv g _ | .vsqrt g _ | .vrsqrt g _ | .vexp2 g _ | .vlog2 g _ | .vmin g _ | .vmax g _
  | .vabs g _ | .vneg g _ | .vcmp g _ _ _ _ | .vsel g _ _ _ _ | .vcvt g _ | .vquant g _ | .vred g _ | .vscan g _
  | .vtrans g _ _ _ _ | .vperm g _ _ _ _ | .vgath g _ _ _ _ | .vscat g _ _ _ _ | .vbcast g _ _ | .vext g _ _ _
  | .vins g _ _ _ | .vshift g _ _ _ _ _ | .mma g _ _ _ _ _ _ _ | .mmas g _ _ _ _ _ _ _ | .mmg g _ _ _ _ _ _
  | .mzero g _ | .mst g _ _ _ _ _ _ | .mwait g | .srd g _ _ | .swr g _ _ | .trap g _ | .eret g _ | .eretSt g _ _
  | .eretAbort g _ _ | .tlbiAsid g _ | .tlbiAddr g _ _ | .tlbiRange g _ _ _ | .tlbiKind g _ _ | .tlbiAll g
  | .cwb g _ _ | .cinv g _ _ | .flushtag g _ _ | .mread g _ _ | .idle g _ => some g
  | _ => none

/-- The vector and matrix class of R81, whose instructions a prefix serves (R80). -/
def Sys2Proof.Claims.isVm : Instr → Bool
  | .vadd .. | .vsub .. | .vmul .. | .vfma .. | .vdiv .. | .vsqrt .. | .vrsqrt .. | .vexp2 .. | .vlog2 ..
  | .vmin .. | .vmax .. | .vabs .. | .vneg .. | .vcmp .. | .vsel .. | .vcvt .. | .vquant .. | .vred .. | .vscan ..
  | .vtrans .. | .vperm .. | .vgath .. | .vscat .. | .vbcast .. | .vext .. | .vins .. | .vshift .. | .mma ..
  | .mmas .. | .mmg .. | .mzero .. | .mst .. | .mwait .. => true
  | _ => false

/-- R64, R76, R80: an instruction whose guard is false retires with no other effect but that a vector or matrix
instruction uses up the prefix. -/
def Sys2Proof.Claims.GuardFalseRetires : Prop :=
  ∀ (i : Instr) (g : Guard) (s : State), guardOf i = some g → guardHolds g (here s).st = false →
    (isVm i = false → stPP (here s).st = false) →
    ∃ t, exec i s = .next t
      ∧ Retires s t (if isVm i then { here s with st := clearPP (here s).st } else here s) i.bytes

/-- R76, R80: with a prefix held, an instruction of no vector or matrix class takes a PREFIX trap, whatever its guard. -/
def Sys2Proof.Claims.PrefixTraps : Prop :=
  ∀ (i : Instr) (s : State), i.isEvent = false → isVm i = false → stPP (here s).st = true → TrapsWith i s .prefixed

/-- R132, R133, R137: NOP retires; BR branches; BR.TILE and BR.CHAN branch where the test differs from CN, and else
retire; the target is (PC + OFF × 4) mod 2^56. -/
def Sys2Proof.Claims.Branches : Prop :=
  ∀ (g : Guard) (off : BitVec 34) (t : Handle) (ch cv : BitVec 3) (cn : Bool) (s : State), Issues g s →
    let target := (here s).pc + 4 * off.signExtend 56
    let tileIs := (tileAt s (quireOf s.cur) t).st.code = cv.toNat
    let chanIs := (chanAt s (quireOf s.cur) ch.toNat).st.code = cv.toNat
    (∃ u, exec (.nop g) s = .next u ∧ Retires s u (here s) 8)
    ∧ (∃ u, exec (.br g off) s = .next u ∧ Jumps s u (here s) target)
    ∧ (∃ u, exec (.brTile g t cv cn off) s = .next u
        ∧ (¬(tileIs ↔ cn = true) → Jumps s u (here s) target) ∧ ((tileIs ↔ cn = true) → Retires s u (here s) 8))
    ∧ (∃ u, exec (.brChan g ch cv cn off) s = .next u
        ∧ (¬(chanIs ↔ cn = true) → Jumps s u (here s) target) ∧ ((chanIs ↔ cn = true) → Retires s u (here s) 8))

/-- R78, R135, R136: JMP and RET go to a register's bits [55:0], the calls put the link in g15; a register target whose
low two bits are not 0 is an ALIGN trap, and g15 is then as before. -/
def Sys2Proof.Claims.CallsAndJumps : Prop :=
  ∀ (g : Guard) (n : Reg) (off : BitVec 34) (s : State), Issues g s →
    let link := (here s).setReg 15 (((here s).pc + 8).setWidth 64)
    let x := (here s).reg n
    let r := (here s).reg 15
    (∃ u, exec (.call g off) s = .next u ∧ Jumps s u link ((here s).pc + 4 * off.signExtend 56))
    ∧ (x &&& 3 = 0 → (∃ u, exec (.jmp g n) s = .next u ∧ Jumps s u (here s) (x.setWidth 56))
        ∧ ∃ u, exec (.callReg g n) s = .next u ∧ Jumps s u link (x.setWidth 56))
    ∧ (r &&& 3 = 0 → ∃ u, exec (.ret g) s = .next u ∧ Jumps s u (here s) (r.setWidth 56))
    ∧ (x &&& 3 ≠ 0 → Traps (.jmp g n) s ⟨.align, x, .none, 0⟩ ∧ Traps (.callReg g n) s ⟨.align, x, .none, 0⟩)
    ∧ (r &&& 3 ≠ 0 → Traps (.ret g) s ⟨.align, r, .none, 0⟩)

/-- A context of quire `q` that ALIGN's waiters of a task wait for: it is not halted, not in WFW and has no posted record. -/
def Sys2Proof.Claims.takesPart (q : Nat) (tag : BitVec 16) (s : State) (p : Nat) : Prop :=
  quireOf p = q ∧ (s.ctx p).task = some tag
    ∧ (((s.ctx p).run = .running ∧ ∀ r, (s.ctx p).wait ≠ .wfw r) ∨ ((s.ctx p).run = .faulted ∧ (s.ctx p).handle = none))

/-- A context that waits in ALIGN at an address. -/
def Sys2Proof.Claims.alignsAt (s : State) (pc : BitVec 56) (p since limit : Nat) : Prop :=
  (s.ctx p).run = .running ∧ (s.ctx p).wait = .align pc since limit

/-- R139: ALIGN takes the context out of the rotation. ALIGN_RELEASE lets a waiter go whose every participant of its task on
its quire waits at the same address, and, in its slot, one whose limit, 4,096 cycles for IMM20 0, has passed; another waiter
stays. -/
def Sys2Proof.Claims.AlignHoldsAndReleases : Prop :=
  (∀ (g : Guard) (limit : BitVec 20) (s : State), Issues g s →
    ∃ t, exec (.align g limit) s = .next t ∧ OthersSame s t ∧ SameElsewhere s t ∧ t.assize = s.assize
      ∧ here t = { here s with wait := .align (here s).pc s.cyc (if limit = 0 then 4096 else limit.toNat) })
  ∧ (∀ (q : Nat) (pc : BitVec 56) (tag : BitVec 16) (since limit pos : Nat) (s : State),
      Sparse.wf Ctx.reset s.ctxs = true → quireOf pos = q → alignsAt s pc pos since limit → (s.ctx pos).task = some tag →
      let passed := since + limit ≤ s.cyc ∧ s.cyc % 16 = slotOf pos
      let met := ∀ p, takesPart q tag s p → ∃ x n, alignsAt s pc p x n
      (passed ∨ met → ∃ t, exec (.alignRelease q pc) s = .next t
        ∧ t.ctx pos = { s.ctx pos with pc := (s.ctx pos).pc + 8, refused := 0, wait := .none }
        ∧ SameElsewhere s t ∧ (∀ p, quireOf p ≠ q → t.ctx p = s.ctx p))
      ∧ (¬passed → ¬met → ∀ t, exec (.alignRelease q pc) s = .next t → t.ctx pos = s.ctx pos))

/-- R140 to R142, R144: GCHUNK.INIT sets a counter of the task and GCHUNK takes its next chunk; an odd destination, no
task, P or MINC 0 or bits [63:48] not 0 are OPERAND traps. -/
def Sys2Proof.Claims.IterationCounters : Prop :=
  ∀ (g : Guard) (n : BitVec 2) (pd : Pred) (rd ra rb rc : Reg) (s : State), Issues g s →
    let w := (here s).reg rc
    let good := bits w.toNat 0 16 ≠ 0 ∧ bits w.toNat 16 32 ≠ 0 ∧ bits w.toNat 48 16 = 0
    let puts := fun (u : State) (t : Task) (x : IterCtr) => ∃ l, u.front = { s.front with
        tasks := s.front.tasks.map fun v => if v.tag = t.tag then { t with ctrs := l } else v }
      ∧ ∀ m : BitVec 2, l.getD m.toNat IterCtr.reset = if m = n then x else t.ctrs.getD m.toNat IterCtr.reset
    (∀ t, (here s).task.bind (taskOf s) = some t →
      (good → ∃ u, exec (.gchunkInit g n ra rb rc) s = .next u ∧ SameButFront s u ∧ OthersSame s u
        ∧ here u = { here s with pc := (here s).pc + 8, refused := 0 }
        ∧ puts u t ⟨(here s).reg ra, (here s).reg rb, w.setWidth 16, w.extractLsb' 16 32⟩)
      ∧ (rd.toNat % 2 = 0 → ∃ u, exec (.gchunk g pd rd n) s = .next u ∧ SameButFront s u ∧ OthersSame s u
        ∧ (let x := t.ctrs.getD n.toNat IterCtr.reset
           let r := x.remain.toNat
           let k := if r = 0 then 0 else min (max (r / (2 * x.p.toNat)) x.minc.toNat) r
           here u = { ((((here s).setReg rd x.next).setReg (rd + 1) (BitVec.ofNat 64 k)).setPred pd (0 < k)) with
                        pc := (here s).pc + 8, refused := 0 }
           ∧ puts u t { x with next := x.next + BitVec.ofNat 64 k, remain := x.remain - BitVec.ofNat 64 k })))
    ∧ (¬good ∨ (here s).task.bind (taskOf s) = none → TrapsWith (.gchunkInit g n ra rb rc) s .operand
        ∧ ∃ u, exec (.gchunkInit g n ra rb rc) s = .next u ∧ u.front.tasks = s.front.tasks)
    ∧ (rd.toNat % 2 = 1 → Traps (.gchunk g pd rd n) s ⟨.operand, BitVec.ofNat 64 rd.toNat, .none, 0⟩)
    ∧ ((here s).task.bind (taskOf s) = none → TrapsWith (.gchunk g pd rd n) s .operand)

/-- R73, R79: FMT puts its payload into ST.PFX and sets ST.PP; every other bit of ST and every register stays. -/
def Sys2Proof.Claims.FormatSetsPrefix : Prop :=
  ∀ (p : FmtPay) (s : State), stPP (here s).st = false →
    let pay := fun (j : Nat) => if j < 5 then p.fa.getLsbD j else if j < 10 then p.fb.getLsbD (j - 5)
      else if j = 10 then p.psc else if j = 11 then false else if j = 12 then p.sf else p.rmo.getLsbD (j - 13)
    ∃ t v, exec (.fmt p) s = .next t ∧ Retires s t { here s with st := v } 8
      ∧ ∀ j, j < 64 → v.getLsbD j =
          if j = 49 then true else if 32 ≤ j ∧ j < 48 then pay (j - 32) else (here s).st.getLsbD j

/-! ### Traps, records and answers -/

/-- Eight little-endian bytes of memory, as a number. -/
def Sys2Proof.Claims.wordAt (s : State) (a : Nat) : Nat := ofBytes (Memory.readBytes s.mem a 8)

/-- R37: a trap leaves the context FAULTED and out of the rotation with its registers, PC and prefix as they were; its
leases end, which sets LB and clears LC where it held one; of the other contexts, the write of its record may wake one that
waits for it. -/
def Sys2Proof.Claims.TrapStopsContext : Prop :=
  ∀ (s : State) (pos : Nat) (x : Trap), pos < 2 ^ 14 →
    let c := s.ctx pos
    let t := takeTrap s pos x
    let d := t.ctx pos
    let held := (s.core (coreOf pos)).leases.any (·.owner == pos)
    d.run = .faulted ∧ d.port = none ∧ d.wait = .none ∧ d.g = c.g ∧ d.pc = c.pc ∧ d.wid = c.wid ∧ d.levels = c.levels
    ∧ d.seed = c.seed ∧ d.slotgen = c.slotgen ∧ d.task = c.task ∧ stPP d.st = stPP c.st ∧ stPFX d.st = stPFX c.st
    ∧ (held = false → d.st = c.st)
    ∧ (held = true → ∀ j, j < 64 → d.st.getLsbD j =
        if j = 27 ∨ j = 28 then false else if j = 29 then true else c.st.getLsbD j)
    ∧ (∀ l ∈ (t.core (coreOf pos)).leases, l.owner ≠ pos) ∧ OthersRoused s t pos
    ∧ t.front = { s.front with parts := t.front.parts } ∧ t.fabric = s.fabric ∧ t.cyc = s.cyc

/-- R37, R328, R329: where the partition's ring takes a record, a trap writes the record's 64 bytes in the next place of
the ring, every other byte of memory unchanged but for reductions pending on the record's line, passes the producer index
over it, counts SEQ up and signals vector 16 to the partition's functions, behind the messages that the Host Port holds. -/
def Sys2Proof.Claims.TrapPostsRecord : Prop :=
  ∀ (s : State) (pos n : Nat) (x : Trap), partOf s pos = some n → (s.part n).unposted = [] → ringTakes s n = true →
    pos < 2 ^ 14 → x.sub < 256 →
    let p := s.part n
    let a := p.fqbase.toNat + 64 * (p.fqprod.toNat % 2 ^ p.fqlog.toNat)
    let c := s.ctx pos
    let t := takeTrap s pos x
    let signals := fun (u : State) => u.dev.msix ++ u.dev.hostQ.filterMap (·.msi)
    wordAt t a = x.cause.code + 2 ^ 8 * x.sub + 2 ^ 16 * x.acc.code + 2 ^ 32 * c.slotgen.toNat
    ∧ wordAt t (a + 8) = (posWord s pos).toNat ∧ wordAt t (a + 16) = c.pc.toNat ∧ wordAt t (a + 24) = x.info.toNat
    ∧ Memory.readBytes t.mem (a + 32) 16 = encOf c ∧ wordAt t (a + 48) = 0 ∧ wordAt t (a + 56) = p.nextSeq.toNat
    ∧ (NonePending s (a / 128) → ∀ b, b < a ∨ a + 64 ≤ b → Memory.read t.mem b = Memory.read s.mem b)
    ∧ (t.part n).fqprod = p.fqprod + 1 ∧ (t.part n).nextSeq = p.nextSeq + 1
    ∧ (∃ r, (t.part n).recs = p.recs ++ [r] ∧ r.seq = p.nextSeq ∧ r.trap = x ∧ r.src = .ctx)
    ∧ (t.ctx pos).handle = some p.nextSeq ∧ (t.part n).unposted = []
    ∧ signals t = signals s ++ (fnsOf s n).map fun f => (f, 16)

/-- R329: a fault that finds earlier records unposted, the ring full, its size out of range or its place outside the
partition's granules is held unposted, no byte of memory written and no record lost. -/
def Sys2Proof.Claims.TrapWaitsForRing : Prop :=
  ∀ (s : State) (pos n : Nat) (x : Trap), partOf s pos = some n →
    let p := s.part n
    (p.unposted ≠ [] ∨ p.fqlog.toNat < 4 ∨ 16 < p.fqlog.toNat ∨ 2 ^ p.fqlog.toNat ≤ (p.fqprod - p.fqcons).toNat
      ∨ inPartHbm s n p.fqbase.toNat (64 * 2 ^ p.fqlog.toNat) = false) →
    let t := takeTrap s pos x
    SameMemory s t ∧ (t.part n).fqprod = p.fqprod ∧ (t.part n).recs = p.recs ∧ (t.ctx pos).handle = none
    ∧ ∃ r, (t.part n).unposted = p.unposted ++ [r] ∧ r.trap = x ∧ r.src = .ctx ∧ r.pc = (s.ctx pos).pc
        ∧ r.slotgen = (s.ctx pos).slotgen

/-- R276, R277: TRAP calls Trap(SOFTWARE, IMM20). -/
def Sys2Proof.Claims.TrapInstruction : Prop :=
  ∀ (g : Guard) (imm : BitVec 20) (s : State), Issues g s → Traps (.trap g imm) s ⟨.software, imm.setWidth 64, .none, 0⟩

/-- R276, R278: outside service mode ERET, TLBI and FLUSHTAG take a PRIVILEGE trap. -/
def Sys2Proof.Claims.ServiceModeRequired : Prop :=
  ∀ (g : Guard) (ra rb : Reg) (o : Option Reg) (n : BitVec 20) (k : BitVec 3) (q : BitVec 7) (s : State), Issues g s →
    (here s).st.getLsbD 63 = false →
    ∀ i ∈ ([.eret g ra, .eretSt g ra rb, .eretAbort g ra o, .tlbiAsid g ra, .tlbiAddr g ra rb, .tlbiRange g ra rb n,
      .tlbiKind g ra k, .tlbiAll g, .flushtag g q ra] : List Instr), TrapsWith i s .privilege

/-- The form of ERET that gives an answer. -/
def Sys2Proof.Claims.eretOf (g : Guard) (ra rb : Reg) : Answer → Instr
  | .resume => .eret g ra
  | .resumeSt _ => .eretSt g ra rb
  | .abort => .eretAbort g ra none

/-- R277, R278, R331: in service mode, ERET on the record of a context answers it: RESUME puts the context back into the
rotation, once an exchange of accumulators that its head takes part in has ended (R299), at its instruction, or after it for SOFTWARE, with ST as recorded or, for ERET.ST, with the fields of g[RB] but LC
and SV; ABORT leaves a task's context HALTED and aborted; the record is no longer outstanding, and service mode ends. -/
def Sys2Proof.Claims.EretAnswersContext : Prop :=
  ∀ (g : Guard) (ra rb : Reg) (a : Answer) (s : State) (n p : Nat) (r : FRec), Issues g s →
    (here s).st.getLsbD 63 = true → partOf s s.cur = some n → findRec s n ((here s).reg ra) = some r → r.src = .ctx →
    holderOf s n r.seq = some p → p ≠ s.cur →
    (∀ w, a = .resumeSt w → w = (here s).reg rb) →
    ∃ t, exec (eretOf g ra rb a) s = .next t
      ∧ here t = { here s with pc := (here s).pc + 8, refused := 0, st := putBits (here s).st 63 1 0 }
      ∧ (∀ x ∈ (t.part n).recs, x.seq ≠ r.seq)
      ∧ (a ≠ .abort → (t.ctx p).run = .running ∧ (t.ctx p).wait = exchangeWait s p ∧ (t.ctx p).g = (s.ctx p).g
          ∧ (t.ctx p).pc = (if r.trap.cause = .software then (s.ctx p).pc + 8 else (s.ctx p).pc))
      ∧ (a = .resume → (t.ctx p).st = (s.ctx p).st)
      ∧ (∀ w, a = .resumeSt w → ∀ j, j < 64 → (t.ctx p).st.getLsbD j =
          (j == 0 || (w.getLsbD j && answerMask.getLsbD j)))
      ∧ (a = .abort → (s.ctx p).task.isSome = true → (t.ctx p).run = .halted ∧ (t.ctx p).aborted = true)

/-- R278: a handle that names no outstanding record of the partition is an OPERAND trap. -/
def Sys2Proof.Claims.EretUnknownHandle : Prop :=
  ∀ (g : Guard) (ra rb : Reg) (a : Answer) (s : State), Issues g s → (here s).st.getLsbD 63 = true →
    (∀ n, partOf s s.cur = some n → findRec s n ((here s).reg ra) = none) → TrapsWith (eretOf g ra rb a) s .operand

/-! ### Special registers and system instructions -/

/-- The bits of ST that R12 names; the others are reserved and read 0 (R5). -/
def Sys2Proof.Claims.inSt (j : Nat) : Bool :=
  j ≤ 7 || j == 14 || j == 15 || (16 ≤ j && j ≤ 20) || (24 ≤ j && j ≤ 29) || (32 ≤ j && j ≤ 47) || j == 49 || j == 63

/-- R5, R14, R15: SRD reads each special register; a reserved index is an OPERAND trap. -/
def Sys2Proof.Claims.SpecialRegisterRead : Prop :=
  ∀ (g : Guard) (rd : Reg) (s : State), Issues g s →
    let c := here s
    Writes (.srd g rd 0) s rd (BitVec.ofNat 64 (s.cur % 2 ^ 14 + 2 ^ 32 * (s.fabric.fid.toNat % 1024)))
    ∧ (∃ v : Word, Writes (.srd g rd 1) s rd v ∧ ∀ j, j < 64 → v.getLsbD j =
          (decide (j < (levelWidths c.levels).sum) && c.wid.getLsbD j))
    ∧ Writes (.srd g rd 2) s rd (c.slotgen.setWidth 64) ∧ Writes (.srd g rd 3) s rd (BitVec.ofNat 64 s.cyc)
    ∧ (∃ v : Word, Writes (.srd g rd 4) s rd v ∧ ∀ j, j < 64 → v.getLsbD j = (inSt j && c.st.getLsbD j))
    ∧ Writes (.srd g rd 5) s rd c.seed
    ∧ Writes (.srd g rd 6) s rd (match c.task with
        | some t => 0x10000 ||| t.setWidth 64
        | none => 0)
    ∧ (∀ x : BitVec 12, 0x100 ≤ x.toNat → x.toNat ≤ 0x1FF → ∃ v, Writes (.srd g rd x) s rd v)
    ∧ (∀ x : BitVec 12, (7 ≤ x.toNat ∧ x.toNat < 0x100) ∨ 0x1FF < x.toNat → TrapsWith (.srd g rd x) s .operand)

/-- R13, R14, R15: SWR to ST writes only P[7:1], RM, the sticky flags, FTZ, DAZ and LB, and a reserved RM is an OPERAND
trap; SWR to SEED writes it; SWR to any other index is an OPERAND trap. -/
def Sys2Proof.Claims.SpecialRegisterWrite : Prop :=
  ∀ (g : Guard) (ra : Reg) (s : State), Issues g s →
    let v := (here s).reg ra
    let writable := fun (j : Nat) => (1 ≤ j ∧ j ≤ 7) ∨ j = 14 ∨ j = 15 ∨ (16 ≤ j ∧ j ≤ 20) ∨ (24 ≤ j ∧ j ≤ 26) ∨ j = 29
    ((v.extractLsb' 24 3).toNat ≤ 4 → ∃ t w, exec (.swr g 4 ra) s = .next t ∧ Retires s t { here s with st := w } 8
      ∧ ∀ j, j < 64 → w.getLsbD j = if writable j then v.getLsbD j else (here s).st.getLsbD j)
    ∧ (4 < (v.extractLsb' 24 3).toNat → TrapsWith (.swr g 4 ra) s .operand)
    ∧ (∃ t, exec (.swr g 5 ra) s = .next t ∧ Retires s t { here s with seed := v } 8)
    ∧ (∀ x : BitVec 12, x ≠ 4 → x ≠ 5 → TrapsWith (.swr g x ra) s .operand)

/-- R282: MREAD reads a counter of the context's partition less what was counted in a lag of at most 64 cycles; an index of
48 or above is an OPERAND trap. -/
def Sys2Proof.Claims.MeterRead : Prop :=
  ∀ (g : Guard) (rd : Reg) (idx : BitVec 6) (s : State), Issues g s →
    (idx.toNat < 48 → ∀ n, partOf s s.cur = some n → ∃ lag, lag ≤ 64 ∧
      Writes (.mread g rd idx) s rd (counter s n idx.toNat - BitVec.ofNat 64
        (((s.assize.recent.filter fun e => e.2.1 == 48 * n + idx.toNat && s.cyc < e.1 + lag).map (·.2.2)).sum)))
    ∧ (48 ≤ idx.toNat → TrapsWith (.mread g rd idx) s .operand)

/-- R279: TLBI in service mode on an identifier of the partition leaves no cached leaf that it names in any TLB of the
device and retires; contexts, memory and the front end stay. TLBI.ALL takes every identifier of the partition. -/
def Sys2Proof.Claims.TlbInvalidate : Prop :=
  ∀ (g : Guard) (ra rb : Reg) (n : BitVec 20) (k : BitVec 3) (s : State) (part : Nat), Issues g s →
    (here s).st.getLsbD 63 = true → partOf s s.cur = some part →
    let id := ((here s).reg ra).toNat
    let mine := fun (a : Nat) => ownsAsid s part a = true
    let gone := fun (t : State) (leaf : Tlb → Prop) =>
      (∀ core, ∀ e ∈ (t.core core).tlb, ¬ leaf e) ∧ (∀ q, ∀ e ∈ (t.quire q).tlb, ¬ leaf e)
    let done := fun (i : Instr) (leaf : Tlb → Prop) => ∃ t, exec i s = .next t ∧ gone t leaf ∧ SameMemory s t
      ∧ t.front = s.front ∧ here t = { here s with pc := (here s).pc + 8, refused := 0 } ∧ OthersSame s t
    let lo := (((here s).reg rb).setWidth 56).toNat
    (id < 1024 ∧ mine id →
      done (.tlbiAsid g ra) (fun e => e.asid = id)
      ∧ done (.tlbiAddr g ra rb) (fun e => e.asid = id ∧ e.va ≤ lo ∧ lo < e.va + pageSize e.leaf.size)
      ∧ (n ≠ 0 → done (.tlbiRange g ra rb n)
          (fun e => e.asid = id ∧ e.va < lo + n.toNat * 4096 ∧ lo < e.va + pageSize e.leaf.size))
      ∧ (k.toNat < 5 → done (.tlbiKind g ra k) (fun e => e.asid = id ∧ e.leaf.kind.code = k.toNat)))
    ∧ done (.tlbiAll g) (fun e => mine e.asid)
    ∧ (¬ (id < 1024 ∧ mine id) → TrapsWith (.tlbiAsid g ra) s .operand ∧ TrapsWith (.tlbiAddr g ra rb) s .operand
        ∧ TrapsWith (.tlbiRange g ra rb n) s .operand ∧ TrapsWith (.tlbiKind g ra k) s .operand)

/-- The Write-back of a copy does not wait behind a lease on its line (R161). -/
def Sys2Proof.Claims.MayGo (s : State) (q : Nat) (coh : Coh) (c : Copy) : Prop :=
  c.mask = 0 ∨ heldBack s (copyDoer q coh c) c.line = false

/-- R280: CWB and CINV do nothing for a length of 0 and trap on a length above 2^30; where every page of the range
resolves, CWB completes, with no copy of the range left at a scoped page's scope, unless a lease holds one back: then it
waits outside the rotation; CINV completes, and leaves no copy whose mask is clear. -/
def Sys2Proof.Claims.CacheMaintenance : Prop :=
  ∀ (g : Guard) (ra rb : Reg) (s : State), Issues g s →
    let n := ((here s).reg rb).toNat
    let q := quireOf s.cur
    let found := fun (s1 : State) (r : Except Stop (List (Loc × Nat))) =>
      resolveRange (whoIs s s.cur) (n / 4096 + 2) s ((here s).reg ra) n = (s1, r)
    let goes := fun (t : State) => (here t).pc = (here s).pc + 8 ∧ (here t).g = (here s).g
    let gone := fun (t : State) (l : List (Loc × Nat)) => ∀ p ∈ l, isScoped p.1.coh = true → pieceCopies t q p = []
    (n = 0 → ∀ i ∈ ([.cwb g ra rb, .cinv g ra rb] : List Instr), ∃ t, exec i s = .next t ∧ Retires s t (here s) 8)
    ∧ (2 ^ 30 < n → TrapsWith (.cwb g ra rb) s .operand ∧ TrapsWith (.cinv g ra rb) s .operand)
    ∧ (0 < n → n ≤ 2 ^ 30 → ∀ s1,
        (∀ x, found s1 (.error (some x)) → exec (.cwb g ra rb) s = .next (takeTrap s1 s.cur x)
          ∧ exec (.cinv g ra rb) s = .next (takeTrap s1 s.cur x))
        ∧ ∀ l, found s1 (.ok l) →
          (∃ t, exec (.cwb g ra rb) s = .next t ∧ (goes t ∧ gone t l ∨
            ¬ gone t l ∧ (here t).wait = .retest ∧ (here t).pc = (here s).pc ∧ (here t).g = (here s).g))
          ∧ ((∀ p ∈ l, isScoped p.1.coh = true → ∀ c ∈ pieceCopies s1 q p, MayGo s1 q p.1.coh c) →
              ∃ t, exec (.cwb g ra rb) s = .next t ∧ goes t ∧ gone t l)
          ∧ ∃ t, exec (.cinv g ra rb) s = .next t ∧ goes t
            ∧ ∀ p ∈ l, isScoped p.1.coh = true → ∀ c ∈ pieceCopies t q p, c.mask ≠ 0)

/-- R281: FLUSHTAG in service mode leaves the rotation to wait for the named quire; a quire of another partition or a tag
above 16 bits is an OPERAND trap. FLUSHTAG_ACK leaves the quire no copy of the tag, and the waiter goes on, where no lease
holds back a Write-back. -/
def Sys2Proof.Claims.FlushTag : Prop :=
  (∀ (g : Guard) (q : BitVec 7) (ra : Reg) (s : State), Issues g s → (here s).st.getLsbD 63 = true →
    let v := (here s).reg ra
    (v.toNat < 2 ^ 16 → partOfQuire s q.toNat = partOf s s.cur →
      (q.toNat = quireOf s.cur ∨ (Sparse.get 0 s.front.perm (quireOf s.cur)).getLsbD q.toNat = true) →
      ∃ t, exec (.flushtag g q ra) s = .next t ∧ here t = { here s with wait := .flush q.toNat (v.setWidth 16) }
        ∧ OthersSame s t ∧ SameElsewhere s t)
    ∧ (2 ^ 16 ≤ v.toNat ∨ partOfQuire s q.toNat ≠ partOf s s.cur → TrapsWith (.flushtag g q ra) s .operand))
  ∧ (∀ (q pos : Nat) (tag : BitVec 16) (s : State), Sparse.wf Ctx.reset s.ctxs = true → (s.ctx pos).run = .running →
      (s.ctx pos).wait = .flush q tag → (∀ c ∈ (s.quire q).copies, MayGo s q .scopedQ c) →
      ∃ t, exec (.flushtagAck q tag) s = .next t ∧ (t.ctx pos).wait = .none ∧ (t.ctx pos).pc = (s.ctx pos).pc + 8
        ∧ (t.ctx pos).g = (s.ctx pos).g ∧ ∀ c ∈ (t.quire q).copies, c.task ≠ some tag ∧ tag ∉ c.users)

/-- R283, R330: IDLE n waits n × 64 cycles and IDLE_EXPIRY ends it; IDLE 0 waits in the designated service context and is
an OPERAND trap elsewhere; RECORD_DELIVERY gives the oldest undelivered record there: g1 its SEQ, g2 its place, SV 1. -/
def Sys2Proof.Claims.IdleAndDelivery : Prop :=
  (∀ (g : Guard) (n : BitVec 20) (s : State), Issues g s →
    (n ≠ 0 → ∃ t, exec (.idle g n) s = .next t ∧ here t = { here s with wait := .idle (s.cyc + 64 * n.toNat) }
      ∧ OthersSame s t ∧ SameElsewhere s t)
    ∧ (isService s s.cur = true → ∃ t, exec (.idle g 0) s = .next t ∧ here t = { here s with wait := .service }
      ∧ OthersSame s t ∧ SameElsewhere s t)
    ∧ (isService s s.cur = false → TrapsWith (.idle g 0) s .operand))
  ∧ (∀ (pos till : Nat) (s : State), (s.ctx pos).run = .running → (s.ctx pos).wait = .idle till → till ≤ s.cyc →
      ∃ t, exec (.idleExpiry pos) s = .next t ∧ SameElsewhere s t ∧ (∀ p, p ≠ pos → t.ctx p = s.ctx p)
        ∧ t.ctx pos = { s.ctx pos with pc := (s.ctx pos).pc + 8, wait := .none, refused := 0 })
  ∧ (∀ (n pos : Nat) (r : FRec) (s : State), servicePos s n = some pos → (s.ctx pos).run = .running →
      (s.ctx pos).wait = .service → partOf s pos = some n → (s.part n).recs.find? (fun r => !r.delivered) = some r →
      ∃ t, exec (.recordDelivery n) s = .next t
        ∧ t.ctx pos = { (((s.ctx pos).setReg 1 r.seq).setReg 2 (BitVec.ofNat 64 r.slot)) with
              st := putBits (s.ctx pos).st 63 1 1, pc := (s.ctx pos).pc + 8, wait := .none, refused := 0 }
        ∧ (∀ x ∈ (t.part n).recs, x.seq = r.seq → x.delivered = true))

/-- One pending reduction performed on memory (R151, R187). -/
def Sys2Proof.Claims.reduced (m : Memory) (p : Pend) : Memory :=
  let n := szBytes p.sz
  Memory.writeBytes m p.pa (toBytes n (atomNew p.op p.sz (ofBytes (Memory.readBytes m p.pa n)) p.v))

/-- R154, R161, R191: WRITE_BACK writes every masked byte of a quire's or a die's copy at the Home and leaves the copy
absent; DROP removes a clean copy and changes no byte; WRITE_QUEUE_DRAIN performs the reductions of an entry in the order in
which they entered, and leaves none. -/
def Sys2Proof.Claims.CopyAndQueueMoves : Prop :=
  (∀ (ofDie : Bool) (unit line : Nat) (s : State) (c : Copy),
    let q := if ofDie then 32 * unit else unit
    let coh : Coh := if ofDie then .scopedD else .scopedQ
    copyOf s q coh line = some c →
    (c.mask ≠ 0 → heldBack s (copyDoer q coh c) line = false → NonePending s line →
      ∃ t, exec (.writeBack ⟨ofDie, unit, line⟩) s = .next t ∧ copyOf t q coh line = none
        ∧ (∀ i, i < 128 → Memory.read t.mem (128 * line + i) =
            if c.mask.testBit i then c.data.getD i 0 else Memory.read s.mem (128 * line + i))
        ∧ (∀ a, a / 128 ≠ line → Memory.read t.mem a = Memory.read s.mem a) ∧ ∀ p, Roused (s.ctx p) (t.ctx p))
    ∧ (c.mask = 0 → ∃ t, exec (.drop ⟨ofDie, unit, line⟩) s = .next t ∧ copyOf t q coh line = none ∧ SameMemory s t
        ∧ t.ctxs = s.ctxs))
  ∧ (∀ (q line : Nat) (s : State), Sparse.wf Quire.reset s.quires = true →
      let mine := (s.quire q).pend.filter fun p => lineOf p.pa == line
      mine ≠ [] →
      ∃ t, exec (.writeQueueDrain q line) s = .next t ∧ HomesOnly s t ∧ NonePending t line
        ∧ ((∀ k, k ≠ q → ∀ p ∈ (s.quire k).pend, lineOf p.pa ≠ line) → (∀ p ∈ mine, poisoned s p.pa (szBytes p.sz) = false) →
            ∀ a, Memory.read t.mem a = Memory.read (mine.foldl reduced s.mem) a))

/-- R326, R327: PAGE_WALK makes a walk for a context of the core that has no cached leaf; contexts, the front end and, with
no reduction pending on a table's line, memory stay. It is made where nothing holds a read of a table back. -/
def Sys2Proof.Claims.PageWalkEvent : Prop :=
  ∀ (core asid i : Nat) (va : BitVec 56) (s : State), i < 16 → (s.ctx (16 * core + i)).run = .running →
    asidOf s (16 * core + i) = some asid → (s.core core).tlb.find? (tlbHit asid va.toNat) = none →
    (s.quire (quireOfCore core)).tlb.find? (tlbHit asid va.toNat) = none →
    (∀ t, exec (.pageWalk core asid va) s = .next t → HomesOnly s t ∧ ((∀ l, NonePending s l) → SameMemory s t))
    ∧ ((∀ l, leaseOn s l = none) → s.releases = [] → s.front.zeroing = [] → ∃ t, exec (.pageWalk core asid va) s = .next t)

/-! ### Accesses -/

/-- Resolving an access walks page tables at their Homes and changes nothing else; no byte of memory changes where no
reduction is pending (R326, R327). -/
def Sys2Proof.Claims.ResolveFrame : Prop :=
  ∀ (s s1 : State) (w : Who) (a : Word) (n : Nat) (acc : Acc) (r : Except Stop Found), resolveAccess s w a n acc = (s1, r) →
    HomesOnly s s1 ∧ ((∀ l, NonePending s l) → SameMemory s s1)

/-- An access placed in the Issue Port: nothing but the current context has changed since it was resolved. -/
def Sys2Proof.Claims.Placed (s1 t : State) (p : Port) : Prop :=
  here t = { here s1 with port := some p, wait := .port } ∧ SameElsewhere s1 t ∧ OthersSame s1 t

/-- R148, R176: an access of `size` bytes at `ea`. A misaligned one is an ALIGN trap; a trap that Resolve raises is taken
with no event performed; where a walk must wait, the context waits outside the rotation; otherwise the context leaves the
rotation with one event for each granule piece in its Issue Port, each doing `op` of its offset and length. What resolving
changes, ResolveFrame says. -/
def Sys2Proof.Claims.Places (i : Instr) (s : State) (ea : Word) (size align : Nat) (acc : Acc) (op : Nat → Nat → GOp)
    (fin : PortDone) : Prop :=
  ((ea.setWidth 56).toNat % align ≠ 0 → Traps i s ⟨.align, ea, acc, 0⟩)
  ∧ ((ea.setWidth 56).toNat % align = 0 → ∀ s1 r, resolveAccess s (whoIs s s.cur) ea size acc = (s1, r) →
      (∀ x, r = .error (some x) → exec i s = .next (takeTrap s1 s.cur x))
      ∧ (r = .error none → ∃ t, exec i s = .next t ∧ here t = { here s1 with wait := .retest } ∧ SameElsewhere s1 t
          ∧ OthersSame s1 t)
      ∧ (∀ ps, r = .ok (.pieces ps) →
          ∃ t p, exec i s = .next t ∧ Placed s1 t p
            ∧ p.evs.map (fun e => (e.pa, e.len, e.op)) =
                (cutAccess acc 0 ps).map (fun c => (c.2.2.pa, c.2.1, op c.1 c.2.1))
            ∧ (∀ e ∈ p.evs, e.acc = acc) ∧ p.fin = fin ∧ p.got = [] ∧ p.remote = none ∧ p.sent = false ∧ p.len = i.bytes))

/-- R178, R180 to R182, R184: LD, LDX, ST, LDP and STP place their accesses, with no alignment asked; an odd register of a
pair is an OPERAND trap; PREF does nothing but retire. -/
def Sys2Proof.Claims.LoadsAndStoresPlace : Prop :=
  ∀ (g : Guard) (sz : Sz) (po : Pol) (rd : Reg) (a : Addr) (s : State), Issues g s →
    let ea := effective (here s) a
    let n := szBytes sz
    let v := (here s).reg rd
    let pair := (here s).reg (rd + 1) ++ v
    let put := fun (k : Nat) (x : Nat) (off len : Nat) => GOp.write (((toBytes k x).drop off).take len)
    Places (.ld g sz po rd a) s ea n 1 .read (fun _ _ => .read) (.load rd false)
    ∧ Places (.ldx g sz po rd a) s ea n 1 .read (fun _ _ => .read) (.load rd true)
    ∧ Places (.st g sz po rd a) s ea n 1 .write (put n v.toNat) .store
    ∧ (rd.toNat % 2 = 0 → Places (.ldp g po rd a) s ea 16 1 .read (fun _ _ => .read) (.loadPair rd)
        ∧ Places (.stp g po rd a) s ea 16 1 .write (put 16 pair.toNat) .store)
    ∧ (rd.toNat % 2 = 1 → TrapsWith (.ldp g po rd a) s .operand ∧ TrapsWith (.stp g po rd a) s .operand)
    ∧ ∃ t, exec (.pref g po a) s = .next t ∧ Retires s t (here s) (Instr.pref g po a).bytes

/-- R178, R185 to R190: WAITLINE and the atomics place naturally aligned accesses, with their operands read at issue. -/
def Sys2Proof.Claims.AtomicsPlace : Prop :=
  ∀ (g : Guard) (op : AtomOp) (sz : Sz) (sc : Scope) (po : Pol) (rd rc rb : Reg) (pd : Pred) (a : Addr) (s : State),
    Issues g s →
    let ea := effective (here s) a
    let n := szBytes sz
    let low := fun (r : Reg) => ((here s).reg r).toNat % 2 ^ (8 * n)
    let pair := fun (r : Reg) => ((here s).reg (r + 1) ++ (here s).reg r).toNat
    Places (.waitline g sz po rd pd rc a) s ea n n .read (fun _ _ => .read) (.waitline rd pd (low rc) s.cyc)
    ∧ Places (.atom g op sz sc po rd rc a) s ea n n .atomic (fun _ _ => .rmw op sz (low rc)) (.atom rd)
    ∧ Places (.cas g sz sc po rd pd rc rb a) s ea n n .atomic (fun _ _ => .cas (low rc) (low rb)) (.cas rd pd (low rc))
    ∧ Places (.red g op sz sc po rc a) s ea n n .reduce (fun _ _ => .rmw op sz (low rc)) .red
    ∧ (rd.toNat % 2 = 0 ∧ rc.toNat % 2 = 0 ∧ rb.toNat % 2 = 0 →
        Places (.cas2 g sc po rd pd rc rb a) s ea 16 16 .atomic (fun _ _ => .cas (pair rc) (pair rb))
          (.cas2 rd pd (pair rc)))
    ∧ (rd.toNat % 2 = 1 ∨ rc.toNat % 2 = 1 ∨ rb.toNat % 2 = 1 → TrapsWith (.cas2 g sc po rd pd rc rb a) s .operand)

/-- R193, R196, R198, R199: LEASE places one event on its whole line; FENCE waits in the Issue Port; BAR.ARRIVE and
BAR.WAIT place 8-byte accesses on COHERENT device memory and trap with OPERAND on another page. -/
def Sys2Proof.Claims.SynchronisationPlaces : Prop :=
  ∀ (g : Guard) (sc : Scope) (rd : Reg) (pd : Pred) (n : BitVec 4) (a : Addr) (s : State), Issues g s →
    let ea := effective (here s) a
    let off := (ea.setWidth 56).toNat
    let found := fun (size : Nat) (acc : Acc) (s1 : State) (ps : List (Nat × List Loc)) =>
      resolveAccess s (whoIs s s.cur) ea size acc = (s1, .ok (.pieces ps))
    let good := fun (ps : List (Nat × List Loc)) (acc : Acc) =>
      ∀ c ∈ cutAccess acc 0 ps, c.2.2.coh = .coherent ∧ rangeIsHost c.2.2.pa = false
    (∀ s1 ps, found 1 .lease s1 ps →
      ∃ t p, exec (.lease g pd n a) s = .next t ∧ Placed s1 t p ∧ p.fin = .lease pd
        ∧ p.evs.map (fun e => (e.pa, e.len, e.op)) =
            (cutAccess .lease 0 ps).map fun c => (c.2.2.pa / 128 * 128, 128, .lease (n.toNat + 1)))
    ∧ (∃ t p, exec (.fence g sc) s = .next t ∧ Placed s t p ∧ p.fin = .fence
        ∧ p.evs.map (·.op) = [.fence sc] ∧ p.sent = false ∧ p.remote = none ∧ p.len = 8)
    ∧ (off % 8 = 0 → ∀ s1 ps, found 8 .atomic s1 ps →
        (good ps .atomic → ∃ t p, exec (.barArrive g rd a) s = .next t ∧ Placed s1 t p ∧ p.fin = .barArrive rd
          ∧ p.evs.map (·.op) = (cutAccess .atomic 0 ps).map fun _ => .barArrive)
        ∧ (¬ good ps .atomic → ∃ x : Trap, x.cause = .operand ∧ x.info = ea
            ∧ exec (.barArrive g rd a) s = .next (takeTrap s1 s.cur x)))
    ∧ (off % 8 = 0 → ∀ s1 ps, found 8 .read s1 ps →
        (good ps .read → ∃ t p, exec (.barWait g rd a) s = .next t ∧ Placed s1 t p
          ∧ p.fin = .barWait (((here s).reg rd).extractLsb' 32 32)
          ∧ p.evs.map (·.op) = (cutAccess .read 0 ps).map fun _ => .read)
        ∧ (¬ good ps .read → ∃ x : Trap, x.cause = .operand ∧ x.info = ea
            ∧ exec (.barWait g rd a) s = .next (takeTrap s1 s.cur x)))

/-- The context at `pos` has `ev` as the next event of its Issue Port, `rest` after it, to be performed on this device. -/
def Sys2Proof.Claims.HasEvent (s : State) (pos : Nat) (p : Port) (ev : GEv) (rest : List GEv) : Prop :=
  (s.ctx pos).run = .running ∧ (s.ctx pos).wait = .port ∧ (s.ctx pos).port = some p ∧ p.evs = ev :: rest
    ∧ p.sent = false ∧ p.remote = none

/-- Nothing makes the event wait or fail: no queue behind a lease, no watermark, busy granule, flush or unsecured host link,
no store that it has to see first, and no cut link. -/
def Sys2Proof.Claims.Unhindered (s : State) (pos : Nat) (ev : GEv) : Prop :=
  heldBack s (doerOf s pos) (lineOf ev.pa) = false ∧ mustWait s (doerOf s pos) ev.pa ev.len ev.coh = false
    ∧ unseenStore s (doerOf s pos) ev = false ∧ linkCut s (quireOf pos) ev.pa = false

/-- The event's place is the Home, its line is not leased and has no reduction pending, and a request for the line of a
COHERENT page can be taken by its Order Point. -/
def Sys2Proof.Claims.AtHome (s : State) (pos : Nat) (ev : GEv) : Prop :=
  Unhindered s pos ev ∧ placeOf (doerOf s pos) ev = .home ∧ leaseOn s (lineOf ev.pa) = none ∧ NonePending s (lineOf ev.pa)
    ∧ (ev.coh = .uncached ∨ (orderTake s (doerOf s pos) (kindOf ev.op) (lineOf ev.pa)).isSome = true)

/-- The context at `pos` as it leaves the Issue Port past its instruction of `len` bytes. -/
def Sys2Proof.Claims.leavesPort (c : Ctx) (len : Nat) : Ctx :=
  { c with pc := c.pc + BitVec.ofNat 56 len, port := none, wait := .none, refused := 0 }

/-- R147, R150, R180, R182: a load's event at the Home returns the bytes there, zero- or sign-extended, retires the
instruction and changes no byte. -/
def Sys2Proof.Claims.LoadPerforms : Prop :=
  ∀ (s : State) (pos : Nat) (p : Port) (ev : GEv), HasEvent s pos p ev [] → AtHome s pos ev → ev.op = .read → p.got = [] →
    poisoned s ev.pa ev.len = false →
    let x := ofBytes (Memory.readBytes s.mem ev.pa ev.len)
    let done := fun (c : Ctx) => ∃ t, exec (.granuleEventPerform pos) s = .next t ∧ t.ctx pos = leavesPort c p.len
      ∧ SameMemory s t ∧ (∀ k, k ≠ pos → t.ctx k = s.ctx k)
    (∀ rd, p.fin = .load rd false → done ((s.ctx pos).setReg rd (BitVec.ofNat 64 x)))
    ∧ (∀ rd, p.fin = .load rd true → 1 ≤ ev.len → ev.len ≤ 8 →
        done ((s.ctx pos).setReg rd ((BitVec.ofNat (8 * ev.len) x).signExtend 64)))
    ∧ (∀ rd, p.fin = .loadPair rd →
        done (((s.ctx pos).setReg rd (BitVec.ofNat 64 x)).setReg (rd + 1) (BitVec.ofNat 64 (x / 2 ^ 64))))

/-- The bytes of memory after exactly `d` has been written at `pa`. -/
def Sys2Proof.Claims.Stored (s t : State) (pa : Nat) (d : List Byte) : Prop :=
  ∀ a, Memory.read t.mem a = if pa ≤ a ∧ a < pa + d.length then d.getD (a - pa) 0 else Memory.read s.mem a

/-- R147, R150, R181: a store's event at the Home writes exactly its bytes at its address and retires the instruction. -/
def Sys2Proof.Claims.StorePerforms : Prop :=
  ∀ (s : State) (pos : Nat) (p : Port) (ev : GEv) (d : List Byte), HasEvent s pos p ev [] → AtHome s pos ev →
    ev.op = .write d → p.fin = .store →
    ∃ t, exec (.granuleEventPerform pos) s = .next t ∧ t.ctx pos = leavesPort (s.ctx pos) p.len
      ∧ Stored s t ev.pa d ∧ OthersRoused s t pos

/-- R148: of an access of several events, one is performed in a move: a read's bytes are kept, a write's are in memory, and
the others follow; the instruction is not retired. -/
def Sys2Proof.Claims.EventsInTurn : Prop :=
  ∀ (s : State) (pos : Nat) (p : Port) (ev next : GEv) (rest : List GEv), HasEvent s pos p ev (next :: rest) →
    AtHome s pos ev → (∀ k, p.fin ≠ .barWait k) → (∀ rd pd c x, p.fin ≠ .waitline rd pd c x) →
    let left := fun (got : List Byte) => { s.ctx pos with port := some { p with evs := next :: rest, got := p.got ++ got } }
    (ev.op = .read → poisoned s ev.pa ev.len = false → ∃ t, exec (.granuleEventPerform pos) s = .next t ∧ SameMemory s t
      ∧ t.ctx pos = left (Memory.readBytes s.mem ev.pa ev.len) ∧ ∀ k, k ≠ pos → t.ctx k = s.ctx k)
    ∧ (∀ d, ev.op = .write d → ∃ t, exec (.granuleEventPerform pos) s = .next t ∧ Stored s t ev.pa d
      ∧ t.ctx pos = left [] ∧ OthersRoused s t pos)

/-- R187: what an atomic makes of the old value `x` and the operand `y` of `w` bits. -/
def Sys2Proof.Claims.combine (op : AtomOp) {w : Nat} (x y : BitVec w) : BitVec w :=
  match op with
  | .add => x + y | .and => x &&& y | .or => x ||| y | .xor => x ^^^ y
  | .minS => if x.toInt ≤ y.toInt then x else y | .maxS => if x.toInt ≤ y.toInt then y else x
  | .minN => if x.toNat ≤ y.toNat then x else y | .maxN => if x.toNat ≤ y.toNat then y else x
  | .swap | .addF => y

/-- The bytes at an event's place become the number `v`, every other byte of memory stays. -/
def Sys2Proof.Claims.Becomes (s t : State) (ev : GEv) (v : Nat) : Prop :=
  ofBytes (Memory.readBytes t.mem ev.pa ev.len) = v
    ∧ ∀ a, a < ev.pa ∨ ev.pa + ev.len ≤ a → Memory.read t.mem a = Memory.read s.mem a

/-- R147, R152, R186 to R191: ATOM, CAS, CAS2 and RED at the Home read the old value, write the new one in the same move,
and return the old value zero-extended; CAS and CAS2 write only where the old value equals the compare value, and the
predicate tells. A floating sum is RoundTo of the exact sum to nearest even, with no flag collected. -/
def Sys2Proof.Claims.AtomicPerforms : Prop :=
  ∀ (s : State) (pos : Nat) (p : Port) (ev : GEv) (rd : Reg) (pd : Pred), HasEvent s pos p ev [] → AtHome s pos ev →
    p.got = [] → poisoned s ev.pa ev.len = false →
    let c := s.ctx pos
    let done := fun (c' : Ctx) (v : Nat) => ∃ t, exec (.granuleEventPerform pos) s = .next t
      ∧ t.ctx pos = leavesPort c' p.len ∧ Becomes s t ev v ∧ OthersRoused s t pos
    (∀ sz : Sz, ev.len = szBytes sz →
      let w := 8 * szBytes sz
      let x := BitVec.ofNat w (ofBytes (Memory.readBytes s.mem ev.pa ev.len))
      (∀ op (y : BitVec w), op ≠ .addF → ev.op = .rmw op sz y.toNat → isQueued ev = false →
        (p.fin = .atom rd → done (c.setReg rd (x.setWidth 64)) (combine op x y).toNat)
        ∧ (p.fin = .red → done c (combine op x y).toNat))
      ∧ (∀ (f : Fmt) (y : BitVec w), (sz = .b32 ∧ f = .f32) ∨ (sz = .b64 ∧ f = .f64) → ev.op = .rmw .addF sz y.toNat →
          isQueued ev = false →
          let v := (roundTo f ⟨(addVal rmRNE (floatVal f x.toNat) (floatVal f y.toNat)).1, false⟩ ⟨rmRNE, false, false, 0⟩).1
          (p.fin = .atom rd → done (c.setReg rd (x.setWidth 64)) (BitVec.ofNat w v).toNat)
          ∧ (p.fin = .red → done c (BitVec.ofNat w v).toNat))
      ∧ (∀ e n : BitVec w, ev.op = .cas e.toNat n.toNat → p.fin = .cas rd pd e.toNat →
          done ((c.setReg rd (x.setWidth 64)).setPred pd (x == e)) (if x = e then n else x).toNat))
    ∧ (ev.len = 16 → ∀ e n : BitVec 128, ev.op = .cas e.toNat n.toNat → p.fin = .cas2 rd pd e.toNat →
        let x := BitVec.ofNat 128 (ofBytes (Memory.readBytes s.mem ev.pa ev.len))
        done (((c.setReg rd (x.setWidth 64)).setReg (rd + 1) (x.extractLsb' 64 64)).setPred pd (x == e))
          (if x = e then n else x).toNat)

/-- R186, R191: a RED at scope .Q on a COHERENT page of device memory is performed as it enters the Write Queue entry of
its line: the instruction retires, the reduction is pending behind those of its entry, and memory is as before. With no entry
free it waits. -/
def Sys2Proof.Claims.QueuedReduction : Prop :=
  ∀ (s : State) (pos : Nat) (p : Port) (ev : GEv) (op : AtomOp) (sz : Sz) (v : Nat), HasEvent s pos p ev [] →
    Unhindered s pos ev → leaseOn s (lineOf ev.pa) = none → ev.op = .rmw op sz v → isQueued ev = true → p.fin = .red →
    poisoned s ev.pa ev.len = false →
    let q := quireOf pos
    let entry := ∃ x ∈ (s.quire q).pend, lineOf x.pa = lineOf ev.pa
    (entry ∨ (NonePending s (lineOf ev.pa) ∧ queueUse s q < 64) → ∃ t, exec (.granuleEventPerform pos) s = .next t ∧ SameMemory s t
      ∧ t.ctx pos = leavesPort (s.ctx pos) p.len ∧ (∀ k, k ≠ pos → t.ctx k = s.ctx k)
      ∧ (t.quire q).pend = (s.quire q).pend ++ [⟨ev.pa, op, sz, v, ev.coh, (s.ctx pos).task⟩])
    ∧ (¬ entry → 64 ≤ queueUse s q → ∃ w, exec (.granuleEventPerform pos) s = .fault (.notEnabled w))

/-- R185, R198, R199, R208: BAR.ARRIVE at the Home counts an arrival, or completes the phase, and returns the old word; an
EXP of 0 is an OPERAND trap and writes nothing. BAR.WAIT goes on where the generation is not the ticket's, WAITLINE where the
value is another or 65,536 cycles have passed, and else waits outside the rotation. The last event of DKLD puts a valid
record into the deckle table, and an invalid one is an OPERAND trap. -/
def Sys2Proof.Claims.SynchronisationPerforms : Prop :=
  ∀ (s : State) (pos : Nat) (p : Port) (ev : GEv) (rd : Reg) (pd : Pred), HasEvent s pos p ev [] → AtHome s pos ev →
    poisoned s ev.pa ev.len = false →
    let c := s.ctx pos
    let bytes := Memory.readBytes s.mem ev.pa ev.len
    let x : Word := BitVec.ofNat 64 (ofBytes bytes)
    let goes := fun (c' : Ctx) => ∃ t, exec (.granuleEventPerform pos) s = .next t ∧ SameMemory s t ∧ t.ctx pos = c'
      ∧ ∀ k, k ≠ pos → t.ctx k = s.ctx k
    (ev.op = .barArrive → ev.len = 8 → p.fin = .barArrive rd → p.got = [] →
      let cnt := x.extractLsb' 0 16
      let exp := x.extractLsb' 16 16
      let gen := x.extractLsb' 32 32
      (exp ≠ 0 → ∃ t, exec (.granuleEventPerform pos) s = .next t ∧ t.ctx pos = leavesPort (c.setReg rd x) p.len
        ∧ OthersRoused s t pos
        ∧ Becomes s t ev (if exp.toNat ≤ cnt.toNat + 1 then (gen + 1) ++ exp ++ (0 : BitVec 16)
            else gen ++ exp ++ (cnt + 1)).toNat)
      ∧ (exp = 0 → ∃ s1 y, exec (.granuleEventPerform pos) s = .next (takeTrap s1 pos y) ∧ SameMemory s s1
          ∧ y.cause = .operand ∧ y.info = ev.addr))
    ∧ (ev.op = .read → ev.len = 8 → p.got = [] → ∀ ticket, p.fin = .barWait ticket →
        (x.extractLsb' 32 32 ≠ ticket → goes (leavesPort c p.len))
        ∧ (x.extractLsb' 32 32 = ticket → goes { c with wait := .barWait s.cyc false }))
    ∧ (ev.op = .read → p.got = [] → ∀ cmp since, p.fin = .waitline rd pd cmp since →
        (ofBytes bytes ≠ cmp → goes (leavesPort ((c.setReg rd x).setPred pd true) p.len))
        ∧ (ofBytes bytes = cmp → since + 65536 ≤ s.cyc → goes (leavesPort ((c.setReg rd x).setPred pd false) p.len))
        ∧ (ofBytes bytes = cmp → s.cyc < since + 65536 → goes { c with wait := .waitline s.cyc false }))
    ∧ (ev.op = .read → ∀ dn, p.fin = .dkld dn →
        let r : DkRec := BitVec.ofNat 512 (ofBytes (p.got ++ bytes))
        (dkOk r = true → ∃ t, exec (.granuleEventPerform pos) s = .next t ∧ SameMemory s t
          ∧ t.ctx pos = leavesPort c p.len ∧ deckleAt t (quireOf pos) dn = r
          ∧ ∀ k, k ≠ dn → deckleAt t (quireOf pos) k = deckleAt s (quireOf pos) k)
        ∧ (dkOk r = false → ∃ s1 y, exec (.granuleEventPerform pos) s = .next (takeTrap s1 pos y) ∧ SameMemory s s1
            ∧ y.cause = .operand))

/-- R154, R155: on a SCOPED page a context's load and store are performed on its quire's or its die's copy, which a Fill makes
of the Home's bytes where it is absent; a store's bytes stand there masked, and no byte of memory changes. -/
def Sys2Proof.Claims.CopyPerforms : Prop :=
  ∀ (s : State) (pos : Nat) (p : Port) (ev : GEv), HasEvent s pos p ev [] → Unhindered s pos ev →
    placeOf (doerOf s pos) ev = .copy → leaseOn s (lineOf ev.pa) = none → NonePending s (lineOf ev.pa) → ev.pa % 128 + ev.len ≤ 128 → p.got = [] →
    let q := quireOf pos
    let line := lineOf ev.pa
    let off := ev.pa % 128
    let old := fun (i : Nat) => match copyOf s q ev.coh line with
      | some c => (c.data.getD i 0, c.mask.testBit i)
      | none => (Memory.read s.mem (128 * line + i), false)
    (match copyOf s q ev.coh line with
      | some c => c.poison = 0 ∧ c.data.length = 128
      | none => (copyRoom s (doerOf s pos) ev.coh line).1 = true ∧ poisoned s (128 * line) 128 = false) →
    let done := fun (c' : Ctx) (new : Nat → Byte × Bool) => ∃ t c, exec (.granuleEventPerform pos) s = .next t
      ∧ t.ctx pos = leavesPort c' p.len ∧ SameMemory s t ∧ OthersRoused s t pos ∧ copyOf t q ev.coh line = some c
      ∧ ∀ i, i < 128 → (c.data.getD i 0, c.mask.testBit i) = new i
    (∀ rd, ev.op = .read → p.fin = .load rd false →
      done ((s.ctx pos).setReg rd (BitVec.ofNat 64 (ofBytes ((List.range ev.len).map fun i => (old (off + i)).1)))) old)
    ∧ (∀ d, ev.op = .write d → d.length = ev.len → p.fin = .store →
        done (s.ctx pos) fun i => if off ≤ i ∧ i < off + ev.len then (d.getD (i - off) 0, true) else old i)

/-- R159 to R163, R194: a LEASE that neither fails nor waits is granted: the entry stands in the core, LC rises by 1
and the predicate is 1; one that fails sets the predicate to 0 at once. LEND writes the held bytes of every lease of the
thread at the Homes, ends its leases, LC reads 0 and the predicate is 1; it waits while a held line's granule is zeroed; with
no lease it sets the predicate to 0 only. A lease that has come to its end breaks, and LB is set. -/
def Sys2Proof.Claims.LeasesBeginAndEnd : Prop :=
  (∀ (s : State) (pos n : Nat) (p : Port) (ev : GEv) (pd : Pred), HasEvent s pos p ev [] → ev.op = .lease n →
    p.fin = .lease pd → p.got = [] →
    (AtHome s pos ev → leaseFails s pos ev = false → stLC (s.ctx pos).st ≤ 1 →
      ∃ t, exec (.granuleEventPerform pos) s = .next t ∧ SameMemory s t
        ∧ (∃ l, (t.core (coreOf pos)).leases = (s.core (coreOf pos)).leases ++ [l] ∧ l.owner = pos ∧ l.line = lineOf ev.pa
            ∧ l.grant = s.cyc ∧ l.n = n ∧ l.mask = 0)
        ∧ stLC (t.ctx pos).st = stLC (s.ctx pos).st + 1 ∧ (pd ≠ 0 → predOf (t.ctx pos).st pd = true)
        ∧ (t.ctx pos).pc = (s.ctx pos).pc + BitVec.ofNat 56 p.len ∧ (t.ctx pos).wait = .none)
    ∧ (leaseFails s pos ev = true → inQueue s (.ctx pos) (lineOf ev.pa) = false →
        ∃ t, exec (.granuleEventPerform pos) s = .next t ∧ SameElsewhere s t ∧ (∀ k, k ≠ pos → t.ctx k = s.ctx k)
          ∧ t.ctx pos = leavesPort ((s.ctx pos).setPred pd false) p.len))
  ∧ (∀ (g : Guard) (pd : Pred) (s : State), Issues g s →
      let mine := fun (l : Lease) => l ∈ (s.core (coreOf s.cur)).leases ∧ l.owner = s.cur
      (stLC (here s).st = 0 → WritesPred (.lend g pd) s pd false)
      ∧ (stLC (here s).st ≠ 0 → (∀ l, mine l → granuleBusy s (128 * l.line) = false) →
          ∃ t, exec (.lend g pd) s = .next t ∧ stLC (here t).st = 0
            ∧ (∀ l ∈ (t.core (coreOf s.cur)).leases, l.owner ≠ s.cur) ∧ (pd ≠ 0 → predOf (here t).st pd = true)
            ∧ (here t).pc = (here s).pc + 8 ∧ (here t).g = (here s).g ∧ OthersRoused s t s.cur
            ∧ ((∀ l, mine l → NonePending s l.line ∧ ∀ k, mine k → k.line = l.line → k = l) →
                (∀ l, mine l → ∀ i, i < 128 → Memory.read t.mem (128 * l.line + i) =
                  if l.mask.testBit i then l.data.getD i 0 else Memory.read s.mem (128 * l.line + i))
                ∧ ∀ a, (∀ l, mine l → a / 128 ≠ l.line) → Memory.read t.mem a = Memory.read s.mem a))
      ∧ (stLC (here s).st ≠ 0 → (∃ l, mine l ∧ granuleBusy s (128 * l.line) = true) →
          ∃ t, exec (.lend g pd) s = .next t ∧ here t = { here s with wait := .retest } ∧ OthersSame s t
            ∧ SameElsewhere s t))
  ∧ (∀ (s : State) (pos : Nat) (l : Lease), l ∈ (s.core (coreOf pos)).leases → l.owner = pos → l.grant + 64 * l.n ≤ s.cyc →
      ∃ t, exec (.leaseExpiry pos) s = .next t ∧ (∀ x ∈ (t.core (coreOf pos)).leases, x.owner ≠ pos) ∧ SameMemory s t
        ∧ stLC (t.ctx pos).st = 0 ∧ (t.ctx pos).st.getLsbD 29 = true ∧ (t.ctx pos).g = (s.ctx pos).g
        ∧ ∀ k, k ≠ pos → t.ctx k = s.ctx k)

/-- R161, R195: on a line that its own thread leases, a load reads the Home's bytes overlaid with the held ones, and a store's
bytes are held in the lease, memory unchanged; the event of another thread waits, with memory and every context as they
were. -/
def Sys2Proof.Claims.LeasedLine : Prop :=
  ∀ (s : State) (pos : Nat) (p : Port) (ev : GEv) (rest : List GEv) (l : Lease), HasEvent s pos p ev rest →
    leaseOn s (lineOf ev.pa) = some l →
    (l.owner = pos → rest = [] → Unhindered s pos ev → NonePending s (lineOf ev.pa) → l ∈ (s.core (coreOf pos)).leases → l.data.length = 128 →
      p.got = [] → ev.pa % 128 + ev.len ≤ 128 →
      (∀ rd, ev.op = .read → p.fin = .load rd false → poisoned s ev.pa ev.len = false →
        let byte := fun (i : Nat) => if l.mask.testBit (ev.pa % 128 + i) then l.data.getD (ev.pa % 128 + i) 0
          else Memory.read s.mem (ev.pa + i)
        ∃ t, exec (.granuleEventPerform pos) s = .next t ∧ SameMemory s t ∧ (∀ k, k ≠ pos → t.ctx k = s.ctx k)
          ∧ t.ctx pos = leavesPort ((s.ctx pos).setReg rd
              (BitVec.ofNat 64 (ofBytes ((List.range ev.len).map byte)))) p.len)
      ∧ (∀ d, ev.op = .write d → d.length = ev.len → p.fin = .store →
          ∃ t l', exec (.granuleEventPerform pos) s = .next t ∧ SameMemory s t ∧ (∀ k, k ≠ pos → t.ctx k = s.ctx k)
            ∧ t.ctx pos = leavesPort (s.ctx pos) p.len ∧ l' ∈ (t.core (coreOf pos)).leases ∧ l'.owner = pos
            ∧ l'.line = l.line ∧ l'.grant = l.grant ∧ l'.n = l.n
            ∧ ∀ i, i < 128 → (l'.data.getD i 0, l'.mask.testBit i) =
                if ev.pa % 128 ≤ i ∧ i < ev.pa % 128 + ev.len then (d.getD (i - ev.pa % 128) 0, true)
                else (l.data.getD i 0, l.mask.testBit i)))
    ∧ (l.owner ≠ pos → (∀ n, ev.op ≠ .lease n) → (∀ sc, ev.op ≠ .fence sc) →
        (∃ w, exec (.granuleEventPerform pos) s = .fault (.notEnabled w))
        ∨ ∃ t, exec (.granuleEventPerform pos) s = .next t ∧ SameMemory s t ∧ t.ctxs = s.ctxs)

def Obligations.Leases : Prop := LeasesBeginAndEnd ∧ LeasedLine

/-- R157, R172: a FENCE completes once no copy that its scope asks for remains, and FENCE.S once the Host Port holds no posted
write of the thread; until then its event is no move. -/
def Sys2Proof.Claims.FenceCompletes : Prop :=
  ∀ (s : State) (pos : Nat) (p : Port) (ev : GEv) (sc : Scope), HasEvent s pos p ev [] → ev.op = .fence sc → p.fin = .fence →
    let posted := ∃ r ∈ s.dev.hostQ, (∃ d, r.op = .write d) ∧ r.gen = (s.ctx pos).slotgen
      ∧ (r.by_ = .ctx pos ∨ r.by_ = .ownRacc pos)
    (fenceCopies s pos sc = [] ∧ (sc = .s → ¬ posted) →
      ∃ t, exec (.granuleEventPerform pos) s = .next t ∧ SameElsewhere s t ∧ t.ctx pos = leavesPort (s.ctx pos) p.len)
    ∧ (¬ (fenceCopies s pos sc = [] ∧ (sc = .s → ¬ posted)) →
        ∃ w, exec (.granuleEventPerform pos) s = .fault (.notEnabled w))

/-- A remote access is sent for the context's next event: over the die links where the home is this device, else as one RACC
packet; with no way to the home it is a LINK trap (R348, R354). -/
def Sys2Proof.Claims.Asks (s t : State) (pos : Nat) (p : Port) (ev : GEv) (dev : Nat) : Prop :=
  let sends := t.ctx pos = { s.ctx pos with port := some { p with sent := true }, wait := .port }
    ∧ (∀ k, k ≠ pos → t.ctx k = s.ctx k) ∧ SameMemory s t
  (dev = myDev s → sends ∧ t.fabric = s.fabric)
  ∧ (dev ≠ myDev s → reachable s (partOf s pos) dev = true → NumbersFresh s → dev < 1024 → sends
      ∧ ∃ o, t.fabric.out = s.fabric.out ++ [o] ∧ o.pkt.typ = 5 ∧ o.pkt.dst.toNat = dev ∧ o.pkt.payload = raccPayload p ev
        ∧ o.pkt.arg.toNat = slotTag s pos ∧ o.pos = some pos)
  ∧ (dev ≠ myDev s → reachable s (partOf s pos) dev = false → t = takeTrap s pos (linkTrap ev))

/-- R173, R185, R199: a waiting WAITLINE reads again on a wake or after 1,024 cycles; BAR.WAIT on a wake; over the fabric
either sends its remote access again 1,024 cycles after the last reply. -/
def Sys2Proof.Claims.WaitersReadAgain : Prop :=
  ∀ (s : State) (pos since : Nat) (woken : Bool) (p : Port), (s.ctx pos).run = .running → (s.ctx pos).port = some p →
    let c := s.ctx pos
    let again := fun (i : Instr) => ∃ t, exec i s = .next t
      ∧ t.ctx pos = { c with wait := .port, wakeBy := none, port := some { p with since := s.cyc } }
      ∧ (∀ k, k ≠ pos → t.ctx k = s.ctx k) ∧ SameElsewhere s t
    (p.remote = none → c.wait = .waitline since woken → (woken = true ∨ since + 1024 ≤ s.cyc) → again (.waitlineReread pos))
    ∧ (p.remote = none → c.wait = .barWait since true → again (.barWaitWake pos))
    ∧ (∀ dev ev rest, p.remote = some dev → p.evs = ev :: rest → since + 1024 ≤ s.cyc →
        (c.wait = .waitline since woken → ∃ t, exec (.waitlineReread pos) s = .next t ∧ Asks s t pos p ev dev)
        ∧ (c.wait = .barWait since woken → ∃ t, exec (.barWaitRemoteReread pos) s = .next t ∧ Asks s t pos p ev dev))

/-- R150, R172, R183, R192: on a non-coherent PCIe mapping a context's store is accepted by the Host Port, behind all that it
holds, and the instruction retires; a load waits in the Issue Port for its completion; an atomic that no AtomicOp carries is a
TRANSLATION trap with subcode 1. No byte of memory changes. -/
def Sys2Proof.Claims.HostPortTakes : Prop :=
  ∀ (s : State) (pos : Nat) (p : Port) (ev : GEv), HasEvent s pos p ev [] → Unhindered s pos ev →
    placeOf (doerOf s pos) ev = .pcie → leaseOn s (lineOf ev.pa) = none →
    let asks := fun (t : State) (wait : Bool) => ∃ r, t.dev.hostQ = s.dev.hostQ ++ [r] ∧ r.by_ = .ctx pos
      ∧ r.gen = (s.ctx pos).slotgen ∧ r.pa = ev.pa ∧ r.len = ev.len ∧ r.op = ev.op ∧ r.wait = wait ∧ r.msi = none
    let goes := fun (c' : Ctx) (wait : Bool) => ∃ t, exec (.granuleEventPerform pos) s = .next t ∧ asks t wait
      ∧ SameMemory s t ∧ t.ctx pos = c' ∧ ∀ k, k ≠ pos → t.ctx k = s.ctx k
    (∀ d, ev.op = .write d → d ≠ [] → p.fin = .store → goes (leavesPort (s.ctx pos) p.len) false)
    ∧ (hostPending s (doerOf s pos) ev.pa = false →
        ev.op = .read ∨ (pcieAtomicOk ev.op = true ∧ pcieAtomicSize ev = true
          ∧ Sparse.get false s.dev.atomicEn (fnOf s (s.ctx pos).task (partOf s pos)) = true) →
        goes { s.ctx pos with port := some { p with sent := true } } true)
    ∧ (isAtomic ev.op = true → pcieAtomicOk ev.op = false →
        ∃ s1 x, exec (.granuleEventPerform pos) s = .next (takeTrap s1 pos x) ∧ SameMemory s s1 ∧ x.cause = .translation
          ∧ x.info = ev.addr ∧ x.sub = 1)

/-- R172, R183, R363, R364: HOST_PORT_SEND takes the oldest accepted request to the host, where a posted write changes exactly
its bytes and an MSI-X message is delivered; any other request waits there for its completion. -/
def Sys2Proof.Claims.HostPortSends : Prop :=
  ∀ (s : State) (r : HostReq) (rest : List HostReq), s.dev.hostQ = r :: rest → ideHolds s r.fn = false →
    ∃ t, exec .hostPortSend s = .next t ∧ t.dev.hostQ = rest ∧ t.ctxs = s.ctxs
      ∧ (∀ m, r.msi = some m → SameMemory s t ∧ t.dev.msix = s.dev.msix ++ [m] ∧ t.dev.hostSent = s.dev.hostSent)
      ∧ (r.msi = none → t.dev.msix = s.dev.msix
          ∧ (∀ d, r.op = .write d → Stored s t r.pa d ∧ t.dev.hostSent = s.dev.hostSent)
          ∧ ((∀ d, r.op ≠ .write d) → SameMemory s t ∧ t.dev.hostSent = s.dev.hostSent ++ [r]))

/-- R172, R192: PCIE_COMPLETION with status 0 performs a context's read or AtomicOp in the host's memory and brings it the
old bytes; another status is a TRANSLATION trap with the status in its record, memory as before; a thread that has gone
receives nothing. -/
def Sys2Proof.Claims.HostPortCompletes : Prop :=
  ∀ (s : State) (req pos : Nat) (p : Port) (ev : GEv) (r : HostReq) (rd : Reg) (st : BitVec 3),
    s.dev.hostSent.find? (fun x => x.id == req && x.wait) = some r → r.by_ = .ctx pos →
    (r.gen = (s.ctx pos).slotgen → (s.ctx pos).run = .running → (s.ctx pos).wait = .port → (s.ctx pos).port = some p →
      p.evs = [ev] → p.sent = true → p.remote = none → p.got = [] → r.op = ev.op → r.pa = ev.pa → r.len = ev.len →
      let c := s.ctx pos
      let x := ofBytes (Memory.readBytes s.mem ev.pa ev.len)
      (st = 0 → ev.op = .read → p.fin = .load rd false → ∃ t, exec (.pcieCompletion req st) s = .next t ∧ SameMemory s t
        ∧ t.ctx pos = leavesPort (c.setReg rd (BitVec.ofNat 64 x)) p.len ∧ ∀ k, k ≠ pos → t.ctx k = s.ctx k)
      ∧ (st = 0 → ∀ op sz (y : BitVec (8 * szBytes sz)), op ≠ .addF → ev.len = szBytes sz → ev.op = .rmw op sz y.toNat →
          p.fin = .atom rd → ∃ t, exec (.pcieCompletion req st) s = .next t
            ∧ Becomes s t ev (combine op (BitVec.ofNat (8 * szBytes sz) x) y).toNat
            ∧ t.ctx pos = leavesPort (c.setReg rd (BitVec.ofNat 64 x)) p.len ∧ ∀ k, k ≠ pos → t.ctx k = s.ctx k)
      ∧ (st ≠ 0 → (∀ v ∈ (s.core (coreOf pos)).vec, v.by_.pos ≠ pos) →
          ∃ s1 x, exec (.pcieCompletion req st) s = .next (takeTrap s1 pos x) ∧ x.cause = .translation ∧ x.info = r.addr
            ∧ x.sub = st.toNat ∧ s1.ctxs = s.ctxs ∧ s1.mem = s.mem))
    ∧ (r.gen ≠ (s.ctx pos).slotgen → ∃ t, exec (.pcieCompletion req st) s = .next t ∧ t.ctxs = s.ctxs
        ∧ (r.op = .read ∨ st ≠ 0 → SameMemory s t))

/-! ### Threads -/

/-- R270: SPAWN by the head starts a thread in a FREE context of its core, with g1 to g6, the levels, SEED, RM, FTZ and DAZ
of the spawner, and g[RD] ← 0; in a context that is not FREE it only writes 1; elsewhere, or with n = 0, it is an OPERAND
trap, and a misaligned entry an ALIGN trap. -/
def Sys2Proof.Claims.Spawn : Prop :=
  ∀ (g : Guard) (rd ra rb : Reg) (n : BitVec 4) (s : State), Issues g s →
    let p := s.cur / 16 * 16 + n.toNat
    let c := here s
    let i := Instr.spawn g rd n ra rb
    (s.cur % 16 = 0 → n ≠ 0 → c.reg ra &&& 3 = 0 →
      ((s.ctx p).run ≠ .free → Writes i s rd 1)
      ∧ ((s.ctx p).run = .free → ∃ t, exec i s = .next t
          ∧ here t = { c.setReg rd 0 with pc := c.pc + 8, refused := 0 }
          ∧ (let d := t.ctx p
             d.run = .running ∧ d.wait = .none ∧ d.pc = (c.reg ra).setWidth 56 ∧ d.wid = c.reg rb ∧ d.levels = c.levels
             ∧ d.seed = c.seed ∧ d.task = c.task ∧ d.slotgen = (s.ctx p).slotgen + 1
             ∧ (∀ r : Reg, d.reg r = if 1 ≤ r.toNat ∧ r.toNat ≤ 6 then c.reg r else 0)
             ∧ ∀ j, j < 64 → d.st.getLsbD j =
                 (j == 0 || ((j == 14 || j == 15 || j == 24 || j == 25 || j == 26) && c.st.getLsbD j)))
          ∧ (∀ k, k ≠ p → k ≠ s.cur → t.ctx k = s.ctx k) ∧ SameMemory s t ∧ t.front = s.front))
    ∧ (s.cur % 16 ≠ 0 ∨ n = 0 → Traps i s ⟨.operand, BitVec.ofNat 64 n.toNat, .none, 0⟩)
    ∧ (s.cur % 16 = 0 → n ≠ 0 → c.reg ra &&& 3 ≠ 0 → Traps i s ⟨.align, c.reg ra, .none, 0⟩)

/-- R271: REAP by the head writes the state of a context of its core and frees one that has HALTED; REAP.WAIT leaves the
rotation while the context runs; elsewhere it is an OPERAND trap. -/
def Sys2Proof.Claims.Reap : Prop :=
  ∀ (g : Guard) (rd : Reg) (n : BitVec 4) (wait : Bool) (s : State), Issues g s →
    let p := s.cur / 16 * 16 + n.toNat
    let d := s.ctx p
    let i := Instr.reap g rd n wait
    (s.cur % 16 = 0 → n ≠ 0 →
      (d.run = .free → Writes i s rd 0)
      ∧ ((d.run = .running ∨ d.run = .faulted) → wait = false → Writes i s rd 1)
      ∧ ((d.run = .running ∨ d.run = .faulted) → wait = true → ∃ t, exec i s = .next t ∧ SameElsewhere s t ∧ OthersSame s t
          ∧ here t = { here s with wait := .retest })
      ∧ (d.run = .halted → ∃ t, exec i s = .next t ∧ (t.ctx p).run = .free ∧ (t.ctx p).slotgen = d.slotgen
          ∧ here t = { (here s).setReg rd (if d.aborted then 3 else 2) with pc := (here s).pc + 8, refused := 0 }
          ∧ (∀ k, k ≠ p → k ≠ s.cur → t.ctx k = s.ctx k) ∧ SameMemory s t))
    ∧ (s.cur % 16 ≠ 0 ∨ n = 0 → TrapsWith i s .operand)

/-- R272: HALT ends the thread and its leases: HALTED, ended normally, in a slot of a task, else FREE. -/
def Sys2Proof.Claims.Halt : Prop :=
  ∀ (g : Guard) (s : State), Issues g s → ∃ t, exec (.halt g) s = .next t
    ∧ ((here s).task.isSome = true → (here t).run = .halted ∧ (here t).aborted = false ∧ (here t).g = (here s).g
        ∧ (here t).port = none ∧ (here t).wait = .none)
    ∧ ((here s).task = none → (here t).run = .free) ∧ (here t).slotgen = (here s).slotgen
    ∧ (∀ l ∈ (t.core (coreOf s.cur)).leases, l.owner ≠ s.cur) ∧ OthersSame s t ∧ SameMemory s t ∧ t.front = s.front

/-- R273: WFW writes 0 where the task has no further item, else waits, last in its task's order; it breaks every lease; in
a slot of no task it is an OPERAND trap. -/
def Sys2Proof.Claims.WaitForWork : Prop :=
  ∀ (g : Guard) (rd : Reg) (s : State), Issues g s →
    (∀ t, (here s).task.bind (taskOf s) = some t →
      ∃ u, exec (.wfw g rd) s = .next u ∧ (∀ l ∈ (u.core (coreOf s.cur)).leases, l.owner ≠ s.cur) ∧ SameMemory s u
        ∧ OthersSame s u
        ∧ (t.nextItem < t.endItem → (here u).wait = .wfw rd ∧ (here u).pc = (here s).pc ∧ (here u).g = (here s).g
            ∧ u.front.tasks = s.front.tasks.map fun v => if v.tag = t.tag then { t with wfw := t.wfw ++ [s.cur] } else v)
        ∧ (t.endItem ≤ t.nextItem → (here u).pc = (here s).pc + 8 ∧ u.front = s.front
            ∧ ∀ r, (here u).reg r = if r = rd then 0 else (here s).reg r))
    ∧ ((here s).task.bind (taskOf s) = none → TrapsWith (.wfw g rd) s .operand)

/-- R275: MIGR of a thread to a rank of the partition's map leaves the rotation for the migration, or, where the device
cannot be reached, writes 1 and goes on; in a head context, or with a rank that is not in the map, it is an OPERAND
trap. -/
def Obligations.Migrate : Prop :=
  ∀ (g : Guard) (rd ra : Reg) (q : BitVec 7) (named : Bool) (s : State), Issues g s →
    let r := ((here s).reg ra).toNat
    let i := Instr.migr g rd ra q named
    (∀ n dev, partOf s s.cur = some n → rankDev s n r = some dev → s.cur % 16 ≠ 0 →
      ∃ t, exec i s = .next t ∧ (∀ l ∈ (t.core (coreOf s.cur)).leases, l.owner ≠ s.cur) ∧ SameMemory s t ∧ OthersSame s t
        ∧ (dev = myDev s ∨ reachable s (some n) dev = true → ∃ m, (here t).wait = .migrate m ∧ m.dst = dev ∧ m.rank = r
            ∧ m.quire = (if named then some q.toNat else none) ∧ m.rd = some rd ∧ (here t).g = (here s).g
            ∧ (here t).pc = (here s).pc)
        ∧ (¬(dev = myDev s ∨ reachable s (some n) dev = true) → (here t).reg rd = 1 ∧ (here t).pc = (here s).pc + 8
            ∧ ∀ x, x ≠ rd → (here t).reg x = (here s).reg x))
    ∧ (s.cur % 16 = 0 ∨ 1024 ≤ r → TrapsWith i s .operand)

/-! ### Tiles and deckles -/

/-- Entry `h` of the tile table of quire `q` is `x` in `t`, and nothing else outside the contexts and counters differs. -/
def Sys2Proof.Claims.TileBecomes (s t : State) (q : Nat) (h : Handle) (x : Tile) : Prop :=
  tileAt t q h = x ∧ (∀ k, k ≠ h → tileAt t q k = tileAt s q k) ∧ SameButQuires s t ∧ (∀ k, k ≠ q → t.quire k = s.quire k)
    ∧ { t.quire q with tiles := (s.quire q).tiles } = s.quire q

/-- R203 to R206: TALLOC, TALLOC.READY and TALLOC.PROD make a tile entry or declare a producer slot where their conditions
hold, and are OPERAND traps elsewhere; TFREE returns a tile of the task, or waits while it is FILLING or DRAINING. -/
def Sys2Proof.Claims.TileTable : Prop :=
  ∀ (g : Guard) (ready : Bool) (td dk : Handle) (voff len : BitVec 16) (slot : BitVec 2) (rx : Reg) (s : State), Issues g s →
    let q := quireOf s.cur
    let x := tileAt s q td
    let w := (here s).reg rx
    let n := if len = 0 then 65536 else len.toNat
    let mine := (here s).task.isSome = true ∧ x.owner = (here s).task
    let fits := fun (t : Task) => x.owner = none ∧ dk.toNat < 64 ∧ t.region ≤ voff.toNat
      ∧ voff.toNat + n ≤ t.region + t.vatlen
    let prod := mine ∧ x.st = .empty ∧ (x.slots.getD slot.toNat PSlot.reset).used = false ∧ w.toNat < 2 ^ 48
    let goes := fun (t : State) => here t = { here s with pc := (here s).pc + 8, refused := 0 } ∧ OthersSame s t
    (∀ t, (here s).task.bind (taskOf s) = some t → fits t → ∃ u, exec (.talloc g ready td dk voff len) s = .next u
      ∧ TileBecomes s u q td ⟨some t.tag, dk.toNat, voff.toNat, len.toNat, if ready then .ready else .empty, .empty,
          [.reset, .reset, .reset, .reset]⟩
      ∧ here u = { here s with pc := (here s).pc + 12, refused := 0 } ∧ OthersSame s u)
    ∧ ((∀ t, (here s).task.bind (taskOf s) = some t → ¬ fits t) → TrapsWith (.talloc g ready td dk voff len) s .operand)
    ∧ (prod → ∃ u y, exec (.tallocProd g td slot rx) s = .next u ∧ TileBecomes s u q td y ∧ goes u
        ∧ y = { x with slots := y.slots }
        ∧ ∀ k : BitVec 2, y.slots.getD k.toNat PSlot.reset =
            if k = slot then ⟨true, w.setWidth 16, w.extractLsb' 16 32, 0⟩ else x.slots.getD k.toNat PSlot.reset)
    ∧ (¬ prod → TrapsWith (.tallocProd g td slot rx) s .operand)
    ∧ (mine → x.st ≠ .filling → x.st ≠ .draining → ∃ u, exec (.tfree g td) s = .next u
        ∧ TileBecomes s u q td Tile.reset ∧ goes u)
    ∧ (mine → x.st = .filling ∨ x.st = .draining → ∃ u, exec (.tfree g td) s = .next u ∧ SameElsewhere s u
        ∧ OthersSame s u ∧ here u = { here s with wait := .retest })
    ∧ (¬ mine → TrapsWith (.tfree g td) s .operand)

/-- R16, R207: TSTATE writes the entry word and whether the tile is the task's; TWAIT retires in the state it names, waits
in another, and in a FAULTED tile takes a TILE trap. -/
def Sys2Proof.Claims.TileTests : Prop :=
  ∀ (g : Guard) (rx : Reg) (pd : Pred) (t : Handle) (st : BitVec 3) (s : State), Issues g s →
    let x := tileAt s (quireOf s.cur) t
    let mine := (here s).task.isSome = true ∧ x.owner = (here s).task
    (∃ (u : State) (w : Word) (b : Bool), exec (.tstate g rx pd t) s = .next u
      ∧ Retires s u (((here s).setReg rx w).setPred pd b) 8 ∧ (b = true ↔ mine)
      ∧ (x.owner = none → w = 0)
      ∧ (x.owner ≠ none → w.toNat % 8 = x.st.code ∧ (x.len < 2 ^ 16 → (w.extractLsb' 8 16).toNat = x.len)
          ∧ (x.voff < 2 ^ 16 → (w.extractLsb' 24 16).toNat = x.voff) ∧ (x.dk < 64 → (w.extractLsb' 52 6).toNat = x.dk)
          ∧ (∀ k, k < 4 → let p := x.slots.getD k PSlot.reset
              w.getLsbD (48 + k) = p.used ∧ (w.getLsbD (44 + k) = true ↔ p.used = true ∧ p.arrived.toNat < p.expect.toNat))
          ∧ ∀ k, (3 ≤ k ∧ k < 8) ∨ (40 ≤ k ∧ k < 44) ∨ 58 ≤ k → w.getLsbD k = false))
    ∧ (mine → x.st.code = st.toNat → ∃ u, exec (.twait g t st) s = .next u ∧ Retires s u (here s) 8)
    ∧ (mine → x.st.code ≠ st.toNat → x.st ≠ .faulted → ∃ u, exec (.twait g t st) s = .next u ∧ SameElsewhere s u
        ∧ OthersSame s u ∧ here u = { here s with wait := .retest })
    ∧ (mine → x.st.code ≠ st.toNat → x.st = .faulted → TrapsWith (.twait g t st) s .tile)
    ∧ (¬ mine → TrapsWith (.twait g t st) s .operand)

/-- R208, R209: DKLD places a 64-byte aligned read of the record; DKSET writes one field of a valid entry and leaves the
others, and is an OPERAND trap, with no change, where the entry would not be valid. -/
def Sys2Proof.Claims.Deckles : Prop :=
  ∀ (g : Guard) (dn : Handle) (ra : Reg) (disp : BitVec 32) (f : DkField) (src : DkSrc) (s : State), Issues g s →
    let q := quireOf s.cur
    let old := deckleAt s q dn.toNat
    let at_ := match f with
      | .base => (0, 64)
      | .ext0 => (64, 32) | .ext1 => (96, 32) | .ext2 => (128, 32) | .ext3 => (160, 32) | .ext4 => (192, 32)
      | .str0 => (224, 32) | .str1 => (256, 32) | .str2 => (288, 32) | .str3 => (320, 32) | .str4 => (352, 32)
      | .ctl => (384, 64)
      | .part => (448, 64)
    let v : Word := match src with
      | .reg r => (here s).reg r
      | .imm i => i.signExtend 64
    let new := fun (j : Nat) => if at_.1 ≤ j ∧ j < at_.1 + at_.2 then v.getLsbD (j - at_.1) else old.getLsbD j
    (dn.toNat < 64 → Places (.dkld g dn ra disp) s ((here s).reg ra + disp.signExtend 64) 64 64 .read (fun _ _ => .read)
      (.dkld dn.toNat))
    ∧ (dn.toNat < 64 → ∀ r : DkRec, (∀ j, j < 512 → r.getLsbD j = new j) →
        (dkOk r = true → ∃ t, exec (.dkset g dn f src) s = .next t ∧ deckleAt t q dn.toNat = r
          ∧ (∀ k, k ≠ dn.toNat → deckleAt t q k = deckleAt s q k) ∧ SameButQuires s t ∧ OthersSame s t
          ∧ here t = { here s with pc := (here s).pc + BitVec.ofNat 56 (Instr.dkset g dn f src).bytes, refused := 0 })
        ∧ (dkOk r = false → TrapsWith (.dkset g dn f src) s .operand))
    ∧ (64 ≤ dn.toNat → TrapsWith (.dkld g dn ra disp) s .operand ∧ TrapsWith (.dkset g dn f src) s .operand)

/-! ### Copy jobs and channels -/

/-- The instruction leaves the rotation to be tested again; nothing else changes (R17). -/
def Sys2Proof.Claims.Waits (i : Instr) (s : State) : Prop :=
  ∃ t, exec i s = .next t ∧ SameElsewhere s t ∧ OthersSame s t ∧ here t = { here s with wait := .retest }

/-- The tile is the task's own. -/
def Sys2Proof.Claims.Mine (s : State) (h : Handle) : Prop :=
  (here s).task.isSome = true ∧ (tileAt s (quireOf s.cur) h).owner = (here s).task

/-- The instruction makes one job in channel `ch` and retires: the channel is ACTIVE unless FAULTED, the tile `wr` that it
writes is FILLING, the tile `rd` that it reads DRAINING; every other tile and channel and every byte of memory is as
before. -/
def Sys2Proof.Claims.MakesJob (i : Instr) (s : State) (ch : Nat) (kind : JobKind) (src dst : Slice) (rd wr slot : Option Nat) :
    Prop :=
  let q := quireOf s.cur
  ∃ t j, exec i s = .next t ∧ here t = { here s with pc := (here s).pc + 12, refused := 0 } ∧ OthersSame s t
    ∧ (t.quire q).jobs = (s.quire q).jobs ++ [j] ∧ j.ch = ch ∧ j.kind = kind ∧ j.src = src ∧ j.dst = dst ∧ j.slot = slot
    ∧ j.by_.pos = s.cur ∧ j.by_.task = (here s).task ∧ j.got = [] ∧ j.wr = [] ∧ j.faulted = false
    ∧ (chanAt t q ch).st = (if (chanAt s q ch).st = .faulted then .faulted else .active)
    ∧ (∀ k, k ≠ ch → chanAt t q k = chanAt s q k)
    ∧ (∀ h : Handle, tileAt t q h =
        if wr = some h.toNat then { tileAt s q h with st := .filling }
        else if rd = some h.toNat then { tileAt s q h with st := .draining } else tileAt s q h)
    ∧ SameMemory s t ∧ t.cores = s.cores ∧ ∀ k, k ≠ q → t.quire k = s.quire k

/-- R203, R255, R257, R258: COPY.IN makes a job that writes its tile, counted toward the producer slot of this quire where
the tile has slots; it waits for a DRAINING tile and for a channel of four jobs; channel 8 or above, a tile that is not
the task's, a FAULTED tile, slices that do not match and a tile whose slots name other producers are traps. -/
def Sys2Proof.Claims.CopyIn : Prop :=
  ∀ (g : Guard) (td dk ch : Handle) (s : State), Issues g s →
    let q := quireOf s.cur
    let x := tileAt s q td
    let i := Instr.copyIn g td dk ch
    let open_ := Mine s td ∧ (x.st = .empty ∨ x.st = .filling ∨ x.st = .ready)
    (8 ≤ ch.toNat → TrapsWith i s .operand)
    ∧ (¬ Mine s td → TrapsWith i s .operand)
    ∧ (ch.toNat < 8 → Mine s td → x.st = .faulted → TrapsWith i s .tile)
    ∧ (ch.toNat < 8 → Mine s td → x.st = .draining → Waits i s)
    ∧ (ch.toNat < 8 → open_ → ∀ m t, memSlice s q dk (widRead (here s)) (here s).levels true = some m →
        tileSlice s q td (widRead (here s)) (here s).levels true = some t →
        (slicesMatch m t = false → TrapsWith i s .operand)
        ∧ (slicesMatch m t = true →
            (∀ sl, ((∀ k, k < 4 → (x.slots.getD k PSlot.reset).used = false) ∧ sl = none)
                ∨ (∃ k, k < 4 ∧ (x.slots.getD k PSlot.reset).used = true
                    ∧ (x.slots.getD k PSlot.reset).src.toNat = 0x8000 + q ∧ sl = some k
                    ∧ ∀ k', k' < k → (x.slots.getD k' PSlot.reset).used = true →
                        (x.slots.getD k' PSlot.reset).src.toNat ≠ 0x8000 + q) →
              (chanJobs s q ch.toNat < 4 → MakesJob i s ch.toNat .copyIn m t none (some td.toNat) sl)
              ∧ (4 ≤ chanJobs s q ch.toNat → Waits i s))
            ∧ ((∃ k, k < 4 ∧ (x.slots.getD k PSlot.reset).used = true)
                → (∀ k, k < 4 → (x.slots.getD k PSlot.reset).used = true →
                    (x.slots.getD k PSlot.reset).src.toNat ≠ 0x8000 + q) → TrapsWith i s .operand)))

/-- R203, R255, R257, R258, R262, R263: COPY.OUT, COPYM and COPYR make a job that reads its tile, COPYM only to a deckle
with view 0x00 and COPYR only to a rank of the partition's map; they wait for an EMPTY or FILLING tile and for a channel
of four jobs. -/
def Sys2Proof.Claims.CopyFromTile : Prop :=
  ∀ (g : Guard) (ts dk ch td : Handle) (ra : Reg) (qd : BitVec 7) (s : State), Issues g s →
    let q := quireOf s.cur
    let x := tileAt s q ts
    let out := Instr.copyOut g ts dk ch
    let mul := Instr.copym g ts dk ch
    let rem := Instr.copyr g ch ra qd td ts
    let r := ((here s).reg ra).toNat
    let all := fun (p : Instr → Prop) => p out ∧ p mul ∧ p rem
    (8 ≤ ch.toNat → all fun i => TrapsWith i s .operand)
    ∧ (¬ Mine s ts → all fun i => TrapsWith i s .operand)
    ∧ (ch.toNat < 8 → Mine s ts → x.st = .faulted → all fun i => TrapsWith i s .tile)
    ∧ (ch.toNat < 8 → Mine s ts → x.st = .empty ∨ x.st = .filling → all fun i => Waits i s)
    ∧ (ch.toNat < 8 → Mine s ts → x.st = .ready ∨ x.st = .draining →
        ∀ t, tileSlice s q ts (widRead (here s)) (here s).levels true = some t →
        (∀ m, memSlice s q dk (widRead (here s)) (here s).levels true = some m →
          (slicesMatch m t = true →
            (chanJobs s q ch.toNat < 4 → MakesJob out s ch.toNat .copyOut t m (some ts.toNat) none none)
            ∧ (4 ≤ chanJobs s q ch.toNat → Waits out s)
            ∧ ((deckleAt s q dk.toNat).extractLsb' 56 8 = 0 →
                (chanJobs s q ch.toNat < 4 → MakesJob mul s ch.toNat .copym t m (some ts.toNat) none none)
                ∧ (4 ≤ chanJobs s q ch.toNat → Waits mul s))
            ∧ ((deckleAt s q dk.toNat).extractLsb' 56 8 ≠ 0 → TrapsWith mul s .operand))
          ∧ (slicesMatch m t = false → TrapsWith out s .operand ∧ TrapsWith mul s .operand))
        ∧ (∀ n dev, partOf s s.cur = some n → rankDev s n r = some dev →
            (chanJobs s q ch.toNat < 4 → MakesJob rem s ch.toNat
              (.copyrSend dev r qd.toNat td.toNat (jobNumber s dev) (linearBytes t).length 0 ((linearBytes t).length == 0))
              t t (some ts.toNat) none none)
            ∧ (4 ≤ chanJobs s q ch.toNat → Waits rem s))
        ∧ (1024 ≤ r → TrapsWith rem s .operand))

def Obligations.CopyInstructions : Prop := CopyIn ∧ CopyFromTile

/-- R266 to R268: WMARK declares the range at its resolved address with its watermark at the start, on a channel of no jobs
that is not ACTIVE; WMARK.GET reads the bytes filled; CHWAIT retires at IDLE and DONE, waits while jobs remain and is a
TILE trap on a FAULTED channel without jobs; a channel of 8 or above is an OPERAND trap. -/
def Sys2Proof.Claims.Channels : Prop :=
  ∀ (g : Guard) (ch : Handle) (ra rb gd : Reg) (s : State), Issues g s →
    let q := quireOf s.cur
    let x := chanAt s q ch.toNat
    let n := ((here s).reg rb).toNat
    let free := x.st ≠ .active ∧ chanJobs s q ch.toNat = 0
    (8 ≤ ch.toNat → TrapsWith (.wmark g ch ra rb) s .operand ∧ TrapsWith (.wmarkGet g gd ch) s .operand
      ∧ TrapsWith (.chwait g ch) s .operand)
    ∧ (ch.toNat < 8 → ¬ (free ∧ n < 2 ^ 32) → TrapsWith (.wmark g ch ra rb) s .operand)
    ∧ (ch.toNat < 8 → free → n < 2 ^ 32 → ∀ s1 l ls room,
        resolve s (whoIs s s.cur) ((here s).reg ra) .eread = (s1, .ok (.locs (l :: ls))) →
        (∃ k rem, pageSpan s1 (whoIs s s.cur) ((here s).reg ra) = some (k, room, rem)) →
        (n ≤ room → ∃ t, exec (.wmark g ch ra rb) s = .next t ∧ chanAt t q ch.toNat = ⟨.idle, l.pa, n, l.pa, []⟩
          ∧ (∀ k, k ≠ ch.toNat → chanAt t q k = chanAt s1 q k) ∧ SameMemory s1 t
          ∧ here t = { here s1 with pc := (here s1).pc + 12, refused := 0 })
        ∧ (room < n → ∃ y : Trap, y.cause = .operand ∧ exec (.wmark g ch ra rb) s = .next (takeTrap s1 s.cur y)))
    ∧ (ch.toNat < 8 → ∃ t, exec (.wmarkGet g gd ch) s = .next t
        ∧ Retires s t ((here s).setReg gd (BitVec.ofNat 64 (x.wm - x.lo))) 12)
    ∧ (ch.toNat < 8 →
        (x.st = .idle ∨ x.st = .done → ∃ t, exec (.chwait g ch) s = .next t ∧ Retires s t (here s) 12)
        ∧ (x.st = .active ∨ (x.st = .faulted ∧ chanJobs s q ch.toNat ≠ 0) → Waits (.chwait g ch) s)
        ∧ (x.st = .faulted → chanJobs s q ch.toNat = 0 → TrapsWith (.chwait g ch) s .tile))

/-- R166, R267: WATERMARK_ADVANCE takes the watermark to an address below which every byte of the range has been written,
and changes no other channel. -/
def Sys2Proof.Claims.WatermarkRises : Prop :=
  ∀ (q ch w : Nat) (s : State),
    let x := chanAt s q ch
    x.len ≠ 0 → x.wm < w → w ≤ x.lo + x.len → (∀ a, x.wm ≤ a → a < w → Sparse.get false x.filled a = true) →
    ∃ t, exec (.watermarkAdvance q ch w) s = .next t ∧ chanAt t q ch = { x with wm := w }
      ∧ (∀ k, k ≠ ch → chanAt t q k = chanAt s q k) ∧ SameMemory s t ∧ t.ctxs = s.ctxs

def Sys2Proof.Claims.ChannelsAndWatermarks : Prop := Channels ∧ WatermarkRises

/-- R165, R203, R256: PUBLISH of a job whose events have all been performed removes it; a FILLING tile that no other job of
the task writes, and with no producer pending, becomes READY, a DRAINING tile that no other job of the task reads becomes
READY, and an ACTIVE channel that no other job names becomes DONE, in the same step. -/
def Sys2Proof.Claims.PublishEnds : Prop :=
  ∀ (q : Nat) (j : Job) (s : State), jobOf s q j.id = some j → jobDone j = true → parkedOf s j.by_.task = none →
    isRecv j = false → (∀ h ∈ jobTiles j, h < 256) →
    let others := (s.quire q).jobs.filter fun k => k.id != j.id
    ∃ t, exec (.publish q j.id) s = .next t ∧ (t.quire q).jobs = others ∧ SameMemory s t ∧ t.ctxs = s.ctxs
      ∧ (∀ h : Handle, (tileAt t q h).st =
          if h.toNat ∈ jobTiles j then
            if (tileAt s q h).st = .filling ∧ (∀ k ∈ others, k.by_.task = j.by_.task → k.dstTile ≠ some h.toNat)
                ∧ (∀ p ∈ (tileAt s q h).slots, p.used = true → p.expect ≤ p.arrived) then .ready
            else if (tileAt s q h).st = .draining ∧ (∀ k ∈ others, k.by_.task = j.by_.task → k.srcTile ≠ some h.toNat) then
              .ready
            else (tileAt s q h).st
          else (tileAt s q h).st)
      ∧ (chanAt t q j.ch).st =
          if (chanAt s q j.ch).st = .active ∧ (∀ k ∈ others, isRecv k = false → k.ch ≠ j.ch) then .done
          else (chanAt s q j.ch).st

/-- A party's granule event is performed at the Home, with nothing to hold it back, no reduction pending on its line, and a
request for the line of a COHERENT page can be taken by its Order Point. -/
def Sys2Proof.Claims.DoerAtHome (s : State) (d : Doer) (ev : GEv) : Prop :=
  placeOf d ev = .home ∧ heldBack s d (lineOf ev.pa) = false ∧ leaseOn s (lineOf ev.pa) = none
    ∧ mustWait s d ev.pa ev.len ev.coh = false ∧ linkCut s d.quire ev.pa = false ∧ NonePending s (lineOf ev.pa)
    ∧ (ev.coh = .uncached ∨ (orderTake s d (kindOf ev.op) (lineOf ev.pa)).isSome = true)

/-- R259, R177: a read event of a job on the granule of a byte that it still needs takes the granule's bytes that it needs
from the Home, and changes no memory; a poisoned granule faults the job. What resolving changes, ResolveFrame says. -/
def Sys2Proof.Claims.EngineReads : Prop :=
  ∀ (q : Nat) (j : Job) (a b : Nat) (ev : GEv) (s s1 : State), jobOf s q j.id = some j → j.faulted = false →
    isRecv j = false → a ∈ linearBytes j.src → gotByte j a = none →
    granuleAt s q j j.src.vat a .eread .read = (s1, .ok (b, ev)) → DoerAtHome s1 (jobDoer q j) ev →
    (poisoned s1 ev.pa ev.len = false →
      ∃ t k, exec (.engineElementEvent q j.id false a) s = .next t ∧ jobOf t q j.id = some k ∧ SameMemory s1 t
        ∧ ∀ x, gotByte k x =
            if b ≤ x ∧ x < b + ev.len ∧ x ∈ linearBytes j.src ∧ gotByte j x = none then
              some (Memory.read s1.mem (ev.pa + (x - b)))
            else gotByte j x)
    ∧ (poisoned s1 ev.pa ev.len = true → ∃ s2 y, exec (.engineElementEvent q j.id false a) s = .next (jobFault s2 q j y)
        ∧ SameMemory s1 s2 ∧ y.cause = .poison)

/-- The last of a job's byte pairs whose destination is `y`: it decides the byte (R257). -/
def Sys2Proof.Claims.lastPair (j : Job) (y : Nat) : Option (Nat × Nat) :=
  ((jobPairs j).filter fun p => p.2 == y).getLast?

/-- R167, R203, R257, R259, R262: once its source bytes have been read, a write event of a COPY or COPYM job puts them into
the destination bytes of its granule, at the Home, and into no other byte; the granule counts as written, and the arrival of
the bytes is counted in the job's producer slot in the same step. Where that would pass the slot's expected count the job
faults, with OPERAND, the model's choice (log 123). -/
def Sys2Proof.Claims.EngineWrites : Prop :=
  ∀ (q : Nat) (j : Job) (a b : Nat) (ev : GEv) (s s1 : State), jobOf s q j.id = some j → j.faulted = false →
    j.kind = .copyIn ∨ j.kind = .copyOut ∨ j.kind = .copym → copymFault s q j a = none →
    (∃ p ∈ jobPairs j, p.2 = a) → written j a = false → (∀ p ∈ jobPairs j, (gotByte j p.1).isSome = true) →
    parkedOf s1 j.by_.task = none → granuleAt s q j j.dst.vat a .ewrite (.write []) = (s1, .ok (b, ev)) →
    DoerAtHome s1 (jobDoer q j) ev →
    let n := ((List.range ev.len).filter fun i => (lastPair j (b + i)).isSome).length
    let slotOfTile := fun (u : State) (i h : Nat) => (Sparse.get Tile.reset (u.quire q).tiles h).slots.getD i PSlot.reset
    let fits := ∀ i h, j.slot = some i → j.dstTile = some h →
      (slotOfTile s1 i h).arrived.toNat + n ≤ (slotOfTile s1 i h).expect.toNat
    let e := Instr.engineElementEvent q j.id true a
    (fits → ∃ t k, exec e s = .next t ∧ jobOf t q j.id = some k
      ∧ (∀ i, i < ev.len → Memory.read t.mem (ev.pa + i) =
          match lastPair j (b + i) with
          | some p => (gotByte j p.1).getD 0
          | none => Memory.read s1.mem (ev.pa + i))
      ∧ (∀ x, x < ev.pa ∨ ev.pa + ev.len ≤ x → Memory.read t.mem x = Memory.read s1.mem x)
      ∧ (∀ x, written k x = (decide (b ≤ x ∧ x < b + ev.len) || written j x))
      ∧ (∀ i h, i < 4 → j.slot = some i → j.dstTile = some h →
          slotOfTile t i h = { slotOfTile s1 i h with arrived := (slotOfTile s1 i h).arrived + BitVec.ofNat 32 n }))
    ∧ (¬ fits → ∃ y, exec e s = .next (jobFault s1 q j y) ∧ y.cause = .operand)

/-- R203, R260, R262, R328: a job's event whose granule does not resolve, or COPYM's on a page that is not REPL, faults the
job: the job stays and is faulted, its tiles become FAULTED and keep the state they had, its channel becomes FAULTED, and one
record names the job, its instruction and its thread. -/
def Sys2Proof.Claims.JobFaults : Prop :=
  (∀ (q : Nat) (j : Job) (a : Nat) (x : Trap) (s s1 : State), jobOf s q j.id = some j → j.faulted = false → isRecv j = false →
    (granuleAt s q j j.src.vat a .eread .read = (s1, .error (some x)) →
      exec (.engineElementEvent q j.id false a) s = .next (jobFault s1 q j x))
    ∧ (j.kind = .copyIn ∨ j.kind = .copyOut ∨ j.kind = .copym → copymFault s q j a = none →
        granuleAt s q j j.dst.vat a .ewrite (.write []) = (s1, .error (some x)) →
        exec (.engineElementEvent q j.id true a) s = .next (jobFault s1 q j x))
    ∧ (j.kind = .copym → copymFault s q j a = some x →
        exec (.engineElementEvent q j.id true a) s = .next (jobFault s q j x) ∧ x.cause = .address))
  ∧ (∀ (q : Nat) (j : Job) (x : Trap) (s : State), jobOf s q j.id = some j → isRecv j = false →
      parkedOf s j.by_.task = none → (∀ h ∈ jobTiles j, h < 256) →
      let t := jobFault s q j x
      jobOf t q j.id = some { j with faulted := true, cause := some x.cause }
      ∧ (∀ h : Handle, tileAt t q h =
          if h.toNat ∈ jobTiles j ∧ (tileAt s q h).owner ≠ none ∧ (tileAt s q h).st ≠ .faulted then
            { tileAt s q h with before := (tileAt s q h).st, st := .faulted }
          else tileAt s q h)
      ∧ (∀ k, chanAt t q k = if k = j.ch then { chanAt s q k with st := .faulted } else chanAt s q k)
      ∧ (j.by_.part = none → SameMemory s t)
      ∧ ∀ n, j.by_.part = some n → ∃ r, ((t.part n).recs = (s.part n).recs ++ [r]
            ∨ ((t.part n).recs = (s.part n).recs ∧ (t.part n).unposted = (s.part n).unposted ++ [r]))
          ∧ r.trap = x ∧ r.src = .job q j.id ∧ r.pc = j.by_.pc ∧ r.slotgen = j.by_.slotgen ∧ r.enc = j.by_.enc)

def Sys2Proof.Claims.CopyEngine : Prop := PublishEnds ∧ EngineReads ∧ EngineWrites ∧ JobFaults

/-! ### Vector instructions -/

/-- The tile is the task's own and READY, and its slice for the thread is `x` (R17, R202, R210). -/
def Sys2Proof.Claims.TileIn (s : State) (h : Handle) (x : Slice) : Prop :=
  Mine s h ∧ (tileAt s (quireOf s.cur) h).st = .ready
    ∧ tileSlice s (quireOf s.cur) h (widRead (here s)) (here s).levels true = some x

/-- A source tile's slice read under the replacement format of a code, 0 for its own; an operand that is no tile is absent
(R212). -/
def Sys2Proof.Claims.SourceIn (s : State) (h : Option Handle) (code : Nat) (x : Option Slice) : Prop :=
  match h, x with
  | none, none => True
  | some h, some x => ∃ y, TileIn s h y ∧ refmt code y = some x
  | _, _ => False

/-- The replacement formats of A and B that FMT has left, and no PSC; SF only where the major shows it (R79, R213). -/
def Sys2Proof.Claims.codeA (s : State) : Nat := pfxFA (pendingPfx (here s))
def Sys2Proof.Claims.codeB (s : State) : Nat := pfxFB (pendingPfx (here s))
def Sys2Proof.Claims.FmtFits (s : State) (sfShown : Bool) : Prop :=
  pfxPSC (pendingPfx (here s)) = false ∧ (sfShown = false → pfxSF (pendingPfx (here s)) = false)

/-- A source's extents are the destination's, or 1 (R211). -/
def Sys2Proof.Claims.Spread (d : Slice) (x : Option Slice) : Prop :=
  ∀ y, x = some y → ∀ k, k < 5 → y.ext.getD k 1 = d.ext.getD k 1 ∨ y.ext.getD k 1 = 1

/-- R215: lanes for the widest element of the operands. -/
def Sys2Proof.Claims.laneCount (l : List (Option Slice)) : Nat :=
  let w := (l.map fun x => match x with
    | some y => fmtBits y.fmt
    | none => 0).foldl max 0
  if w ≤ 8 then 256 else if w ≤ 16 then 128 else if w ≤ 32 then 64 else 32

/-- The register that stands for a tile, as a fill or a base, and the instruction's own SF. -/
def Sys2Proof.Claims.scalarOf : Instr → Option Reg
  | .vadd _ o | .vsub _ o | .vmul _ o | .vdiv _ o | .vmin _ o | .vmax _ o => tsReg o.b
  | .vfma _ _ _ (.rt rx _) | .vfma _ _ _ (.tr _ rx) | .vins _ _ rx _ | .vgath _ _ _ rx _ | .vscat _ _ _ rx _ => some rx
  | .vcmp _ _ _ _ b | .vsel _ _ _ _ b | .vbcast _ _ b => tsReg b
  | .vshift _ _ _ _ _ fill => fill
  | _ => none
def Sys2Proof.Claims.ownSf : Instr → Bool
  | .vadd _ o | .vsub _ o | .vmul _ o | .vdiv _ o | .vmin _ o | .vmax _ o => o.sf
  | .vabs _ o | .vneg _ o | .vcvt _ o | .vquant _ o => o.sf
  | .vred _ o | .vscan _ o => o.sf
  | _ => false

/-- R79, R94, R213: an operation carries what its instruction had at issue: the scalar operand, the rounding mode, SF, the
flushes, the seed and the work identifier; it has read and written nothing. -/
def Sys2Proof.Claims.AsIssued (s : State) (i : Instr) (v : VecOp) : Prop :=
  let pfx := pendingPfx (here s)
  let rmo := pfxField pfx 13 3
  v.i = i ∧ v.by_.pos = s.cur ∧ v.len = i.bytes
  ∧ v.rx = (match scalarOf i with
      | some r => (here s).reg r
      | none => 0)
  ∧ v.sf = (ownSf i || pfxSF pfx) ∧ (rmo = 0 → v.rm = stRM (here s).st) ∧ (1 ≤ rmo ∧ rmo ≤ 5 → v.rm = rmo - 1)
  ∧ v.ftz = stFTZ (here s).st ∧ v.daz = stDAZ (here s).st ∧ v.seed = (here s).seed ∧ v.wid = widRead (here s) ∧ v.pfx = pfx
  ∧ v.got = [] ∧ v.out = none

/-- R215: the instruction enters its core's vector unit as one operation on the slices, to take `n` cycles once the unit is
free; the context leaves the rotation, PP is cleared, and no byte of memory changes. -/
def Sys2Proof.Claims.EntersFor (i : Instr) (s : State) (n e : Nat) (d a b c : Option Slice) : Prop :=
  let core := coreOf s.cur
  ∃ t v, exec i s = .next t ∧ (t.core core).vec = (s.core core).vec ++ [v] ∧ AsIssued s i v ∧ v.d = d ∧ v.a = a ∧ v.b = b
    ∧ v.c = c ∧ v.elems = e ∧ v.start = max s.cyc (s.core core).vecFree ∧ v.cycles = n
    ∧ (t.core core).vecFree = v.start + v.cycles
    ∧ here t = { here s with st := clearPP (here s).st, wait := .vector v.id } ∧ OthersSame s t ∧ SameMemory s t
    ∧ t.quires = s.quires ∧ ∀ x, x ≠ core → t.core x = s.core x

/-- R215: it takes the cycles of `k` passes over `e` elements. -/
def Sys2Proof.Claims.EntersUnit (i : Instr) (s : State) (k e : Nat) (d a b c : Option Slice) : Prop :=
  let lanes := laneCount [d, a, b, c]
  EntersFor i s (max 1 (k * ((e + lanes - 1) / lanes))) e d a b c

/-- The tiles that a vector instruction names (R17). -/
def Sys2Proof.Claims.vectorTiles : Instr → Option (Guard × List Handle)
  | .vadd g o | .vsub g o | .vmul g o | .vdiv g o | .vmin g o | .vmax g o => some (g, [o.td, o.ta] ++ (tsTile o.b).toList)
  | .vfma g td ta (.tt tb tc) => some (g, [td, ta, tb, tc])
  | .vfma g td ta (.rt _ tc) => some (g, [td, ta, tc])
  | .vfma g td ta (.tr tb _) => some (g, [td, ta, tb])
  | .vsqrt g o | .vrsqrt g o | .vexp2 g o | .vlog2 g o | .vabs g o | .vneg g o | .vcvt g o | .vquant g o => some (g, [o.td, o.ta])
  | .vcmp g _ td ta b => some (g, [td, ta] ++ (tsTile b).toList)
  | .vsel g td ta tb c => some (g, [td, ta, tb] ++ (tsTile c).toList)
  | .vred g o | .vscan g o => some (g, [o.td, o.ta])
  | .vtrans g td ta _ _ | .vshift g td ta _ _ _ | .vgath g td ta _ _ => some (g, [td, ta])
  | .vperm g td ta tb _ => some (g, [td, ta, tb])
  | .vscat g ta tb _ _ => some (g, [ta, tb])
  | .vbcast g td a => some (g, [td] ++ (tsTile a).toList)
  | .vext g _ ta _ => some (g, [ta])
  | .vins g td _ _ => some (g, [td])
  | _ => none

/-- R17, R202: a vector instruction that names a tile that is not the task's is an OPERAND trap; else one that names a
FAULTED tile is a TILE trap; else one that names a tile that is not READY waits, with what FMT has left unused. -/
def Sys2Proof.Claims.VectorTileTests : Prop :=
  ∀ (i : Instr) (g : Guard) (l : List Handle) (s : State), vectorTiles i = some (g, l) → IssuesVm g s →
    let state := fun h => (tileAt s (quireOf s.cur) h).st
    ((∃ h ∈ l, ¬ Mine s h) → TrapsWith i s .operand)
    ∧ ((∀ h ∈ l, Mine s h) → (∃ h ∈ l, state h = .faulted) → TrapsWith i s .tile)
    ∧ ((∀ h ∈ l, Mine s h) → (∀ h ∈ l, state h ≠ .faulted) → (∃ h ∈ l, state h ≠ .ready) → Waits i s)

/-- R201, R211 to R213, R215, R217: the arithmetic instructions enter the vector unit on READY tiles of fitting shapes whose
formats are all floating, without SF, or, where the instruction takes integers, all integer. -/
def Sys2Proof.Claims.VectorArithmetic : Prop :=
  ∀ (g : Guard) (td ta : Handle) (bt : TSrc) (sf : Bool) (s : State) (d a : Slice) (b : Option Slice), IssuesVm g s →
    TileIn s td d → SourceIn s (some ta) (codeA s) (some a) → Spread d (some a) →
    let o : VecBin := ⟨td, ta, bt, sf⟩
    let u : VecUn := ⟨td, ta, sf⟩
    let plain := sf = false ∧ pfxSF (pendingPfx (here s)) = false
    let flt := plain ∧ scalarFloat d.fmt = true ∧ fmtFloat a.fmt = true
    let int := vecInt d.fmt = true ∧ vecInt a.fmt = true
    let e := Slice.count d
    (FmtFits s true → SourceIn s (tsTile bt) (codeB s) b → Spread d b →
      (flt ∧ (∀ x, b = some x → fmtFloat x.fmt = true) ∨ int ∧ (∀ x, b = some x → vecInt x.fmt = true) →
        EntersUnit (.vadd g o) s 1 e (some d) (some a) b none ∧ EntersUnit (.vsub g o) s 1 e (some d) (some a) b none
        ∧ EntersUnit (.vmul g o) s 1 e (some d) (some a) b none ∧ EntersUnit (.vmin g o) s 1 e (some d) (some a) b none
        ∧ EntersUnit (.vmax g o) s 1 e (some d) (some a) b none)
      ∧ (flt ∧ (∀ x, b = some x → fmtFloat x.fmt = true) → EntersUnit (.vdiv g o) s 4 e (some d) (some a) b none))
    ∧ (FmtFits s true → flt ∨ int →
        EntersUnit (.vabs g u) s 1 e (some d) (some a) none none ∧ EntersUnit (.vneg g u) s 1 e (some d) (some a) none none)
    ∧ (FmtFits s false → flt →
        EntersUnit (.vsqrt g u) s 4 e (some d) (some a) none none ∧ EntersUnit (.vrsqrt g u) s 4 e (some d) (some a) none none
        ∧ EntersUnit (.vexp2 g u) s 4 e (some d) (some a) none none
        ∧ EntersUnit (.vlog2 g u) s 4 e (some d) (some a) none none)
    ∧ (FmtFits s false → flt → ∀ (bc : FmaSrc) (c : Option Slice),
        SourceIn s (match bc with
          | .tt tb _ | .tr tb _ => some tb
          | .rt .. => none) (codeB s) b → Spread d b → (∀ x, b = some x → fmtFloat x.fmt = true) →
        SourceIn s (match bc with
          | .tt _ tc | .rt _ tc => some tc
          | .tr .. => none) 0 c → Spread d c → (∀ x, c = some x → fmtFloat x.fmt = true) →
        EntersUnit (.vfma g td ta bc) s 1 e (some d) (some a) b c)

/-- R218 to R223: comparison, selection, conversion, quantisation, reduction and scan enter the vector unit under the
formats and extents that each asks. -/
def Sys2Proof.Claims.VectorTests : Prop :=
  ∀ (g : Guard) (td ta tb : Handle) (bt ct : TSrc) (sf : Bool) (k : FCond) (op : RedOp) (axis : BitVec 3) (s : State)
    (d a : Slice) (b c : Option Slice), IssuesVm g s → TileIn s td d → SourceIn s (some ta) (codeA s) (some a) →
    let u : VecUn := ⟨td, ta, sf⟩
    let r : VecRed := ⟨op, td, ta, axis, sf⟩
    let e := Slice.count d
    let both := fun (p : Fmt → Bool) => p a.fmt = true ∧ ∀ x, b = some x → p x.fmt = true
    let plain := sf = false ∧ pfxSF (pendingPfx (here s)) = false
    let bits := op = .and ∨ op = .or ∨ op = .xor
    let kinds := (plain ∧ scalarFloat d.fmt = true ∧ fmtFloat a.fmt = true ∧ ¬ bits)
      ∨ (vecInt d.fmt = true ∧ vecInt a.fmt = true)
    (FmtFits s false → SourceIn s (tsTile bt) (codeB s) b → Spread d (some a) → Spread d b → fmtInt d.fmt = true →
      both fmtFloat ∨ (both vecInt ∧ k ≠ .un) → EntersUnit (.vcmp g k td ta bt) s 1 e (some d) (some a) b none)
    ∧ (FmtFits s false → SourceIn s (some tb) (codeB s) b → SourceIn s (tsTile ct) 0 c → Spread d (some a) → Spread d b →
        Spread d c → fmtInt a.fmt = true → (∀ x, b = some x → x.fmt = d.fmt) → (∀ x, c = some x → x.fmt = d.fmt) →
        EntersUnit (.vsel g td ta tb ct) s 1 e (some d) (some a) b c)
    ∧ (FmtFits s true → Spread d (some a) → fmtFloat d.fmt = true ∨ fmtInt d.fmt = true →
        fmtFloat a.fmt = true ∨ fmtInt a.fmt = true → EntersUnit (.vcvt g u) s 1 e (some d) (some a) none none)
    ∧ (FmtFits s true → scalarFloat a.fmt = true → fmtBlock d.fmt = true → a.ext = d.ext → d.ext.getD 0 0 % 64 = 0 →
        EntersUnit (.vquant g u) s 1 e (some d) (some a) none none)
    ∧ (FmtFits s true → kinds → d.ext = a.ext.set axis.toNat 1 →
        EntersUnit (.vred g r) s 1 (Slice.count a) (some d) (some a) none none)
    ∧ (FmtFits s true → kinds → d.ext = a.ext → EntersUnit (.vscan g r) s 1 (Slice.count a) (some d) (some a) none none)

/-- R224 to R226: the data-movement instructions enter the vector unit under the formats and extents that each asks. -/
def Sys2Proof.Claims.VectorMoves : Prop :=
  ∀ (g : Guard) (td ta tb : Handle) (at_ : TSrc) (axa axb axis : BitVec 3) (rx : Reg) (i : VIdx) (n : VAmt) (fill : Option Reg)
    (s : State) (d a : Slice) (b a' : Option Slice), IssuesVm g s → FmtFits s false →
    let e := Slice.count d
    let at1 := fun (x : VIdx) => match x with
      | .short j => j.toNat
      | .long j => j.toNat
    (TileIn s td d → SourceIn s (some ta) (codeA s) (some a) → a.fmt = d.fmt →
      (d.ext = (a.ext.set axa.toNat (a.ext.getD axb.toNat 0)).set axb.toNat (a.ext.getD axa.toNat 0) →
        EntersUnit (.vtrans g td ta axa axb) s 1 e (some d) (some a) none none)
      ∧ (SourceIn s (some tb) (codeB s) b → (∀ x, b = some x → fmtInt x.fmt = true ∧ x.ext = d.ext) →
          a.ext.set axis.toNat 1 = d.ext.set axis.toNat 1 →
          EntersUnit (.vperm g td ta tb axis) s 1 e (some d) (some a) b none)
      ∧ (a.ext = d.ext → EntersUnit (.vshift g td ta axis n fill) s 1 e (some d) (some a) none none))
    ∧ (TileIn s td d → SourceIn s (tsTile at_) (codeA s) a' → (∀ x, a' = some x → x.fmt = d.fmt) → Spread d a' →
        EntersUnit (.vbcast g td at_) s 1 e (some d) a' none none)
    ∧ (SourceIn s (some ta) (codeA s) (some a) → at1 i < Slice.count a →
        EntersUnit (.vext g rx ta i) s 1 1 none (some a) none none)
    ∧ (TileIn s td d → at1 i < Slice.count d → EntersUnit (.vins g td rx i) s 1 1 (some d) none none none)

/-- R24, R201, R210 to R226: each vector instruction enters the vector unit where its conditions hold. -/
def Sys2Proof.Claims.VectorEnters : Prop := VectorArithmetic ∧ VectorTests ∧ VectorMoves

/-- R215, R227, R228: VGATH and VSCAT enter the vector unit, to hold it while their memory events last; without elements
they take one cycle. -/
def Obligations.GatherScatterPlace : Prop :=
  ∀ (g : Guard) (td ta tb : Handle) (rx : Reg) (scale : BitVec 3) (s : State) (d a : Slice) (b : Slice), IssuesVm g s →
    FmtFits s false → SourceIn s (some ta) (codeA s) (some a) →
    let time := fun (n : Nat) => if n = 0 then 1 else 0
    (TileIn s td d → 8 ≤ fmtBits d.fmt → fmtInt a.fmt = true → d.ext = a.ext →
      EntersFor (.vgath g td ta rx scale) s (time (Slice.count d)) (Slice.count d) (some d) (some a) none none)
    ∧ (SourceIn s (some tb) (codeB s) (some b) → 8 ≤ fmtBits a.fmt → fmtInt b.fmt = true → a.ext = b.ext →
      EntersFor (.vscat g ta tb rx scale) s (time (Slice.count a)) (Slice.count a) none (some a) (some b) none)

/-- The vector unit of the core has `v` at its head, whose turn has come. -/
def Sys2Proof.Claims.InUnit (s : State) (core : Nat) (v : VecOp) (rest : List VecOp) : Prop :=
  (s.core core).vec = v :: rest ∧ v.start ≤ s.cyc ∧ ∀ w ∈ rest, w.id ≠ v.id

/-- R168, R216: an operation reads the vat one granule in a move, each as it stands at its Home, and changes no memory. A
poisoned granule is a POISON trap, which gives what FMT had left back. -/
def Sys2Proof.Claims.VectorReads : Prop :=
  ∀ (core g : Nat) (v : VecOp) (rest : List VecOp) (s : State), InUnit s core v rest → vecOut v = none → g ∈ vecNeeds v →
    DoerAtHome s (vecDoer s core v) (vatEv g .read .read) →
    (poisoned s (32 * g) 32 = false → ∃ t, exec (.vectorOpComplete core (some g)) s = .next t ∧ SameMemory s t ∧ t.ctxs = s.ctxs
      ∧ (t.core core).vec = { v with got := v.got ++ [(g, Memory.readBytes s.mem (32 * g) 32)] } :: rest)
    ∧ (poisoned s (32 * g) 32 = true → core = coreOf v.by_.pos →
        ∃ s1 y, exec (.vectorOpComplete core (some g)) s = .next (takeTrap s1 v.by_.pos y) ∧ SameMemory s s1
          ∧ y.cause = .poison
          ∧ ∀ p, v.pfx = some p → stPP (s1.ctx v.by_.pos).st = true ∧ stPFX (s1.ctx v.by_.pos).st = p)

/-- R168, R216: when it has read all, it writes each granule that it changes in one event, the bits of its elements and no
others. -/
def Sys2Proof.Claims.VectorPuts : Prop :=
  ∀ (core g : Nat) (v : VecOp) (rest : List VecOp) (o : VecOut) (s : State), InUnit s core v rest → vecOut v = some o →
    (∃ w ∈ o.writes, w.1 / 32 = g) → DoerAtHome s (vecDoer s core v) (vatEv g .write (.write [])) →
    ∃ t, exec (.vectorOpComplete core (some g)) s = .next t ∧ (∀ p, Roused (s.ctx p) (t.ctx p))
      ∧ (∀ a, Memory.read t.mem a = Memory.read ((o.writes.filter fun w => w.1 / 32 == g).foldl writeBitsMem s.mem) a)
      ∧ (∀ a, a / 32 ≠ g → Memory.read t.mem a = Memory.read s.mem a)
      ∧ (t.core core).vec = { v with out := some { o with writes := o.writes.filter fun w => w.1 / 32 != g } } :: rest

/-- R92, R215: with all of it written and its cycles over, the operation completes: the context goes on past its instruction
with the flags added and VEXT's register written, the unit is free for the next operation, and no byte of memory
changes. -/
def Sys2Proof.Claims.VectorFinishes : Prop :=
  ∀ (core : Nat) (v : VecOp) (rest : List VecOp) (o : VecOut) (s : State), InUnit s core v rest → vecOut v = some o →
    o.writes = [] →
    let c := s.ctx v.by_.pos
    let free := if v.cycles = 0 then s.cyc else v.start + v.cycles
    (s.cyc < v.start + v.cycles → ∃ w, exec (.vectorOpComplete core none) s = .fault (.notEnabled w))
    ∧ (v.start + v.cycles ≤ s.cyc → ∃ t, exec (.vectorOpComplete core none) s = .next t ∧ SameMemory s t
      ∧ t.ctx v.by_.pos = { (match o.reg with
            | some (r, w) => c.setReg r w
            | none => c) with
          st := c.st ||| (o.flags.setWidth 64 <<< 16), pc := c.pc + BitVec.ofNat 56 v.len, wait := .none, refused := 0 }
      ∧ (∀ p, p ≠ v.by_.pos → t.ctx p = s.ctx p)
      ∧ (t.core core).vec.length = rest.length
      ∧ ∀ w r, rest = w :: r → ∃ r', (t.core core).vec = { w with start := max w.start free } :: r')

/-- An element of a slice in memory. -/
def Sys2Proof.Claims.elemOfMem (m : Memory) (d : Slice) (ix : List Nat) : Nat :=
  let p := elemAddr d ix
  ofBytes (Memory.readBytes m p.1.toNat ((p.2 + fmtBits d.fmt + 7) / 8)) / 2 ^ p.2 % 2 ^ fmtBits d.fmt

/-- No two elements of the slice share a bit. -/
def Sys2Proof.Claims.Apart (d : Slice) : Prop :=
  ∀ i j, i < Slice.count d → j < Slice.count d →
    let p := elemAddr d (unlin d.ext i)
    let q := elemAddr d (unlin d.ext j)
    0 ≤ p.1 ∧ (i ≠ j → 8 * p.1 + p.2 + fmtBits d.fmt ≤ 8 * q.1 + q.2 ∨ 8 * q.1 + q.2 + fmtBits d.fmt ≤ 8 * p.1 + p.2)

/-- The instructions that compute each element of their destination. -/
def Sys2Proof.Claims.elementwise : Instr → Bool
  | .vadd .. | .vsub .. | .vmul .. | .vfma .. | .vdiv .. | .vsqrt .. | .vrsqrt .. | .vexp2 .. | .vlog2 .. | .vmin ..
  | .vmax .. | .vabs .. | .vneg .. | .vcmp .. | .vsel .. | .vcvt .. | .vred .. | .vscan .. | .vtrans .. | .vperm ..
  | .vbcast .. | .vshift .. => true
  | _ => false

/-- R216, R225: what an operation writes once it has read all. Put into any memory, every element of the destination reads as
the instruction's result there, and every byte that holds none of them is as before; the flags are those of all elements.
VINS puts the register's low bits into its element, and VEXT takes its element into the register. -/
def Sys2Proof.Claims.VectorResults : Prop :=
  ∀ (v : VecOp) (m : Memory), v.out = none → vecNeeds v = [] →
    (∀ d, v.d = some d → elementwise v.i = true → v.elems ≠ 0 → Apart d →
      let result := fun (i : Nat) => vecResult v d (unlin d.ext i) i
      ∃ o, vecOut v = some o ∧ o.reg = none
        ∧ (∀ i, i < Slice.count d →
            elemOfMem (o.writes.foldl writeBitsMem m) d (unlin d.ext i) = (result i).1 % 2 ^ fmtBits d.fmt)
        ∧ (∀ a : Nat, (a : Int) ∉ sliceBytes d → Memory.read (o.writes.foldl writeBitsMem m) a = Memory.read m a)
        ∧ ∀ k, k < 5 → (o.flags.getLsbD k = true ↔ ∃ i, i < Slice.count d ∧ (result i).2.getLsbD k = true))
    ∧ (∀ g td rx x d, v.i = .vins g td rx x → v.d = some d → Apart d →
      let n := match x with
        | .short j => j.toNat
        | .long j => j.toNat
      n < Slice.count d → ∃ o, vecOut v = some o ∧ o.reg = none ∧ o.flags = 0
        ∧ ∀ i, i < Slice.count d → elemOfMem (o.writes.foldl writeBitsMem m) d (unlin d.ext i) =
            if i = n then v.rx.toNat % 2 ^ fmtBits d.fmt else elemOfMem m d (unlin d.ext i))
    ∧ (∀ g rx ta x a, v.i = .vext g rx ta x → v.a = some a →
      let n := match x with
        | .short j => j.toNat
        | .long j => j.toNat
      let w := vecElem v a (unlin a.ext n)
      ∃ o, vecOut v = some o ∧ o.writes = [] ∧ o.flags = 0
        ∧ o.reg = some (rx, if fmtSigned a.fmt then BitVec.ofInt 64 (elemInt a.fmt w) else BitVec.ofNat 64 w))

/-- R148, R227, R228: with its tiles read, a gather or a scatter makes its first element's access in its context's Issue
Port, at the register plus the index times 2^scale. The events of one element done, the next element's access is made; after
the last, the values that a gather has read stand to be written, and a scatter has nothing more to do. -/
def Sys2Proof.Claims.GatherScatterRuns : Prop :=
  (∀ (core : Nat) (v : VecOp) (rest : List VecOp) (s : State), InUnit s core v rest → v.out = none → v.elems ≠ 0 →
    vecNeeds v = [] → (s.ctx v.by_.pos).wait = .vector v.id →
    let pos := v.by_.pos
    let addr := fun (x : Slice) (scale : BitVec 3) (ix : List Nat) =>
      v.rx + BitVec.ofInt 64 (elemInt x.fmt (vecElem v x ix) * 2 ^ scale.toNat)
    let begins := fun (first : Word) (size : Nat) (acc : Acc) (op : Nat → Nat → GOp) (fin : PortDone) (next : PortDone) =>
      ∃ p0, p0.fin = fin ∧ p0.got = [] ∧ p0.len = v.len
        ∧ exec (.vectorOpComplete core none) s = .next
            (nextElement (s.setCtx pos { s.ctx pos with port := some p0, wait := .port }) pos p0 first size acc op next)
    (∀ g td ta rx scale d a w l, v.i = .vgath g td ta rx scale → v.d = some d → v.a = some a →
      (Slice.indices a).map (addr a scale) = w :: l →
      begins w (fmtBits d.fmt / 8) .read (fun _ _ => .read) (.gather d (w :: l) (fmtBits d.fmt / 8)) (.gather d l (fmtBits d.fmt / 8)))
    ∧ (∀ g ta tb rx scale a b w l, v.i = .vscat g ta tb rx scale → v.a = some a → v.b = some b →
      ((Slice.indices b).map (addr b scale)).zip
        ((Slice.indices a).map fun ix => toBytes (fmtBits a.fmt / 8) (vecElem v a ix)) = w :: l →
      begins w.1 w.2.length .write (fun off n => .write ((w.2.drop off).take n)) (.scatter (w :: l)) (.scatter l)))
  ∧ (∀ (s s1 : State) (pos : Nat) (p : Port) (a : Word) (n : Nat) (acc : Acc) (op : Nat → Nat → GOp) (fin : PortDone)
      (r : Except Stop Found), resolveAccess s (whoIs s pos) a n acc = (s1, r) → acc ≠ .lease →
    let t := nextElement s pos p a n acc op fin
    (∀ ps, r = .ok (.pieces ps) → ∃ p', t.ctx pos = { s1.ctx pos with port := some p', wait := .port }
      ∧ p'.evs.map (fun e => (e.pa, e.len, e.op)) = (cutAccess acc 0 ps).map (fun c => (c.2.2.pa, c.2.1, op c.1 c.2.1))
      ∧ p'.fin = fin ∧ p'.got = p.got ∧ p'.remote = none ∧ p'.sent = false ∧ SameMemory s1 t
      ∧ ∀ k, k ≠ pos → t.ctx k = s1.ctx k)
    ∧ ((∃ k, r = .ok (.remote k)) → ∃ s2 y, t = takeTrap s2 pos y ∧ y.cause = .address ∧ y.info = a ∧ SameMemory s1 s2)
    ∧ (∀ y, r = .error (some y) → ∃ s2, t = takeTrap s2 pos y ∧ SameMemory s1 s2) ∧ (r = .error none → t = s1))
  ∧ (∀ (s : State) (pos : Nat) (p : Port) (ev : GEv), HasEvent s pos p ev [] → AtHome s pos ev →
    let k := s.core (coreOf pos)
    let bytes := p.got ++ Memory.readBytes s.mem ev.pa ev.len
    let goes := fun (s' : State) (t : State) => exec (.granuleEventPerform pos) s = .next t ∧ ∀ x, x ≠ pos → Roused (s.ctx x) (s'.ctx x)
    let ends := fun (t : State) (v : VecOp) (r : List VecOp) (w : List BitWrite) => goes t t
      ∧ t.ctx pos = { s.ctx pos with port := none, wait := .vector v.id }
      ∧ (t.core (coreOf pos)).vec = { v with out := some ⟨w, 0, none⟩ } :: r
    (∀ d l size, p.fin = .gather d l size → ev.op = .read → poisoned s ev.pa ev.len = false →
      (∀ w l', l = w :: l' → ∃ s', SameMemory s s' ∧ goes s' (nextElement s' pos { p with got := bytes, evs := [] } w size .read
        (fun _ _ => .read) (.gather d l' size)))
      ∧ (∀ v r, l = [] → k.vec = v :: r → ∃ t, SameMemory s t
          ∧ ends t v r (sliceWrites d ((chunks size (bytes.length + 1) bytes).map ofBytes))))
    ∧ (∀ l x, p.fin = .scatter l → ev.op = .write x →
      (∀ w l', l = w :: l' → ∃ s', Stored s s' ev.pa x ∧ goes s' (nextElement s' pos { p with evs := [] } w.1 w.2.length .write
        (fun off n => .write ((w.2.drop off).take n)) (.scatter l')))
      ∧ (∀ v r, l = [] → k.vec = v :: r → ∃ t, Stored s t ev.pa x ∧ ends t v r [])))

/-- R168, R215, R216, R225, R227, R228: what the operation in a vector unit does. -/
def Obligations.VectorCompletes : Prop :=
  VectorReads ∧ VectorPuts ∧ VectorFinishes ∧ VectorResults ∧ GatherScatterRuns

/-- The index that serves `ix` in a source, an axis of extent 1 serving every index (R211). -/
def Sys2Proof.Claims.served (x : Slice) (ix : List Nat) : List Nat :=
  [0, 1, 2, 3, 4].map fun k => if x.ext.getD k 1 = 1 then 0 else ix.getD k 0

/-- A source's raw element for an index: a tile's, or the register's low bits in the format of the operand it replaces. -/
def Sys2Proof.Claims.rawAt (v : VecOp) (x : Option Slice) (f : Fmt) (ix : List Nat) : Nat :=
  match x with
  | some y => vecElem v y (served y ix)
  | none => v.rx.toNat % 2 ^ fmtBits f

/-- The format in which a source is read (R211, R212). -/
def Sys2Proof.Claims.readAs (x : Option Slice) (f : Fmt) : Fmt :=
  match x with
  | some y => y.fmt
  | none => f

/-- R211, R213, R217: on integer formats an element of VADD, VSUB, VMUL, VMIN, VMAX, VABS and VNEG is the exact result in the
destination's format, of the elements that the index selects or the register; SF saturates it. -/
def Sys2Proof.Claims.IntegerElements : Prop :=
  ∀ (v : VecOp) (d a : Slice) (g : Guard) (o : VecBin) (u : VecUn) (ix : List Nat) (lin : Nat), vecInt d.fmt = true →
    v.a = some a →
    let x := elemInt a.fmt (vecElem v a (served a ix))
    let y := elemInt (readAs v.b d.fmt) (rawAt v v.b d.fmt ix)
    let is := fun (i : Instr) (r : Int) => v.i = i → vecResult v d ix lin = (intElem d.fmt v.sf r, 0)
    is (.vadd g o) (x + y) ∧ is (.vsub g o) (x - y) ∧ is (.vmul g o) (x * y) ∧ is (.vmin g o) (if x ≤ y then x else y)
    ∧ is (.vmax g o) (if x ≤ y then y else x) ∧ is (.vabs g u) |x| ∧ is (.vneg g u) (-x)

/-- R93, R94, R211, R212, R217: on a floating destination the arithmetic instructions deliver their exact results through one
RoundTo, under the operation's mode, SR as RNE, and FTZ. -/
def Sys2Proof.Claims.FloatElements : Prop :=
  ∀ (v : VecOp) (d : Slice) (g : Guard) (o : VecBin) (u : VecUn) (td ta : Handle) (bc : FmaSrc) (ix : List Nat) (lin : Nat),
    scalarFloat d.fmt = true →
    let val := fun (x : Option Slice) => dazVal (readAs x d.fmt) v.daz (floatVal (readAs x d.fmt) (rawAt v x d.fmt ix))
    let a := val v.a
    let b := val v.b
    let m := if v.rm = 4 then 0 else v.rm
    let is := fun (i : Instr) (r : Exact × Flags) => v.i = i →
      let w := roundTo d.fmt r.1 ⟨m, false, v.ftz, 0⟩
      vecResult v d ix lin = (w.1, r.2 ||| w.2)
    let ex := fun (r : Val × Flags) => ((⟨r.1, false⟩, r.2) : Exact × Flags)
    is (.vadd g o) (ex (addVal m a b)) ∧ is (.vsub g o) (ex (addVal m a (negVal b))) ∧ is (.vmul g o) (ex (mulVal a b))
    ∧ is (.vfma g td ta bc) (ex (fmaVal m a b (val v.c))) ∧ is (.vdiv g o) (divVal a b) ∧ is (.vsqrt g u) (sqrtVal a)
    ∧ is (.vrsqrt g u) (rsqrtVal a) ∧ is (.vexp2 g u) (exp2Val a) ∧ is (.vlog2 g u) (log2Val a)
    ∧ is (.vmin g o) (ex (minVal a b, 0)) ∧ is (.vmax g o) (ex (maxVal a b, 0)) ∧ is (.vneg g u) (ex (negVal a, 0))
    ∧ (∀ neg n e, a = .fin neg n e → is (.vabs g u) (ex (.fin false n e, 0)))
    ∧ (∀ neg, a = .inf neg → is (.vabs g u) (ex (.inf false, 0))) ∧ (a = .nan → is (.vabs g u) (ex (.nan, 0)))

/-- R211, R218 to R220: VCMP writes 1 or 0, NV as FCMP; VSEL chooses by its mask and copies bits; VCVT converts, with the
element's linear index for SR. -/
def Sys2Proof.Claims.TestElements : Prop :=
  ∀ (v : VecOp) (d a : Slice) (g : Guard) (k : FCond) (td ta tb : Handle) (bt ct : TSrc) (u : VecUn) (ix : List Nat) (lin : Nat),
    v.a = some a →
    let w := vecElem v a (served a ix)
    let f := readAs v.b a.fmt
    let z := rawAt v v.b a.fmt ix
    let holds := fun (o : Int) => match k with
      | .eq => decide (o = 0) | .ne => decide (o ≠ 0) | .lt => decide (o < 0) | .le => decide (o ≤ 0)
      | .gt => decide (0 < o) | .ge => decide (0 ≤ o) | .un => false
    (v.i = .vcmp g k td ta bt → fmtFloat a.fmt = true →
      let o := cmpVal (dazVal a.fmt v.daz (floatVal a.fmt w)) (dazVal f v.daz (floatVal f z))
      vecResult v d ix lin = match o with
        | some n => ((if holds n then 1 else 0), 0)
        | none => ((if k = .ne ∨ k = .un then 1 else 0),
            if k = .lt ∨ k = .le ∨ k = .gt ∨ k = .ge then flNV else 0))
    ∧ (v.i = .vcmp g k td ta bt → fmtInt a.fmt = true → fmtInt f = true →
        let n := elemInt a.fmt w - elemInt f z
        vecResult v d ix lin = ((if holds n then 1 else 0), 0))
    ∧ (v.i = .vsel g td ta tb ct →
        vecResult v d ix lin = (if w ≠ 0 then rawAt v v.b d.fmt ix else rawAt v v.c d.fmt ix, 0))
    ∧ (v.i = .vcvt g u → fmtFloat d.fmt = true ∨ fmtInt d.fmt = true → fmtFloat a.fmt = true ∨ fmtInt a.fmt = true → v.rm ≤ 4 →
        ConvertsTo d.fmt a.fmt w v.daz v.ftz v.sf v.rm (srBits v.seed v.wid lin) (vecResult v d ix lin))

/-- R224 to R226: VTRANS, VPERM, VSHIFT and VBCAST copy the bits of the element that each names; an index of VPERM outside
the axis, an empty axis included, gives zeros, and a fill of VSHIFT the register's low bits. -/
def Sys2Proof.Claims.MoveElements : Prop :=
  ∀ (v : VecOp) (d a : Slice) (g : Guard) (td ta tb : Handle) (at_ : TSrc) (x y k : BitVec 3) (n : VAmt) (fill : Option Reg)
    (ix : List Nat) (lin : Nat),
    let amount : Int := match n with
      | .short i => i.toInt
      | .long i => i.toInt
    let extent := fun (z : Slice) => (z.ext.getD k.toNat 1 : Int)
    let is := fun (w : Nat) => vecResult v d ix lin = (w, 0)
    (v.i = .vbcast g td at_ → is (rawAt v v.a d.fmt ix))
    ∧ (v.a = some a →
      (v.i = .vtrans g td ta x y → is (vecElem v a ((ix.set x.toNat (ix.getD y.toNat 0)).set y.toNat (ix.getD x.toNat 0))))
      ∧ (v.i = .vperm g td ta tb k → ∀ b, v.b = some b →
          let j := elemInt b.fmt (vecElem v b (served b ix))
          is (if 0 ≤ j ∧ j < extent a then vecElem v a (ix.set k.toNat j.toNat) else 0))
      ∧ (v.i = .vshift g td ta k n fill →
          let j := (ix.getD k.toNat 0 : Int) - amount
          is (if fill = none then vecElem v a (ix.set k.toNat (j % extent d).toNat)
            else if 0 ≤ j ∧ j < extent d then vecElem v a (ix.set k.toNat j.toNat)
            else v.rx.toNat % 2 ^ fmtBits d.fmt)))

/-- R222, R223: VSCAN's element 0 along the axis is the first element brought into the destination's format; each further
one is Op of the one before, for the second of x0 exactly, and the next element, rounded, or wrapped or saturated, in the
destination's format, with the flags of every step. VRED's element is the last of them. -/
def Sys2Proof.Claims.ScanElements : Prop :=
  ∀ (v : VecOp) (d a : Slice) (g : Guard) (r : VecRed) (ix : List Nat) (lin : Nat), v.a = some a →
    let ax := r.axis.toNat
    let x := fun (j : Nat) => vecElem v a (ix.set ax j)
    let scan := fun (j : Nat) => vecResult { v with i := .vscan g r } d (ix.set ax j) lin
    ax < ix.length →
    (v.i = .vred g r → 0 < a.ext.getD ax 1 → vecResult v d ix lin = scan (a.ext.getD ax 1 - 1))
    ∧ (vecInt d.fmt = true →
        let num := fun (j : Nat) => elemInt a.fmt (x j)
        let op := fun (p q : Int) => match r.op with
          | .add => p + q
          | .min => if p ≤ q then p else q
          | .max => if p ≤ q then q else p
          | .and => elemInt d.fmt (BitVec.ofInt (fmtBits d.fmt) p &&& BitVec.ofInt (fmtBits d.fmt) q).toNat
          | .or => elemInt d.fmt (BitVec.ofInt (fmtBits d.fmt) p ||| BitVec.ofInt (fmtBits d.fmt) q).toNat
          | .xor => elemInt d.fmt (BitVec.ofInt (fmtBits d.fmt) p ^^^ BitVec.ofInt (fmtBits d.fmt) q).toNat
        scan 0 = (intElem d.fmt v.sf (num 0), 0)
        ∧ ∀ j, scan (j + 1) = (intElem d.fmt v.sf (op (if j = 0 then num 0 else elemInt d.fmt (scan j).1) (num (j + 1))), 0))
    ∧ (scalarFloat d.fmt = true → r.op = .add ∨ r.op = .min ∨ r.op = .max →
        let m := if v.rm = 4 then 0 else v.rm
        let val := fun (j : Nat) => dazVal a.fmt v.daz (floatVal a.fmt (x j))
        let rounds := fun (y : Val) => roundTo d.fmt ⟨y, false⟩ ⟨m, false, v.ftz, 0⟩
        let op := fun (p q : Val) => match r.op with
          | .min => (minVal p q, 0)
          | .max => (maxVal p q, 0)
          | _ => addVal m p q
        scan 0 = rounds (val 0)
        ∧ ∀ j, let e := op (if j = 0 then val 0 else floatVal d.fmt (scan j).1) (val (j + 1))
            let w := rounds e.1
            scan (j + 1) = (w.1, (if j = 0 then 0 else (scan j).2) ||| e.2 ||| w.2))

/-- R90, R221: VQUANT writes, for each block of 64 elements along axis 0, the scale k + 127 and the elements x / 2^k rounded
to the element format with saturation, k from the greatest magnitude of the block; a block that holds a NaN or an infinity
gets the scale FFH and zeros, with NV. -/
def Sys2Proof.Claims.QuantisedBlocks : Prop :=
  ∀ (v : VecOp) (d a : Slice) (g : Guard) (u : VecUn) (n : Nat), v.i = .vquant g u → v.d = some d → v.a = some a →
    v.out = none → vecNeeds v = [] → scalarFloat a.fmt = true → fmtBlock d.fmt = true → d.ext.length = 5 → d.ext.getD 0 0 % 64 = 0 → n < Slice.count d →
    let ix := unlin d.ext n
    let start := ix.getD 0 0 / 64 * 64
    let x := fun (i : Nat) => dazVal a.fmt v.daz (floatVal a.fmt (vecElem v a (ix.set 0 (start + i))))
    let finite := ∀ i, i < 64 → (ratOf (x i)).isSome = true
    let el : Fmt := if d.fmt = .bs8 then .e4m3 else .e2m1
    let high : Int := if d.fmt = .bs8 then 8 else 2
    let puts := fun (o : VecOut) (w scale : Nat) => (∀ y ∈ elemWrites d.fmt (elemAddr d ix).1.toNat (elemAddr d ix).2 w, y ∈ o.writes)
      ∧ ((scaleAddr d (ix.set 0 start)).toNat, 255, scale) ∈ o.writes
    ∃ o, vecOut v = some o ∧ o.reg = none
      ∧ (¬finite → puts o 0 0xFF ∧ o.flags.getLsbD 4 = true)
      ∧ (finite → ∃ k : Int,
          ((∀ i, i < 64 → ratOf (x i) = some 0) → k = -127)
          ∧ (∀ e : Int, (∃ i q, i < 64 ∧ ratOf (x i) = some q ∧ (2 : ℚ) ^ e ≤ |q|) →
              (∀ i q, i < 64 → ratOf (x i) = some q → |q| < (2 : ℚ) ^ (e + 1)) → k = min (max (e - high) (-127)) 127)
          ∧ ∀ s m e, x (ix.getD 0 0 - start) = .fin s m e →
              let w := roundTo el ⟨.fin s m (e - k), false⟩ ⟨if v.rm = 4 ∧ ¬ fmtBits el < fmtBits a.fmt then 0 else v.rm, true, false,
                srBits v.seed v.wid n⟩
              puts o w.1 (k + 127).toNat ∧ ∀ f, f < 5 → w.2.getLsbD f = true → o.flags.getLsbD f = true)

/-- R211 to R226: the values that the vector instructions give their elements. -/
def Obligations.VectorElements : Prop :=
  IntegerElements ∧ FloatElements ∧ TestElements ∧ MoveElements ∧ ScanElements ∧ QuantisedBlocks

/-! ### Matrix instructions -/

/-- R230, R234: where the core's queue holds fewer than four entries, the instruction adds one that meets `p`, at its first
step, uses up what FMT has left and retires; else it waits. No accumulator and no byte of memory changes. -/
def Sys2Proof.Claims.EntersQueue (i : Instr) (s : State) (p : MatEntry → Prop) : Prop :=
  let core := coreOf s.cur
  let old := s.core core
  (old.queue.length < 4 → ∃ t e, exec i s = .next t ∧ (t.core core).queue = old.queue ++ [e] ∧ p e ∧ e.by_.pos = s.cur
      ∧ e.kdone = 0 ∧ e.step = 0 ∧ e.half = none ∧ e.faulted = false ∧ e.granted = false ∧ e.since = s.cyc
      ∧ { t.core core with queue := old.queue } = old ∧ (∀ k, k ≠ core → t.core k = s.core k)
      ∧ here t = { here s with st := clearPP (here s).st, pc := (here s).pc + 12, refused := 0 } ∧ OthersSame s t
      ∧ SameMemory s t ∧ t.quires = s.quires)
  ∧ (4 ≤ old.queue.length → Waits i s)

/-- R232: the limits on the operands and on the region. -/
def Sys2Proof.Claims.RegionFits (m n k row0 col0 : Nat) (block : Bool) : Prop :=
  32 ≤ m ∧ m ≤ 128 ∧ m % 32 = 0 ∧ 32 ≤ n ∧ n ≤ 256 ∧ n % 32 = 0 ∧ 0 < k ∧ k ≤ 4096
    ∧ k % (if block then 64 else 32) = 0 ∧ row0 % 32 = 0 ∧ row0 + m ≤ 128 ∧ col0 % 32 = 0 ∧ col0 + n ≤ 256

/-- B of MMA and MMAS: a READY vat tile of the task, or a deckle's slice to be streamed (R231, R238). -/
def Sys2Proof.Claims.MatBIn (s : State) (b : MatB) (code : Nat) (y : Slice) : Prop :=
  match b with
  | .tile t => SourceIn s (some t) code (some y)
  | .dk d => ∃ z, memSlice s (quireOf s.cur) d (widRead (here s)) (here s).levels true = some z ∧ refmt code z = some y
      ∧ evenSlice y = true

/-- R233: an FMT payload with RMO 0 and SF 0. -/
def Sys2Proof.Claims.NoRounding (s : State) : Prop :=
  pfxField (pendingPfx (here s)) 13 3 = 0 ∧ pfxSF (pendingPfx (here s)) = false

/-- R151, R161: the bytes that an instruction reads of the vat at its issue lie on lines that are not leased or queued for and
have no reduction pending. -/
def Sys2Proof.Claims.IssueFree (s : State) (l : List Int) : Prop :=
  ∀ a ∈ l, let line := a.toNat / 32 / 4
    heldBack s (doerOf s s.cur) line = false ∧ leaseOn s line = none ∧ NonePending s line

/-- R151, R161, R177: what reads at issue come to: poison on a granule is a POISON trap; a lease of another thread, or a queue
behind one, makes the instruction wait. -/
def Sys2Proof.Claims.IssueMeets (i : Instr) (s : State) (l : List Int) : Prop :=
  (IssueFree s l → (∃ a ∈ l, poisoned s (a.toNat / 32 * 32) 32 = true) → TrapsWith i s .poison)
  ∧ ((∃ a ∈ l, heldBack s (doerOf s s.cur) (a.toNat / 32 / 4) = true) → Waits i s)

/-- R103, R230 to R234, R240: MMA with fitting operands makes its entry; under PSC the scale tiles fit the region, and
without PSC the scale handles are 0. -/
def Sys2Proof.Claims.MmaEnters : Prop :=
  ∀ (g : Guard) (acc : Bool) (ta : Handle) (b : MatB) (tsa tsw : Handle) (row0 col0 : BitVec 16) (s : State) (x y : Slice),
    IssuesVm g s → NoRounding s → SourceIn s (some ta) (codeA s) (some x) → MatBIn s b (codeB s) y →
    x.rank = 2 → y.rank = 2 →
    let m := x.ext.getD 1 1
    let n := y.ext.getD 1 1
    let k := x.ext.getD 0 0
    RegionFits m n k row0.toNat col0.toNat (fmtBlock x.fmt || fmtBlock y.fmt) → y.ext.getD 0 0 = k →
    pairOk x.fmt y.fmt = true →
    let psc := pfxPSC (pendingPfx (here s))
    ∀ sc : Option (Slice × Slice),
      (match sc with
       | none => psc = false ∧ tsa = 0 ∧ tsw = 0
       | some (u, w) => psc = true ∧ fmtInt x.fmt = false ∧ k % 128 = 0 ∧ TileIn s tsa u ∧ TileIn s tsw w
           ∧ u.rank = 2 ∧ w.rank = 2 ∧ u.fmt = .f32 ∧ w.fmt = .f32 ∧ u.ext.getD 0 0 = k / 128 ∧ u.ext.getD 1 1 = m
           ∧ w.ext.getD 0 0 = (n + 127) / 128 ∧ w.ext.getD 1 1 = k / 128) →
      EntersQueue (.mma g acc ta b tsa tsw row0 col0) s fun e =>
        e.kind = .mma ∧ e.acc = acc ∧ e.a = x ∧ e.groups = [⟨m, y⟩] ∧ e.scales = sc ∧ e.row0 = row0.toNat
          ∧ e.col0 = col0.toNat ∧ e.m = m ∧ e.n = n ∧ e.k = k ∧ e.grp = 0

/-- R109, R110, R241: MMAS with fitting operands reads its metadata at issue, from its tile's first byte; entries whose indices
rise strictly, with the unused bits 0, make its queue entry, another is a SPARSE trap. A tile that does not hold the metadata
is an OPERAND trap. -/
def Sys2Proof.Claims.MmasEnters : Prop :=
  ∀ (g : Guard) (keep : Keep) (acc : Bool) (ta : Handle) (b : MatB) (tm : Handle) (row0 col0 : BitVec 16) (s : State)
    (x y u : Slice), IssuesVm g s → NoRounding s → pfxPSC (pendingPfx (here s)) = false →
    SourceIn s (some ta) (codeA s) (some x) → MatBIn s b (codeB s) y → TileIn s tm u → x.rank = 2 → y.rank = 2 → u.rank = 1 →
    u.fmt = .n8 →
    let kept := match keep with
      | .k4 => 4 | .k8 => 8 | .k16 => 16
    let m := x.ext.getD 1 1
    let n := y.ext.getD 1 1
    let k := x.ext.getD 0 0 * 32 / kept
    let count := m * (k / 32)
    let first := (elemAddr u []).1
    let places := (List.range (count * kept)).map fun (i : Nat) => first + (i : Int)
    let md := places.map fun a => Memory.read s.mem a.toNat
    let entry := fun (z : Nat) => ofBytes ((md.drop (z * kept)).take kept)
    x.ext.getD 0 0 % kept = 0 → RegionFits m n k row0.toNat col0.toNat false → y.ext.getD 0 0 = k →
    pairOk x.fmt y.fmt = true → x.fmt ≠ .f32 → fmtBlock x.fmt = false →
    let good := ∀ z, z < count → entry z / 2 ^ (5 * kept) % 2 ^ (3 * kept) = 0
      ∧ ∀ j, j + 1 < kept → entry z / 2 ^ (5 * j) % 32 < entry z / 2 ^ (5 * (j + 1)) % 32
    let i := Instr.mmas g keep acc ta b tm row0 col0
    let clean := ∀ a ∈ places, poisoned s (a.toNat / 32 * 32) 32 = false
    let held := first.toNat + count * kept ≤ u.hi
    (held → IssueFree s places → clean →
      (good → EntersQueue i s fun e => e.kind = .mmas keep md ∧ e.acc = acc ∧ e.a = x ∧ e.groups = [⟨m, y⟩] ∧ e.scales = none
        ∧ e.row0 = row0.toNat ∧ e.col0 = col0.toNat ∧ e.m = m ∧ e.n = n ∧ e.k = k ∧ e.grp = 0)
      ∧ (¬ good → TrapsWith i s .sparse))
    ∧ (held → IssueMeets i s places) ∧ (¬ held → TrapsWith i s .operand)

/-- R242, R243: MMG reads its group table at issue; with fitting groups, whose rows add up to A's, it makes its entry at the
first group that has rows. -/
def Sys2Proof.Claims.MmgEnters : Prop :=
  ∀ (g : Guard) (mem acc : Bool) (ta tg : Handle) (row0 col0 : BitVec 16) (s : State) (x u : Slice) (l : List Grp) (y0 : Grp),
    IssuesVm g s → NoRounding s → pfxPSC (pendingPfx (here s)) = false →
    SourceIn s (some ta) (codeA s) (some x) → TileIn s tg u → x.rank = 2 → u.rank = 1 → u.fmt = .n8 →
    let places := (Slice.indices u).map fun ix => (elemAddr u ix).1
    let table := groupTable (places.map fun a => Memory.read s.mem a.toNat)
    let m := x.ext.getD 1 1
    let n := y0.b.ext.getD 1 1
    let k := x.ext.getD 0 0
    Slice.count u % 16 = 0 → 1 ≤ table.length → table.length ≤ 16 →
    (∀ e ∈ table, e / 2 ^ 32 % 2 ^ 16 = 0 ∧ e % 2 ^ 32 % 32 = 0
      ∧ (mem = true → e / 2 ^ 56 % 2 ^ 8 = 0 ∧ e / 2 ^ 48 % 2 ^ 8 < 64)
      ∧ (mem = false → e / 2 ^ 64 % 2 ^ 64 = 0 ∧ e / 2 ^ 48 % 2 ^ 8 = 0 ∧ ∃ z, TileIn s (BitVec.ofNat 8 (e / 2 ^ 56)) z)) →
    grpList s (here s) mem (codeB s) table = some l → l.head? = some y0 → (l.map fun y => y.rows).sum = m →
    (∀ y ∈ l, y.b.ext.getD 1 1 = n ∧ y.b.fmt = y0.b.fmt ∧ y.b.ext.getD 0 0 = k) →
    RegionFits m n k row0.toNat col0.toNat (fmtBlock x.fmt || fmtBlock y0.b.fmt) → pairOk x.fmt y0.b.fmt = true →
    IssueFree s places → (∀ a ∈ places, poisoned s (a.toNat / 32 * 32) 32 = false) →
    EntersQueue (.mmg g mem acc ta tg row0 col0) s fun e =>
      e.kind = .mmg ∧ e.acc = acc ∧ e.a = x ∧ e.groups = l ∧ e.scales = none ∧ e.row0 = row0.toNat ∧ e.col0 = col0.toNat
        ∧ e.m = m ∧ e.n = n ∧ e.k = k
        ∧ ∃ y, l[e.grp]? = some y ∧ y.rows ≠ 0 ∧ ∀ i, i < e.grp → ∀ z, l[i]? = some z → z.rows = 0

/-- R244 to R246, R17: MZERO and MST make their entries, MST with SEED and WID as read at issue; MWAIT ends at once where
the queue is empty, else waits for the entries that stand in it, and uses up what FMT has left when it ends. -/
def Sys2Proof.Claims.OtherMatrix : Prop :=
  ∀ (g : Guard) (acc s32 sf : Bool) (td : Handle) (row0 col0 : BitVec 16) (s : State) (d : Slice), IssuesVm g s →
    let p := pendingPfx (here s)
    let queue := (s.core (coreOf s.cur)).queue
    EntersQueue (.mzero g acc) s (fun e => e.kind = .mzero ∧ e.acc = acc)
    ∧ (pfxFA p = 0 → pfxFB p = 0 → pfxPSC p = false → TileIn s td d → d.rank = 2 →
        fmtFloat d.fmt = true ∨ fmtInt d.fmt = true → row0.toNat + d.ext.getD 1 1 ≤ 128 → col0.toNat + d.ext.getD 0 0 ≤ 256 →
        EntersQueue (.mst g s32 sf acc td row0 col0) s fun e =>
          e.kind = .mst s32 (sf || pfxSF p) (rmWith p (here s)) (here s).seed (widRead (here s)) ∧ e.acc = acc
            ∧ e.td = some d ∧ e.row0 = row0.toNat ∧ e.col0 = col0.toNat)
    ∧ (queue = [] → ∃ t, exec (.mwait g) s = .next t ∧ Retires s t { here s with st := clearPP (here s).st } 12)
    ∧ (queue ≠ [] → ∃ t, exec (.mwait g) s = .next t ∧ SameElsewhere s t ∧ OthersSame s t
        ∧ here t = { here s with wait := .mwait (queue.map (·.id)) })

/-- R103, R109, R110, R230 to R234, R240 to R246: what the matrix instructions do at issue. -/
def Sys2Proof.Claims.MatrixEnters : Prop := MmaEnters ∧ MmasEnters ∧ MmgEnters ∧ OtherMatrix

/-- R17, R246: WAIT_RETEST puts a waiting context back for its test, and ends an MWAIT whose entries have all left its
core's queue. -/
def Sys2Proof.Claims.Retest : Prop :=
  ∀ (pos : Nat) (s : State), (s.ctx pos).run = .running →
    let c := s.ctx pos
    let out := fun (d : Ctx) => ∃ t, exec (.waitRetest pos) s = .next t ∧ t.ctx pos = d ∧ SameButQuires s t
      ∧ t.quires = s.quires ∧ ∀ p, p ≠ pos → t.ctx p = s.ctx p
    (c.wait = .retest → out { c with wait := .none })
    ∧ (∀ ids, c.wait = .mwait ids → (∀ e ∈ (s.core (coreOf pos)).queue, e.id ∉ ids) →
        out { c with wait := .none, st := clearPP c.st, pc := c.pc + 12, refused := 0 })

/-! ### The matrix unit -/

/-- A head entry whose next step cannot start: a streamed read of it has failed, or a vat granule of it is poisoned (R248). -/
def Sys2Proof.Claims.StepFails (s : State) (core : Nat) (x : Trap) : Prop :=
  ∃ e, headOf s core = some e ∧ e.granted = false ∧ e.faulted = false ∧ stepFail s e = some x

/-- R236, R237: with the unit free, no step granted and none failing, STEP_GRANT goes to the core at p while it is ready and u
is below its weight, else to the first ready core after p, wrapping, with u ← 1; the granted step holds the unit for its
cycles. -/
def Sys2Proof.Claims.GrantRotates : Prop :=
  ∀ (q : Nat) (s : State), (∀ i, i < 8 → ∀ e, headOf s (8 * q + i) = some e → e.granted = false) →
    (∀ i x, i < 8 → ¬ StepFails s (8 * q + i) x) → (s.quire q).unitFree ≤ s.cyc →
    let p := (s.quire q).arbP
    let u := (s.quire q).arbU
    let ready := fun i => coreReady s (8 * q + i) = true
    let grants := fun (c u' : Nat) => ∃ t e, exec (.stepGrant q) s = .next t ∧ headOf s (8 * q + c) = some e
      ∧ headOf t (8 * q + c) = some { e with granted := true, cur := e.got, got := [] } ∧ (t.quire q).arbP = c
      ∧ (t.quire q).arbU = u' ∧ (t.quire q).unitFree = s.cyc + stepCycles e ∧ SameMemory s t ∧ t.ctxs = s.ctxs
      ∧ ∀ k, k ≠ 8 * q + c → t.core k = s.core k
    (ready p → u < weightOf s (8 * q + p) → grants p (u + 1))
    ∧ (¬ (ready p ∧ u < weightOf s (8 * q + p)) → ∀ n, n < 8 → ready ((p + 1 + n) % 8) →
        (∀ k, k < n → ¬ ready ((p + 1 + k) % 8)) → grants ((p + 1 + n) % 8) 1)

/-- R248: where the next step of a head entry cannot start, STEP_GRANT faults the entry: its progress stays, its held half and
its reads are dropped, and one record names the cause, the entry's instruction and thread, GRP and k_done; the issuing
context runs on. -/
def Sys2Proof.Claims.StepFaults : Prop :=
  ∀ (q i : Nat) (e : MatEntry) (x : Trap) (s : State), i < 8 → headOf s (8 * q + i) = some e → e.granted = false →
    e.faulted = false → stepFail s e = some x → (∀ k y, k < i → ¬ StepFails s (8 * q + k) y) →
    ∃ t, exec (.stepGrant q) s = .next t ∧ (t.core (8 * q + i)).acc = (s.core (8 * q + i)).acc
      ∧ (t.core (8 * q + i)).promo = (s.core (8 * q + i)).promo ∧ (∀ p, Roused (s.ctx p) (t.ctx p))
      ∧ (∃ e', headOf t (8 * q + i) = some e' ∧ e'.id = e.id ∧ e'.faulted = true ∧ e'.half = none ∧ e'.got = [] ∧ e'.grp = e.grp
          ∧ e'.kdone = e.kdone ∧ e'.step = e.kdone / 32)
      ∧ ∀ n, e.by_.part = some n → ∃ r, ((t.part n).recs = (s.part n).recs ++ [r]
            ∨ ((t.part n).recs = (s.part n).recs ∧ (t.part n).unposted = (s.part n).unposted ++ [r]))
          ∧ r.trap = x ∧ r.src = .matrix (8 * q + i) e.id ∧ r.pc = e.by_.pc ∧ r.slotgen = e.by_.slotgen ∧ r.grp = e.grp
          ∧ r.kdone = e.kdone

/-- A word of an accumulator of a core, and of its promotion accumulator. -/
def Sys2Proof.Claims.accWord (k : Core) (m : Bool) (i j : Nat) : BitVec 32 :=
  Sparse.get 0 k.acc ((if m then 32768 else 0) + 256 * i + j)
def Sys2Proof.Claims.promoWord (k : Core) (m : Bool) (i j : Nat) : BitVec 32 :=
  Sparse.get 0 k.promo ((if m then 32768 else 0) + 256 * i + j)

/-- R109, R110: what A holds in row `i` at place `k` of the entry's step: the element, or under MMAS the kept element that the
metadata puts there, else nothing. -/
def Sys2Proof.Claims.aAt (e : MatEntry) (i k : Nat) : Option Nat :=
  match e.kind with
  | .mmas keep md =>
    let n := match keep with
      | .k4 => 4 | .k8 => 8 | .k16 => 16
    let entry := ofBytes ((md.drop ((i * (e.k / 32) + e.step) * n)).take n)
    ((List.range n).find? fun j => entry / 2 ^ (5 * j) % 32 == k).map fun j => stepElem e e.a [e.step * n + j, i]
  | _ => some (stepElem e e.a [32 * e.step + k, i])

/-- The group that an entry works on, and the rows of A before it. -/
def Sys2Proof.Claims.groupB (e : MatEntry) : Slice := (grpAt e e.grp).b
def Sys2Proof.Claims.rowsBefore (e : MatEntry) : Nat := ((e.groups.take e.grp).map (·.rows)).sum

/-- R104, R105: the exact sum of a step's products of row `i` and column `j`: the sum of the products where all elements are
finite, and NaN where one is a NaN. -/
def Sys2Proof.Claims.SumOfStep (e : MatEntry) (i j : Nat) (v : Val) : Prop :=
  let a := fun (k : Nat) => match aAt e i k with
    | some w => floatVal (elemFmt e.a.fmt) w
    | none => .fin false 0 0
  let b := fun (k : Nat) => floatVal (elemFmt (groupB e).fmt) (stepElem e (groupB e) [32 * e.step + k, j])
  (∀ x y : Nat → ℚ, (∀ k, k < 32 → ratOf (a k) = some (x k) ∧ ratOf (b k) = some (y k)) →
    ratOf v = some (((List.range 32).map fun k => x k * y k).sum))
  ∧ ((∃ k, k < 32 ∧ (a k = .nan ∨ b k = .nan)) → v = .nan)

/-- R104: the exact sum of a chunk of row `i` and column `j` that the step ends: the step's, for a block-scaled pairing with
the held half added and times the two block scales. -/
def Sys2Proof.Claims.SumOfChunk (e : MatEntry) (i j : Nat) (v : Val) : Prop :=
  let r := rowsBefore e
  ∃ d, SumOfStep e (r + i) j d ∧
    if fmtBlock e.a.fmt then
      let t := match e.half with
        | some h => (addVal 0 (h.getD (i * e.n + j) (.fin false 0 0)) d).1
        | none => d
      v = (mulVal (mulVal t (scaleVal (stepScale e e.a [32 * e.step, r + i]))).1
        (scaleVal (stepScale e (groupB e) [32 * e.step, j]))).1
    else v = d

/-- RoundTo(x + y, FP32, RNE) on FP32 words (R104, R107). -/
def Sys2Proof.Claims.addTo (w : BitVec 32) (v : Val) : BitVec 32 :=
  BitVec.ofNat 32 (roundTo .f32 ⟨(addVal 0 (floatVal .f32 w.toNat) v).1, false⟩ ⟨0, false, false, 0⟩).1

/-- R104, R106, R107: the words that a step makes of an accumulator's word `c` and its promotion accumulator's `p`, in row `i`
and column `j` of its group. -/
def Sys2Proof.Claims.StepMakes (e : MatEntry) (i j : Nat) (c p c' p' : BitVec 32) : Prop :=
  let ends := fmtBlock e.a.fmt = false ∨ e.step % 2 = 1
  (fmtInt e.a.fmt = true →
    let a := fun (k : Nat) => match aAt e (rowsBefore e + i) k with
      | some w => elemInt e.a.fmt w
      | none => 0
    p' = p ∧ c' = c + BitVec.ofInt 32 (((List.range 32).map fun k =>
      a k * elemInt (groupB e).fmt (stepElem e (groupB e) [32 * e.step + k, j])).sum))
  ∧ (fmtInt e.a.fmt = false → ¬ ends → c' = c ∧ p' = p)
  ∧ (fmtInt e.a.fmt = false → ends → ∃ v, SumOfChunk e i j v ∧
      match e.scales with
      | none => c' = addTo c v ∧ p' = p
      | some (x, y) =>
        let first := if fmtBlock e.a.fmt then e.step % 4 = 1 else e.step % 4 = 0
        p' = addTo (if first then 0 else p) v
        ∧ (e.step % 4 ≠ 3 → c' = c)
        ∧ (e.step % 4 = 3 →
            let scale := fun (z : Slice) (ix : List Nat) => floatVal .f32 (stepElem e z ix)
            let z := (mulVal (mulVal (floatVal .f32 p'.toNat) (scale x [e.step / 4, rowsBefore e + i])).1
              (scale y [j / 128, e.step / 4])).1
            c' = addTo c (floatVal .f32 (roundTo .f32 ⟨z, false⟩ ⟨0, false, false, 0⟩).1)))

/-- R104 to R107, R109, R110, R235, R240, R243: the granted step of an MMA, MMAS or MMG entry, its vat granules read and its
cycles over, brings every word of its region to what its arithmetic makes of it and changes no other word; a block-scaled
step that does not end its chunk holds its sums. The entry goes to its next step, to the first step of its next group that
has rows, or out of the queue. -/
def Obligations.TileSteps : Prop :=
  ∀ (q c : Nat) (e : MatEntry) (rest : List MatEntry) (s : State), c < 8 →
    (∀ i, i < 8 → i ≠ c → ∀ x, headOf s (8 * q + i) = some x → x.granted = false) →
    let core := 8 * q + c
    let rows := (grpAt e e.grp).rows
    let top := e.row0 + rowsBefore e
    (s.core core).queue = e :: rest → e.granted = true → vatNeeds e = [] → (s.quire q).unitFree ≤ s.cyc →
    pairOk e.a.fmt (groupB e).fmt = true → (fmtBlock e.a.fmt = false → e.half = none) → top + rows ≤ 128 →
    e.col0 + e.n ≤ 256 →
    ∃ t, exec (.tileStep q) s = .next t ∧ SameMemory s t ∧ t.ctxs = s.ctxs
      ∧ (∀ i j, i < rows → j < e.n →
          StepMakes e i j (accWord (s.core core) e.acc (top + i) (e.col0 + j)) (promoWord (s.core core) e.acc (top + i) (e.col0 + j))
            (accWord (t.core core) e.acc (top + i) (e.col0 + j)) (promoWord (t.core core) e.acc (top + i) (e.col0 + j)))
      ∧ (∀ m i j, i < 128 → j < 256 → ¬ (m = e.acc ∧ top ≤ i ∧ i < top + rows ∧ e.col0 ≤ j ∧ j < e.col0 + e.n) →
          accWord (t.core core) m i j = accWord (s.core core) m i j ∧ promoWord (t.core core) m i j = promoWord (s.core core) m i j)
      ∧ (32 * (e.step + 1) < e.k → ∃ e', (t.core core).queue = e' :: rest ∧ e'.id = e.id ∧ e'.grp = e.grp ∧ e'.step = e.step + 1
          ∧ e'.granted = false
          ∧ (fmtBlock e.a.fmt = false ∨ e.step % 2 = 1 → e'.kdone = 32 * (e.step + 1) ∧ e'.half = none)
          ∧ (fmtBlock e.a.fmt = true → e.step % 2 = 0 → e'.kdone = e.kdone ∧ ∃ h, e'.half = some h
              ∧ ∀ i j, i < rows → j < e.n → SumOfStep e (rowsBefore e + i) j (h.getD (i * e.n + j) (.fin false 0 0))))
      ∧ (e.k ≤ 32 * (e.step + 1) →
          (∀ g y, e.grp < g → e.groups[g]? = some y → y.rows ≠ 0 →
            (∀ k z, e.grp < k → k < g → e.groups[k]? = some z → z.rows = 0) →
            ∃ e', (t.core core).queue = e' :: rest ∧ e'.id = e.id ∧ e'.grp = g ∧ e'.step = 0 ∧ e'.kdone = 0 ∧ e'.granted = false)
          ∧ ((∀ g y, e.grp < g → e.groups[g]? = some y → y.rows = 0) →
            (t.core core).queue.map (·.id) = rest.map (·.id)))

/-- R238, R239: MATRIX_OPERAND_READ takes one granule as it stands at its Home: of a streamed B, for the head entry's next
step, or of the vat, within its granted step. A poisoned granule of the vat faults the entry. -/
def Sys2Proof.Claims.OperandReads : Prop :=
  ∀ (core : Nat) (e : MatEntry) (s : State), headOf s core = some e →
    e.kind = .mma ∨ (∃ k md, e.kind = .mmas k md) ∨ e.kind = .mmg → e.faulted = false →
    (∀ (g st : Nat) (va : Word) (s1 : State) (l : Loc) (ls : List Loc), e.fail = none → readStep e = some (g, st) →
      (grpAt e g).b.vat = false → granSize l.pa = 32 →
      (∃ a ∈ stepB e g st, (BitVec.ofInt 64 a).toNat / 32 = va.toNat / 32 ∧ heldAddr e.got (BitVec.ofInt 64 a).toNat = false) →
      resolve s (e.by_.who (quireOfCore core)) va .eread = (s1, .ok (.locs (l :: ls))) →
      DoerAtHome s1 (streamDoer core e)
        ⟨l.pa / 32 * 32, 32, l.coh, BitVec.ofNat 64 (va.toNat / 32 * 32), .eread, .v, .read⟩ →
      poisoned s1 (l.pa / 32 * 32) 32 = false →
      ∃ t, exec (.matrixOperandRead core false va) s = .next t ∧ SameMemory s1 t
        ∧ headOf t core = some { e with
            got := e.got ++ [(va.toNat / 32 * 32, Memory.readBytes s1.mem (l.pa / 32 * 32) 32)] })
    ∧ (∀ va : Word, e.granted = true → va.toNat / 32 ∈ vatNeeds e →
        DoerAtHome s (streamDoer core e) (vatEv (va.toNat / 32) .eread .read) →
        let g := va.toNat / 32
        (poisoned s (32 * g) 32 = false → ∃ t, exec (.matrixOperandRead core true va) s = .next t ∧ SameMemory s t
          ∧ headOf t core = some { e with cur := e.cur ++ [(vatKey (32 * g), Memory.readBytes s.mem (32 * g) 32)] })
        ∧ (poisoned s (32 * g) 32 = true → ∃ s1 y, exec (.matrixOperandRead core true va) s = .next (matFault s1 core e y)
          ∧ SameMemory s s1 ∧ y.cause = .poison))

/-- R98, R99, R216, R244, R245: MZERO_ENTRY_RUN clears every word of the accumulator and of its promotion accumulator and ends
the entry. MST_ENTRY_RUN writes one granule in a move; put into any memory, what it writes makes every element of its tile the
accumulator's word, as it is for FP32 to FP32 and INT32 to S32 and else converted, and changes no other byte; with all of
them written, and its cycles over, the entry ends. -/
def Sys2Proof.Claims.EntriesRun : Prop :=
  ∀ (core : Nat) (e : MatEntry) (rest : List MatEntry) (s : State), (s.core core).queue = e :: rest →
    let leaves := fun (t : State) => (t.core core).queue.map (·.id) = rest.map (·.id) ∧ SameMemory s t ∧ t.ctxs = s.ctxs
    (e.kind = .mzero → e.since + 1 ≤ s.cyc → ∃ t, exec (.mzeroEntryRun core) s = .next t ∧ leaves t
      ∧ ∀ m i j, i < 128 → j < 256 →
          accWord (t.core core) m i j = (if m = e.acc then 0 else accWord (s.core core) m i j)
          ∧ promoWord (t.core core) m i j = (if m = e.acc then 0 else promoWord (s.core core) m i j))
    ∧ (∀ s32 sf rm seed wid d, e.kind = .mst s32 sf rm seed wid → e.td = some d → e.faulted = false →
        (∀ g, g ∈ mstNeeds e → DoerAtHome s (mstDoer core e) (vatEv g .ewrite (.write [])) →
          ∃ t, exec (.mstEntryRun core (some g)) s = .next t ∧ (∀ p, Roused (s.ctx p) (t.ctx p))
            ∧ (∀ a, Memory.read t.mem a =
                Memory.read (((mstWrites s core e).filter fun w => w.1 / 32 == g).foldl writeBitsMem s.mem) a)
            ∧ (t.core core).acc = (s.core core).acc ∧ (t.core core).queue = { e with got := e.got ++ [(g, [])] } :: rest)
        ∧ (mstNeeds e = [] → e.since + (e.m * e.n + 1023) / 1024 ≤ s.cyc → ∃ t, exec (.mstEntryRun core none) s = .next t
          ∧ leaves t ∧ (t.core core).acc = (s.core core).acc)
        ∧ (Apart d → ∀ m,
            let m' := (mstWrites s core e).foldl writeBitsMem m
            (∀ a : Nat, (a : Int) ∉ sliceBytes d → Memory.read m' a = Memory.read m a)
            ∧ ∀ n, n < Slice.count d →
                let ix := unlin d.ext n
                let i := e.row0 + ix.getD 1 0
                let j := e.col0 + ix.getD 0 0
                let w := (accWord (s.core core) e.acc i j).toNat
                let c : Fmt := if s32 then .s32 else .f32
                (c = d.fmt → elemOfMem m' d ix = w)
                ∧ (c ≠ d.fmt → rm ≤ 4 → fmtFloat d.fmt = true ∨ fmtInt d.fmt = true →
                    ∃ r, ConvertsTo d.fmt c w false false sf rm (srBits seed wid (256 * i + j)) r
                      ∧ elemOfMem m' d ix = r.1 % 2 ^ fmtBits d.fmt)))

def Obligations.MatrixUnit : Prop := GrantRotates ∧ StepFaults ∧ OperandReads ∧ EntriesRun

/-! ### Caches and the directory -/

/-- A request at the Order Point of die `die`, where its line is homed: from that die, or the first of its die-link queue. -/
def Sys2Proof.Claims.AtOrderPoint (s : State) (die : Nat) (r : CohReq) : Prop :=
  die < 4 ∧ r.die < 4 ∧ r.core / 256 = r.die ∧ homeDie r.line = some die ∧ cacheable r.line = true
    ∧ (r.kind = .read ∨ r.kind = .own) ∧ (r.die = die ∨ firstReq s r.die die = some r)
    ∧ inQueue s (.req r) r.line = false

/-- R310, R312: the Order Point of a line's die recalls the line from another die that owns it, and else sequences the request
and updates the directory entry: a read makes its die a sharer and an ownership its owner with the next version, where the
requester's partition has remote-data cache ways there; an ownership takes the line from every other die. -/
def Sys2Proof.Claims.OrderPoint : Prop :=
  ∀ (die : Nat) (r : CohReq) (s : State), AtOrderPoint s die r → heldBack s (reqDoer r) r.line = false →
    (∀ c ∈ (s.die die).recalls, c.line ≠ r.line) →
    let x := dirAt s r.line
    let room := rdcWays s r.part r.die ≠ 0
    let goes := fun (t : State) => exec (.orderPointTake die r) s = .next t ∧ SameMemory s t ∧ t.ctxs = s.ctxs
      ∧ (r.die ≠ die → (t.die r.die).reqs = (s.die r.die).reqs.erase r)
    (x.owned = true → x.owner.toNat ≠ r.die → ∃ t, goes t
      ∧ (t.die die).recalls = (s.die die).recalls ++ [⟨r.line, x.owner.toNat, r⟩] ∧ (t.die die).seq = (s.die die).seq
      ∧ ∀ l, dirAt t l = dirAt s l)
    ∧ (x.owned = false ∨ x.owner.toNat = r.die → ∃ t, goes t
      ∧ (t.die die).seq = (s.die die).seq ++ [r] ∧ (∀ l, l ≠ r.line → dirAt t l = dirAt s l)
      ∧ (r.kind = .read → dirAt t r.line =
          if r.die ≠ die ∧ x.owned = false ∧ room then { x with shr := x.shr ||| BitVec.ofNat 4 (2 ^ r.die) } else x)
      ∧ (r.kind = .own → dirAt t r.line =
          if r.die = die then { x with owned := false, owner := 0, shr := 0 }
          else if x.owned = true then x
          else if room then ⟨x.ver + 1, true, BitVec.ofNat 2 r.die, 0⟩ else { x with shr := 0 })
      ∧ (r.die ≠ die → x.owned = false → room →
          rdcAt t r.die r.line = if r.kind = .read then (.shared, x.ver) else (.modified, x.ver + 1))
      ∧ (r.kind = .own → ∀ e, e < 4 → e ≠ r.die → e ≠ die → rdcAt t e r.line = (.none, 0)
          ∧ ∀ core, core / 256 = e → l1dAt t core r.line = .none))

/-- R161, R310, R313, R315, R362: a request for a line homed on another die enters the die link's queue; one for a leased line
waits in the line's queue; one for a host line is taken on its own die, where its line is then held, and an ownership takes it
from the other dies. -/
def Sys2Proof.Claims.RequestsWait : Prop :=
  (∀ (die home : Nat) (r : CohReq) (s : State), die < 4 → r.die = die → r.core / 256 = die → homeDie r.line = some home →
    home ≠ die → r.kind = .read ∨ r.kind = .own → linkDown s die home = false →
    (∀ w ∈ (s.die die).leaving, w.line ≠ r.line) →
    ∃ t, exec (.orderPointTake die r) s = .next t ∧ (t.die die).reqs = (s.die die).reqs ++ [r] ∧ SameMemory s t
      ∧ t.ctxs = s.ctxs ∧ t.quires = s.quires ∧ ∀ e, (t.die e).seq = (s.die e).seq)
  ∧ (∀ (die : Nat) (r : CohReq) (s : State), AtOrderPoint s die r → heldBack s (reqDoer r) r.line = true →
    ∃ t, exec (.orderPointTake die r) s = .next t ∧ SameMemory s t ∧ t.ctxs = s.ctxs ∧ t.quires = s.quires
      ∧ (t.die die).seq = (s.die die).seq)
  ∧ (∀ (r : CohReq) (s : State), r.die < 4 → r.core / 256 = r.die → rangeOf (128 * r.line) = .cxl →
    r.kind = .read ∨ r.kind = .own →
    ∃ t, exec (.orderPointTake r.die r) s = .next t ∧ (t.die r.die).seq = (s.die r.die).seq ++ [r] ∧ SameMemory s t
      ∧ t.ctxs = s.ctxs ∧ t.quires = s.quires
      ∧ (r.fill = true → rdcWays s r.part r.die ≠ 0 →
          rdcAt t r.die r.line = (if r.kind = .read then .shared else .modified, 0))
      ∧ ∀ e, e < 4 → e ≠ r.die → (r.kind = .own → (rdcAt t e r.line).1 = .none)
        ∧ (r.kind = .read → (rdcAt t e r.line).1 ≠ .modified))

/-- R309, R313: a line that leaves a die's remote-data cache leaves its L1Ds too, and modified goes into the leaving buffer with
its bytes and the version that it was granted with; a modified line of an L1D of the home die goes back to its slice. -/
def Sys2Proof.Claims.Evictions : Prop :=
  ∀ (die : Nat) (r : CohReq) (s : State), die < 4 → r.die = die → r.core / 256 = die → r.kind = .writeBack →
    let h := rdcAt s die r.line
    (homeDie r.line ≠ some die → h.1 ≠ .none → ∃ t, exec (.orderPointTake die r) s = .next t ∧ SameMemory s t
      ∧ t.ctxs = s.ctxs ∧ rdcAt t die r.line = (.none, 0) ∧ (∀ core, core / 256 = die → l1dAt t core r.line = .none)
      ∧ (h.1 = .shared → (t.die die).leaving = (s.die die).leaving)
      ∧ (h.1 = .modified → (homeDie r.line).isSome = true →
          ∃ w, (t.die die).leaving = (s.die die).leaving ++ [w] ∧ w.line = r.line ∧ w.ver = h.2 ∧ w.mask = 2 ^ 128 - 1
            ∧ w.data = Memory.readBytes s.mem (128 * r.line) 128))
    ∧ (homeDie r.line = some die → l1dAt s r.core r.line = .modified →
        ∃ t, exec (.orderPointTake die r) s = .next t ∧ SameMemory s t ∧ t.ctxs = s.ctxs
          ∧ l1dAt t r.core r.line = .none ∧ (t.die die).seq = (s.die die).seq ++ [r])

/-- R310, R318: at the delivery of the oldest request of a die's sequence the L1Ds of its other cores that act on it lose the
line to an ownership or a host's snoop, and keep no modified holding at a read; the others' stay; the requester holds it, modified
after an ownership, where it asked for the line. -/
def Sys2Proof.Claims.Notified : Prop :=
  ∀ (die : Nat) (r : CohReq) (rest : List CohReq) (s : State), (s.die die).seq = r :: rest → cacheable r.line = true →
    NonePending s r.line →
    ∃ t, exec (.notificationDelivery die) s = .next t ∧ (t.die die).seq = rest ∧ SameMemory s t ∧ t.ctxs = s.ctxs
      ∧ (∀ core, core / 256 = die → core ≠ r.core →
          let before := l1dAt s core r.line
          let after := l1dAt t core r.line
          (inKey s core r = true → r.kind = .own ∨ r.kind = .hostSnoop → after = .none)
          ∧ (inKey s core r = true → r.kind = .read → after ≠ .modified ∧ (before ≠ .none → after = .shared))
          ∧ (inKey s core r = false → after = before))
      ∧ (∀ core, core / 256 ≠ die → l1dAt t core r.line = l1dAt s core r.line)
      ∧ (r.fill = true → r.core / 256 = die → r.kind = .own → l1dAt t r.core r.line = .modified)
      ∧ (r.fill = true → r.core / 256 = die → r.kind = .read →
          l1dAt t r.core r.line = if l1dAt s r.core r.line = .modified then .modified else .shared)

/-- R312, R313, R316: the response to an owner's oldest recall puts the waiting request into the sequence, leaving the owner's
copy shared after a read and gone after an ownership; a write-back, the oldest between its dies, takes effect only while the
directory names its die and version, and then writes its masked bytes at the Home. -/
def Sys2Proof.Claims.RecallAndWriteBack : Prop :=
  (∀ (die line : Nat) (c : Recall) (s : State), (s.die die).recalls.find? (fun x => x.line == line) = some c →
    (s.die die).recalls.find? (fun x => x.owner == c.owner) = some c →
    c.req.line = line → c.owner < 4 → c.owner ≠ die → c.req.die < 4 → c.req.die ≠ c.owner →
    let x := dirAt s line
    let bit := BitVec.ofNat 4 (2 ^ c.owner)
    ∃ t, exec (.recallResponse die line) s = .next t ∧ (t.die die).seq = (s.die die).seq ++ [c.req]
      ∧ (t.die die).recalls = (s.die die).recalls.erase c ∧ SameMemory s t ∧ t.ctxs = s.ctxs
      ∧ (c.req.kind = .read → (rdcAt s c.owner line).1 = .modified →
          rdcAt t c.owner line = (.shared, (rdcAt s c.owner line).2)
          ∧ (dirAt t line).owned = false ∧ (dirAt t line).ver = x.ver ∧ (dirAt t line).shr &&& bit = bit)
      ∧ (c.req.kind = .own → rdcAt t c.owner line = (.none, 0)
          ∧ (c.req.die = die → dirAt t line = { x with owned := false, owner := 0, shr := 0 })
          ∧ (c.req.die ≠ die → rdcWays s c.req.part c.req.die ≠ 0 →
              dirAt t line = ⟨x.ver + 1, true, BitVec.ofNat 2 c.req.die, 0⟩)))
  ∧ (∀ (die line home : Nat) (w : Leaving) (s : State), (s.die die).leaving.find? (fun x => x.line == line) = some w →
    homeDie line = some home → (s.die die).leaving.find? (fun y => homeDie y.line == some home) = some w →
    let x := dirAt s line
    ∃ t, exec (.remoteWriteBack die line) s = .next t ∧ (t.die die).leaving = (s.die die).leaving.erase w
      ∧ (x.owned = true → x.owner.toNat = die → x.ver = w.ver →
          dirAt t line = { x with owned := false, owner := 0 } ∧ (∀ p, Roused (s.ctx p) (t.ctx p))
          ∧ (∀ i, i < 128 → Memory.read t.mem (128 * line + i) =
              if w.mask.testBit i then w.data.getD i 0 else Memory.read s.mem (128 * line + i))
          ∧ ∀ a, a / 128 ≠ line → Memory.read t.mem a = Memory.read s.mem a)
      ∧ (¬ (x.owned = true ∧ x.owner.toNat = die ∧ x.ver = w.ver) →
          dirAt t line = x ∧ SameMemory s t ∧ t.ctxs = s.ctxs))

/-- R161, R359, R362, R363: the host reads and writes, at the Home, bytes of one granule assigned with H set, and no others; it
waits behind a lease in the line's queue; a snoop of a host line takes the device's copies, takes its place in every die's
sequence and leaves the host's new bytes. The link carries neither while IDE is required and not there. -/
def Sys2Proof.Claims.HostMemory : Prop :=
  (∀ (pa : Nat) (data : List Byte) (k : Nat) (s : State), s.dev.trip = false →
    granuleOf pa = some k → granuleBusy s pa = false → data ≠ [] → pa / 32 = (pa + data.length - 1) / 32 →
    let h := (Sparse.get 0 s.front.gran k).getLsbD 14
    let held := heldBack s (hostDoer pa) (lineOf pa)
    (ideHolds s 0 = false → h = true → held = false → NonePending s (lineOf pa) →
      (∃ t, exec (.hostCxlMemAccess (.write pa data)) s = .next t ∧ Stored s t pa data ∧ ∀ p, Roused (s.ctx p) (t.ctx p))
      ∧ ∃ t, exec (.hostCxlMemAccess (.read pa data.length)) s = .next t ∧ SameMemory s t ∧ t.ctxs = s.ctxs)
    ∧ (ideHolds s 0 = false → h = true → held = true → ∀ a ∈ [HostAcc.write pa data, .read pa data.length],
        a ∉ s.dev.hostHeld → ∃ t, exec (.hostCxlMemAccess a) s = .next t ∧ t.dev.hostHeld = s.dev.hostHeld ++ [a]
          ∧ SameMemory s t ∧ t.ctxs = s.ctxs)
    ∧ (ideHolds s 0 = true ∨ h = false → ∀ a ∈ [HostAcc.write pa data, .read pa data.length],
        ∃ w, exec (.hostCxlMemAccess a) s = .fault (.notEnabled w)))
  ∧ (∀ (pa : Nat) (data : List Byte) (s : State), pa % 128 + data.length ≤ 128 → s.dev.trip = false →
    (ideHolds s 0 = false → rangeOf pa = .cxl → ∃ t, exec (.hostSnoop pa data) s = .next t ∧ Stored s t pa data
      ∧ ∀ e, e < 4 → rdcAt t e (lineOf pa) = (.none, 0) ∧ (∀ core, core / 256 = e → l1dAt t core (lineOf pa) = .none)
        ∧ ∃ r, (t.die e).seq = (s.die e).seq ++ [r] ∧ r.line = lineOf pa ∧ r.kind = .hostSnoop)
    ∧ (ideHolds s 0 = false → rangeOf pa = .pcie → ∃ t, exec (.hostSnoop pa data) s = .next t ∧ Stored s t pa data
      ∧ t.ctxs = s.ctxs)
    ∧ (ideHolds s 0 = true → ∃ w, exec (.hostSnoop pa data) s = .fault (.notEnabled w)))

/-- R318, R319, R376: no scrub and no error changes a byte. A corrected error, and a parity error of an instruction cache, is
counted, saturating, in its row's counter, and the latter leaves the quire's cache without the block; an error that no code
corrects poisons its granule, the granule of a scoped copy, or every granule of its line; one in a context's registers is a
POISON trap. -/
def Sys2Proof.Claims.Scrubbed : Prop :=
  ∀ (pa row : Nat) (s : State), row < 6 →
    let goes := fun (e : MemErr) (t : State) => exec (.patrolScrub pa row e) s = .next t
      ∧ (∀ a, Memory.read t.mem a = Memory.read s.mem a) ∧ t.ctxs = s.ctxs
    let quiet := fun (t : State) => t.dev = s.dev ∧ t.fabric = s.fabric ∧ t.front = s.front
    let counts := fun (t : State) => ∀ k, (Sparse.get 0 t.dev.cecnt k).toNat =
      if k = row then min ((Sparse.get 0 s.dev.cecnt k).toNat + 1) 0xFFFFFFFF else (Sparse.get 0 s.dev.cecnt k).toNat
    let bad := fun (t : State) (g : Nat) => Sparse.get false t.poison g
    (∃ t, goes .none t ∧ SameMemory s t ∧ quiet t)
    ∧ (∃ t, goes .corrected t ∧ t.poison = s.poison ∧ counts t)
    ∧ (∀ q, ∃ t, goes (.fetch q) t ∧ t.poison = s.poison ∧ counts t
        ∧ ∀ b, Sparse.get [] (t.quire q).l1i b = if b = pa / 32 then [] else Sparse.get [] (s.quire q).l1i b)
    ∧ (deviceByte pa = true →
        (∃ t, goes .granule t ∧ quiet t ∧ ∀ g, bad t g = (g == pa / 32 || bad s g))
        ∧ ∃ t, goes .line t ∧ quiet t ∧ ∀ g, bad t g = (g / 4 == pa / 128 || bad s g))
    ∧ (∀ (c : CopyRef) (i : Nat), i < 4 → ∃ t, goes (.copy c i) t ∧ quiet t ∧ t.poison = s.poison
        ∧ ∀ x ∈ (if c.ofDie then (t.die c.unit).copies else (t.quire c.unit).copies), x.line = c.line → x.poison.testBit i = true)
    ∧ (∀ pos, pos < 2 ^ 14 → (s.ctx pos).run = .running → ∃ s1 x,
        exec (.patrolScrub pa row (.registers pos)) s = .next (takeTrap s1 pos x) ∧ x.cause = .poison ∧ SameMemory s s1)

def Sys2Proof.Claims.Coherence : Prop := OrderPoint ∧ RequestsWait ∧ Evictions ∧ Notified ∧ RecallAndWriteBack
def Sys2Proof.Claims.HostAndScrub : Prop := HostMemory ∧ Scrubbed

/-! ### The fabric -/

/-- The event of a packet that is accepted, by its type (R342). -/
def Sys2Proof.Claims.packetEvent (typ : Nat) (a : Arrival) : Instr :=
  match typ with
  | 0 => .bdata a | 1 => .bend a | 2 => .migrate a | 3 => .accept a | 4 => .refuse a | 5 => .racc a | 6 => .rreply a
  | 7 => .acks a | _ => .spdm a

/-- The class of a type (R342): MIG 0, BULK 1, RESP 2, CTL 3. -/
def Sys2Proof.Claims.typeClass : Nat → Nat
  | 0 => 1 | 1 => 2 | 2 => 0 | 3 => 2 | 4 => 2 | 5 => 0 | 6 => 2 | _ => 3

/-- R340, R341, R342, R343, R348, R356, R357: an arrival over the fabric that passes every check of its destination, for
partition `n`. -/
def Sys2Proof.Claims.Arrives (s : State) (a : Arrival) (n : Nat) : Prop :=
  a.own = false ∧ s.fabric.state = 2 ∧ s.dev.trip = false ∧ a.crcOk = true ∧ a.rsvOk = true ∧ a.plane < 16
    ∧ a.sender.toNat = (myDev s ^^^ calKey s a.plane s.fabric.slot)
    ∧ (if a.pkt.hop then a.pkt.via else a.pkt.src) = a.sender ∧ a.pkt.payload.length ≤ 4096
    ∧ a.pkt.typ.toNat < 9 ∧ a.pkt.cls.toNat = typeClass a.pkt.typ.toNat ∧ (a.pkt.hlim = 1 ∨ a.pkt.hlim = 2)
    ∧ a.pkt.dst.toNat = myDev s ∧ partOfKey s a.pkt.pkey = some n
    ∧ (a.pkt.typ.toNat = 8 → inBlock s a.pkt.src.toNat = true)
    ∧ (a.pkt.typ.toNat ≠ 8 → (∃ r, rankOf s n a.pkt.src.toNat = some r) ∧ a.tagOk = true
        ∧ ∃ x, sessionWith s a.pkt.pkey a.pkt.src.toNat = some x ∧ (x.phase = a.pkt.kph ∨ x.old.isSome = true))

/-- The arrival is the next to deliver and nothing is held behind it (R349). -/
def Sys2Proof.Claims.NextUp (s : State) (a : Arrival) (n : Nat) : Prop :=
  Arrives s a n ∧ a.pkt.seq = (pairCh s a.pkt.src.toNat a.pkt.cls.toNat).next
    ∧ (pairCh s a.pkt.src.toNat a.pkt.cls.toNat).window = []

/-- R349: an accepted packet 1 to 511 beyond NEXT is held, once, in the reorder window, and one further off is a copy that
is discarded; neither has any effect on a context, on a quire or on memory, and both are given a receipt. -/
def Sys2Proof.Claims.ReorderWindow : Prop :=
  ∀ (a : Arrival) (n : Nat) (s : State), Arrives s a n →
    let c := pairCh s a.pkt.src.toNat a.pkt.cls.toNat
    let gap := (a.pkt.seq - c.next).toNat
    (∀ x ∈ c.window, x.pkt.seq ≠ c.next) → gap ≠ 0 →
    ∃ t, exec (packetEvent a.pkt.typ.toNat a) s = .next t
      ∧ (pairCh t a.pkt.src.toNat a.pkt.cls.toNat).next = c.next
      ∧ (pairCh t a.pkt.src.toNat a.pkt.cls.toNat).window =
          (if gap < 512 ∧ (∀ x ∈ c.window, x.pkt.seq ≠ a.pkt.seq) then c.window ++ [a] else c.window)
      ∧ Sparse.get [] t.fabric.rcpt a.plane = Sparse.get [] s.fabric.rcpt a.plane ++ [true]
      ∧ t.ctxs = s.ctxs ∧ t.quires = s.quires ∧ SameMemory s t ∧ t.fabric.out = s.fabric.out

/-- The slot tag of a packet, and whether the slot still holds the thread that sent it (R32, R302). -/
def Sys2Proof.Claims.tagSlot (a : Arrival) : Nat := ((a.pkt.arg.extractLsb' 40 14).toNat)
def Sys2Proof.Claims.Holds (s : State) (a : Arrival) : Prop :=
  (s.ctx (tagSlot a)).run = .running ∧ (s.ctx (tagSlot a)).slotgen = a.pkt.arg.extractLsb' 0 32

/-- NEXT has passed the packet (R349). -/
def Sys2Proof.Claims.Passed (t : State) (a : Arrival) : Prop :=
  (pairCh t a.pkt.src.toNat a.pkt.cls.toNat).next = a.pkt.seq + 1

/-- R302: a message for a slot that no longer holds its thread changes no context and raises the quire's counter; the sender
of an RREPLY is told so. -/
def Sys2Proof.Claims.Stale (s t : State) (a : Arrival) : Prop :=
  t.ctxs = s.ctxs ∧ SameMemory s t
    ∧ (t.quire (quireOf (tagSlot a))).stale.toNat = min ((s.quire (quireOf (tagSlot a))).stale.toNat + 1) 0xFFFFFFFF
    ∧ t.fabric.discarded = s.fabric.discarded ++
        if a.pkt.typ = 6 then [(a.pkt.src.toNat, (a.pkt.arg.extractLsb' 0 64).toNat)] else []

/-- R274, R275, R302, R349, R353, R354: at its turn an ACCEPT frees the slot whose thread has migrated; a REFUSE lets it try
again, and the fourth makes MIGR write 1 and an access go remote; an RREPLY without a trap completes the waiting load
with its value, and one with a trap's code ends the access as FAULTED; each for a slot that has changed hands is stale. -/
def Obligations.AnswersAct : Prop :=
  ∀ (a : Arrival) (n : Nat) (s : State), NextUp s a n →
    let pos := tagSlot a
    let c := s.ctx pos
    let i := packetEvent a.pkt.typ.toNat a
    let others := fun (t : State) => (∀ p, p ≠ pos → t.ctx p = s.ctx p) ∧ Passed t a
    (a.pkt.typ = 3 ∨ a.pkt.typ = 4 ∨ a.pkt.typ = 6 → ¬ Holds s a → ∃ t, exec i s = .next t ∧ Stale s t a ∧ Passed t a)
    ∧ (∀ m, Holds s a → c.wait = .migrate m →
        (a.pkt.typ = 3 → ∃ t, exec i s = .next t ∧ (t.ctx pos).run = .free ∧ (t.ctx pos).slotgen = c.slotgen ∧ others t
          ∧ SameMemory s t)
        ∧ (a.pkt.typ = 4 → 3 ≤ m.tries →
            (∀ rd, m.rd = some rd → ∃ t, exec i s = .next t ∧ t.ctx pos = { c.setReg rd 1 with
                wait := .none, pc := c.pc + 8, refused := 0 } ∧ others t ∧ SameMemory s t)
            ∧ (m.rd = none → ∃ t, exec i s = .next t ∧ t.ctx pos = { c with wait := .none, refused := 4 } ∧ others t
                ∧ SameMemory s t))
        ∧ (a.pkt.typ = 4 → m.tries < 3 → m.dst = myDev s ∨ reachable s (partOf s pos) m.dst = true → leasesOf s pos = [] →
            ∃ t, exec i s = .next t ∧ others t ∧ SameMemory s t
              ∧ t.ctx pos = { c with wait := .migrate { m with tries := m.tries + 1 }, port := none }))
    ∧ (∀ p ev home, Holds s a → a.pkt.typ = 6 → c.port = some p → p.remote = some home → p.sent = true → p.evs = [ev] →
        ((a.pkt.payload.getD 32 0 = 0 → ev.op = .read → p.got = [] → ∀ rd, p.fin = .load rd false →
            ∃ t, exec i s = .next t ∧ others t ∧ SameMemory s t
              ∧ t.ctx pos = leavesPort (c.setReg rd (BitVec.ofNat 64 (ofBytes (a.pkt.payload.take ev.len)))) p.len)
        ∧ (a.pkt.payload.getD 32 0 ≠ 0 → ∃ t, exec i s = .next t ∧ (t.ctx pos).run = .faulted ∧ (t.ctx pos).pc = c.pc
            ∧ (t.ctx pos).g = c.g ∧ OthersRoused s t pos ∧ Passed t a)))

/-- R32, R274, R275, R353: a MIGRATE of MIGR at its turn starts the thread in the first FREE context of 1 to 15 of the
named quire, or of the origin's, with its registers, PC, ST without LC, WID and LEVELS, and answers ACCEPT; where none is
FREE, or the quire is not the partition's, it changes no context and answers REFUSE. -/
def Obligations.MigrationPlaced : Prop :=
  ∀ (a : Arrival) (n : Nat) (s : State), NextUp s a n → a.pkt.typ = 2 → reachable s (some n) a.pkt.src.toNat = true →
    NumbersFresh s →
    let p := a.pkt
    let word := fun (k : Nat) => BitVec.ofNat 64 (ofBytes ((p.payload.drop (8 * k)).take 8))
    let byte := fun (k : Nat) => (p.payload.getD k 0)
    let q := if (byte 165).getLsbD 7 then (byte 165).toNat % 128 else (word 19).toNat / 2 ^ 47 % 128
    let answers := fun (t : State) (typ : BitVec 4) => ∃ o, t.fabric.out = s.fabric.out ++ [o] ∧ o.pkt.typ = typ
      ∧ o.pkt.dst = p.src ∧ o.pkt.arg.setWidth 64 = word 19 ∧ o.pkt.payload = []
    p.payload.length = 192 → byte 164 = 8 →
    (∀ pos, partOfQuire s q = some n → freeContext s q = some pos →
      ∃ t, exec (.migrate a) s = .next t ∧ answers t 3 ∧ SameMemory s t ∧ (∀ k, k ≠ pos → t.ctx k = s.ctx k)
        ∧ (let d := t.ctx pos
           d.run = .running ∧ d.wait = .none ∧ d.pc = (word 16).setWidth 56 ∧ d.wid = word 18 ∧ d.levels = word 22
           ∧ d.seed = 0 ∧ d.task = none ∧ d.part = some n ∧ d.slotgen = (s.ctx pos).slotgen + 1
           ∧ (∀ r : Reg, d.reg r = word r.toNat)
           ∧ ∀ j, j < 64 → d.st.getLsbD j = (j == 0 || (inSt j && (word 17).getLsbD j && j != 27 && j != 28))))
    ∧ (partOfQuire s q ≠ some n ∨ freeContext s q = none →
      ∃ t, exec (.migrate a) s = .next t ∧ answers t 4 ∧ SameMemory s t ∧ t.ctxs = s.ctxs)

/-- No quire has a receive job of a COPYR. -/
def Sys2Proof.Claims.NoReceives (s : State) : Prop := ∀ e ∈ s.quires, ∀ j ∈ e.2.jobs, isRecv j = false

/-- How a COPYR's first packet meets its tile (R264): `fmt` and `count` are its slice's format and number of elements. -/
def Sys2Proof.Claims.meets (s : State) (p : Packet) (n rank fmt count : Nat) : Meet :=
  meetTile s (p.arg.extractLsb' 0 7).toNat (p.arg.extractLsb' 8 8).toNat n rank (p.arg.extractLsb' 48 32).toNat fmt count

/-- The bytes of a first and only packet of a COPYR land at `b` onward in one granule of the tile's slice, where nothing makes
its write wait (R264). -/
def Sys2Proof.Claims.LandsAt (s : State) (p : Packet) (n rank fmt count b : Nat) : Prop :=
  let q := (p.arg.extractLsb' 0 7).toNat
  let total := p.payload.length
  p.arg.extractLsb' 16 32 = 0 ∧ (p.arg.extractLsb' 48 32).toNat = total ∧ partOfQuire s q = some n
    ∧ (∃ d, meets s p n rank fmt count = .ok d none ∧ linearBytes d = (List.range total).map (b + ·))
    ∧ 0 < total ∧ b % 32 + total ≤ 32 ∧ NoReceives s ∧ rangeOf b = .vat q
    ∧ leaseOn s (lineOf b) = none ∧ (∀ x ∈ s.releases, x.1 ≠ lineOf b) ∧ NonePending s (lineOf b)

/-- R263 to R265, R355: a COPYR whose one packet lands in one granule writes exactly its bytes and is answered BEND with
status 0; toward a quire that is not the partition's, or a tile that it does not fit, it writes nothing and is answered with
status 1; a BEND marks the send job acknowledged, or faults it with OPERAND. -/
def Obligations.CopyrDelivered : Prop :=
  (∀ (a : Arrival) (n rank b : Nat) (s : State), NextUp s a n → a.pkt.typ = 0 → rankOf s n a.pkt.src.toNat = some rank →
    reachable s (some n) a.pkt.src.toNat = true → a.pkt.src.toNat ≠ myDev s → NumbersFresh s →
    let ends := fun (t : State) (status : Nat) => ∃ o, t.fabric.out = s.fabric.out ++ [o] ∧ o.pkt.typ = 1
      ∧ o.pkt.dst = a.pkt.src ∧ o.pkt.arg.extractLsb' 0 16 = a.pkt.arg.extractLsb' 80 16
      ∧ (o.pkt.arg.extractLsb' 16 8).toNat = status
    (LandsAt s a.pkt n rank a.fmt a.count b → ∃ t, exec (.bdata a) s = .next t ∧ Stored s t b a.pkt.payload ∧ ends t 0)
    ∧ (a.pkt.arg.extractLsb' 16 32 = 0 → NoReceives s →
        partOfQuire s (a.pkt.arg.extractLsb' 0 7).toNat ≠ some n ∨ meets s a.pkt n rank a.fmt a.count = .refused →
        ∃ t, exec (.bdata a) s = .next t ∧ t.quires = s.quires ∧ SameMemory s t ∧ ends t 1))
  ∧ (∀ (a : Arrival) (n q : Nat) (j : Job) (d r qq tl num total sent : Nat) (k : Bool) (s : State), NextUp s a n →
    a.pkt.typ = 1 → sendJobOf s a.pkt.src.toNat (a.pkt.arg.extractLsb' 0 16).toNat (some n) = some (q, j) →
    j.kind = .copyrSend d r qq tl num total sent k →
    let becomes := fun (j' : Job) => ∃ t, exec (.bend a) s = .next t
      ∧ (t.quire q).jobs = (s.quire q).jobs.map fun x => if x.id = j.id then j' else x
    (a.pkt.arg.extractLsb' 16 8 = 0 → becomes { j with kind := .copyrSend d r qq tl num total sent true })
    ∧ (a.pkt.arg.extractLsb' 16 8 = 1 → j.faulted = false → becomes { j with faulted := true, cause := some .operand }))

/-- R320, R354: a RACC at its turn whose request resolves to one granule event that nothing holds back is performed at the Home
and answered by one RREPLY with its slot tag: a read brings the Home's bytes, a write leaves exactly its bytes there, an
atomic brings the old bytes and leaves the new value, a poisoned granule and a request that does not resolve bring the
trap's code and subcode. Of several events the first is performed and the others follow, each in a move of its own. -/
def Sys2Proof.Claims.RemoteServed : Prop :=
  ∀ (a : Arrival) (n : Nat) (s s1 : State) (r : Except Stop Work), NextUp s a n → a.pkt.typ = 5 →
    reachable s (some n) a.pkt.src.toNat = true → NumbersFresh s → (pairCh s a.pkt.src.toNat 0).work = none →
    (∀ e ∈ s.releases, e.2 ≠ .racc a.pkt.src.toNat) → resolveRacc s a.pkt n none = (s1, r) →
    let src := a.pkt.src.toNat
    let replies := fun (t : State) (bytes : List Byte) (code sub : Nat) => ∃ o, exec (.racc a) s = .next t
      ∧ t.fabric.out = s.fabric.out ++ [o] ∧ o.pkt.typ = 6 ∧ o.pkt.dst = a.pkt.src
      ∧ o.pkt.arg.setWidth 64 = a.pkt.arg.setWidth 64 ∧ o.pkt.payload.length = 34 ∧ o.pkt.payload.take bytes.length = bytes
      ∧ o.pkt.payload.getD 32 0 = BitVec.ofNat 8 code ∧ o.pkt.payload.getD 33 0 = BitVec.ofNat 8 sub ∧ Passed t a
    (∀ x, r = .error (some x) → ∃ t, replies t [] x.cause.code x.sub ∧ SameMemory s1 t)
    ∧ (∀ w ev, r = .ok w → w.evs = [ev] → DoerAtHome s1 (raccDoer none src n w.quire) ev → ev.len ≤ 32 →
        let old := Memory.readBytes s1.mem ev.pa ev.len
        (ev.op = .read → poisoned s1 ev.pa ev.len = false → ∃ t, replies t old 0 0 ∧ SameMemory s1 t)
        ∧ (ev.op = .read → poisoned s1 ev.pa ev.len = true → ∃ t, replies t [] Cause.poison.code 0 ∧ SameMemory s1 t)
        ∧ (∀ d, ev.op = .write d → ∃ t, replies t [] 0 0 ∧ Stored s1 t ev.pa d)
        ∧ (∀ op sz (y : BitVec (8 * szBytes sz)), op ≠ .addF → ev.len = szBytes sz → ev.op = .rmw op sz y.toNat →
            isQueued ev = false → poisoned s1 ev.pa ev.len = false →
            ∃ t, replies t old 0 0 ∧ Becomes s1 t ev (combine op (BitVec.ofNat (8 * szBytes sz) (ofBytes old)) y).toNat))
    ∧ (∀ w ev next rest, r = .ok w → w.evs = ev :: next :: rest → DoerAtHome s1 (raccDoer none src n w.quire) ev →
        ∀ d, ev.op = .write d → ∃ t, exec (.racc a) s = .next t ∧ Stored s1 t ev.pa d ∧ t.fabric.out = s.fabric.out
          ∧ (pairCh t src 0).next = a.pkt.seq ∧ (pairCh t src 0).work = some { w with evs := next :: rest })

/-- R342, R350, R357: an ACKS at its turn takes the newer ACK values of every class and does nothing else, but that a session
whose old phase is held notes a class with a packet of the new one, and with all four holds the new phase alone; an SPDM
message goes to the root of trust. -/
def Sys2Proof.Claims.ControlPackets : Prop :=
  ∀ (a : Arrival) (n : Nat) (s : State), NextUp s a n →
    let src := a.pkt.src.toNat
    let newer := fun (old new : BitVec 32) => if (new - old).toNat < 2 ^ 31 then new else old
    (a.pkt.typ = 7 → ∃ t, exec (.acks a) s = .next t ∧ t.ctxs = s.ctxs ∧ t.quires = s.quires ∧ SameMemory s t ∧ Passed t a
      ∧ (pairCh t src 0).ack = newer (pairCh s src 0).ack (a.pkt.arg.extractLsb' 0 32)
      ∧ (pairCh t src 1).ack = newer (pairCh s src 1).ack (a.pkt.arg.extractLsb' 32 32)
      ∧ (pairCh t src 2).ack = newer (pairCh s src 2).ack (a.pkt.arg.extractLsb' 64 32)
      ∧ (pairCh t src 3).ack = newer (pairCh s src 3).ack a.pkt.ack
      ∧ ∀ x l, sessionWith s a.pkt.pkey src = some x → x.old = some l → x.phase = a.pkt.kph →
          let m := if 3 ∈ l then l else l ++ [3]
          sessionWith t a.pkt.pkey src = some { x with old := if m.length = 4 then none else some m })
    ∧ (a.pkt.typ = 8 → ∃ t, exec (.spdm a) s = .next t ∧ t.ctxs = s.ctxs ∧ t.quires = s.quires ∧ SameMemory s t
        ∧ Passed t a ∧ t.fabric.spdmIn = s.fabric.spdmIn ++ [a.pkt])

/-- R320, R342, R350, R354, R357: remote accesses served, and the control packets. -/
def Sys2Proof.Claims.RequestsAndControl : Prop := RemoteServed ∧ ControlPackets

/-- R263, R275, R354: traffic of the device's own rank takes effect without the fabric: a COPYR's bytes land in one
granule; a MIGR moves its thread, with its registers, its PC behind the instruction and a 0 in its destination register, to the
first FREE context of its target quire and frees the slot it left; and a load's or store's access is performed at the Home and
completes. -/
def Obligations.OwnRank : Prop :=
  (∀ (p : Packet) (n rank b : Nat) (sl : Slice) (s : State),
    let a := ownArrival p (some sl)
    (ownDatas s).find? (fun e => ownArrival e.1 (some e.2.2.2) == a) = some (p, n, rank, sl) →
    LandsAt s p n rank a.fmt a.count b → ∃ t, exec (.bdata a) s = .next t ∧ Stored s t b p.payload)
  ∧ (∀ (p : Packet) (n pos q dest : Nat) (m : Migration) (s : State), pos < 2 ^ 14 → ownMigration s pos = some (p, n) →
    (s.ctxs.filterMap fun e => ownMigration s e.1).find? (fun e => ownArrival e.1 none == ownArrival p none) = some (p, n) →
    (s.ctx pos).wait = .migrate m → m.acc = .none → q = (m.quire.getD (quireOf pos)) → q < 128 → partOfQuire s q = some n →
    q = quireOf pos ∨ (Sparse.get 0 s.front.perm (quireOf pos)).getLsbD q = true →
    linkDown s (dieOf pos) (dieOfQuire q) = false → freeContext s q = some dest →
    let c := s.ctx pos
    ∃ t, exec (.migrate (ownArrival p none)) s = .next t ∧ (t.ctx pos).run = .free ∧ (t.ctx dest).run = .running
      ∧ (∀ r : Reg, (t.ctx dest).reg r = if m.rd = some r then 0 else c.reg r)
      ∧ (t.ctx dest).pc = (if m.rd.isSome then c.pc + 8 else c.pc)
      ∧ (∀ j, j < 64 → (t.ctx dest).st.getLsbD j = (j == 0 || (inSt j && c.st.getLsbD j && j != 27 && j != 28)))
      ∧ (t.ctx dest).wid = widRead c ∧ (t.ctx dest).levels = c.levels ∧ (t.ctx dest).part = some n
      ∧ (t.ctx dest).slotgen = (s.ctx dest).slotgen + 1 ∧ SameMemory s t ∧ ∀ k, k ≠ pos → k ≠ dest → t.ctx k = s.ctx k)
  ∧ (∀ (p : Packet) (n pos dev : Nat) (x : Port) (ev e : GEv) (w : Work) (s s1 : State), pos < 2 ^ 14 →
    (s.ctxs.filterMap fun e => (ownRacc s e.1).map fun x => (e.1, x)).find?
      (fun e => ownArrival e.2.1 none == ownArrival p none) = some (pos, p, n) →
    ownRacc s pos = some (p, n) → (s.ctx pos).port = some x → x.evs = [ev] → x.remote = some dev → x.work = none →
    x.got = [] → resolveRacc s p n (some pos) = (s1, .ok w) → w.evs = [e] → e.len = ev.len → ev.len ≤ 32 →
    DoerAtHome s1 (raccDoer (some pos) (myDev s) n w.quire) e →
    let goes := fun (t : State) (c : Ctx) => exec (.racc (ownArrival p none)) s = .next t ∧ OthersRoused s t pos
      ∧ t.ctx pos = leavesPort c x.len
    (∀ rd, ev.op = .read → e.op = .read → x.fin = .load rd false → poisoned s1 e.pa e.len = false → ∃ t,
      goes t ((s.ctx pos).setReg rd (BitVec.ofNat 64 (ofBytes (Memory.readBytes s1.mem e.pa e.len)))) ∧ SameMemory s1 t)
    ∧ (∀ d k, ev.op = .write k → e.op = .write d → x.fin = .store → ∃ t, goes t (s.ctx pos) ∧ Stored s1 t e.pa d))

/-- R336, R340, R344, R346, R347: at a slot's start the slot number rises, the window opens and every packet put into it goes on a
plane whose calendar joins the device to the packet's next hop in that slot and that its PMASK allows, a relayed one directly
to its destination and not in the slot in which it came; a plane's window takes at most 1,024 packets and 9,998 beats; no
context and no byte of memory changes. -/
def Sys2Proof.Claims.SlotStarts : Prop :=
  ∀ s : State, s.fabric.state = 2 → owesForward s = false → (∀ o ∈ s.fabric.out, o.tries < 16) → NumbersFresh s →
    ∃ t, exec .slotStart s = .next t ∧ t.fabric.slot = s.fabric.slot + 1 ∧ t.fabric.open_ = true
    ∧ t.fabric.rcpt = [] ∧ t.ctxs = s.ctxs ∧ t.quires = s.quires ∧ SameMemory s t
    ∧ (∀ o ∈ t.fabric.out, ∀ p j, o.sentAs = some (p, j) →
        p < 16 ∧ calKey s p (s.fabric.slot + 1) = (myDev s ^^^ o.toward)
        ∧ (rtab s o.pkt.gen o.toward).getLsbD p = true ∧ o.slot = s.fabric.slot + 1
        ∧ (o.relayed = true → o.toward = o.pkt.dst.toNat ∧ o.readySlot ≤ s.fabric.slot))
    ∧ ∀ p, let l := t.fabric.out.filter fun o => o.sentAs.map (·.1) == some p
        l.length ≤ 1024 ∧ (l.map fun o => (72 + o.pkt.payload.length + 63) / 64).sum ≤ 9998

/-- R347, R348: a receipt ends its port's window: it frees exactly the packets there that its bitmap covers, and counts a try of
the others, whose cells are due again; a freed packet that the device relayed makes a cell due to its source. -/
def Sys2Proof.Claims.ReceiptFrees : Prop :=
  ∀ (port : Nat) (bitmap : List Bool) (s : State), s.fabric.state = 2 → owesForward s = false →
    let covered := fun (o : OutPkt) => ∃ j, o.sentAs = some (port, j) ∧ bitmap[j]? = some true
    let onPort := fun (o : OutPkt) => ∃ j, o.sentAs = some (port, j)
    ∃ t, exec (.receipt port bitmap) s = .next t ∧ t.ctxs = s.ctxs ∧ SameMemory s t ∧ t.fabric.open_ = false
      ∧ (∀ o ∈ t.fabric.out, ∃ x ∈ s.fabric.out, ¬ covered x ∧ o.readyNo = x.readyNo
          ∧ (onPort x → o.sentAs = none ∧ o.tries = x.tries + 1
              ∧ o.pkt = { x.pkt with credit := 0, hop := x.pkt.hop && !x.relayed })
          ∧ (¬ onPort x → o = x))
      ∧ (∀ x ∈ s.fabric.out, ¬ covered x → ∃ o ∈ t.fabric.out, o.readyNo = x.readyNo)
      ∧ ∀ x, s.fabric.out = [x] →
          (covered x → t.fabric.out = [] ∧ (x.relayed = true →
            Sparse.get 0 t.fabric.due x.pkt.src.toNat = Sparse.get 0 s.fabric.due x.pkt.src.toNat + 1))
          ∧ (onPort x → ¬ covered x →
              Sparse.get 0 t.fabric.due x.toward = Sparse.get 0 s.fabric.due x.toward + x.pkt.credit.toNat)

/-- R347: a relay takes a packet that names it, with a valid key, a direct route to the destination in its generation, both
ends in the block and a free cell; any other it discards and counts. A held packet that has its place in the open window is
forwarded with HOP 1 and the cells due to its next hop. -/
def Sys2Proof.Claims.Relays : Prop :=
  (∀ (a : Arrival) (s : State), s.fabric.state = 2 → s.dev.trip = false → a.own = false → a.pkt.hop = false →
    a.pkt.via.toNat = myDev s → a.pkt.dst.toNat ≠ myDev s → NumbersFresh s →
    let good := a.crcOk = true ∧ pairingOk s a = true ∧ formOk a = true ∧ a.pkt.src.toNat ≠ myDev s
      ∧ inBlock s a.pkt.src.toNat = true ∧ inBlock s a.pkt.dst.toNat = true
      ∧ (∃ p, p < 16 ∧ (rtab s a.pkt.gen a.pkt.dst.toNat).getLsbD p = true)
      ∧ ∃ n, partOfKey s a.pkt.pkey = some n ∧ cellsFree s n a.pkt.pkey = true
    let notes := fun (t : State) (ok : Bool) => t.ctxs = s.ctxs
      ∧ Sparse.get [] t.fabric.rcpt a.plane = Sparse.get [] s.fabric.rcpt a.plane ++ [ok]
    (good → ∃ t o, exec (.relayReceive a) s = .next t ∧ t.fabric.out = s.fabric.out ++ [o] ∧ o.relayed = true
      ∧ o.sentAs = none ∧ o.pkt = { a.pkt with credit := 0 } ∧ t.fabric.discnt = s.fabric.discnt ∧ notes t true)
    ∧ (¬ good → ∃ t, exec (.relayReceive a) s = .next t ∧ t.fabric.out = s.fabric.out ∧ notes t false
        ∧ t.fabric.discnt.toNat = min (s.fabric.discnt.toNat + 1) 0xFFFFFFFF))
  ∧ (∀ (i p k : Nat) (o : OutPkt) (s : State), s.fabric.state = 2 → s.dev.trip = false → s.fabric.open_ = true →
    s.fabric.out[i]? = some o → o.relayed = true → o.sentAs = some (p, k) → o.pkt.hop = false →
    let due := Sparse.get 0 s.fabric.due o.toward
    ∃ t x, exec (.relayForward i) s = .next t ∧ t.fabric.out[i]? = some x ∧ x.sentAs = some (p, k)
      ∧ x.pkt = { o.pkt with hop := true, credit := BitVec.ofNat 12 (min due 4095) }
      ∧ Sparse.get 0 t.fabric.due o.toward = due - min due 4095 ∧ t.ctxs = s.ctxs)

/-- R340, R342, R343, R348: a packet that fails a check is counted, saturating, is left without a receipt and changes
nothing else. -/
def Sys2Proof.Claims.Discards : Prop :=
  ∀ (a : Arrival) (why : DiscardWhy) (s : State), s.fabric.state = 2 → a.own = false → why ≠ .outOfWindow →
    failsFor s a why = true → ∃ t, exec (.discardedPacket a why) s = .next t
      ∧ t.fabric.discnt.toNat = min (s.fabric.discnt.toNat + 1) 0xFFFFFFFF
      ∧ Sparse.get [] t.fabric.rcpt a.plane = Sparse.get [] s.fabric.rcpt a.plane ++ [false]
      ∧ t.fabric.out = s.fabric.out ∧ t.fabric.chans = s.fabric.chans ∧ t.ctxs = s.ctxs ∧ t.quires = s.quires
      ∧ SameMemory s t

/-- R348: after 16 tries without a receipt the pair is failed and every packet for it is dropped; a waiting remote access
toward it takes a LINK trap, a MIGR writes 1 and goes on, and a send job faults with LINK. -/
def Sys2Proof.Claims.PairFails : Prop :=
  ∀ (dst : BitVec 10) (o : OutPkt) (s : State), o ∈ s.fabric.out → o.pkt.dst = dst → 16 ≤ o.tries →
    ∃ t, exec (.pairFailure dst) s = .next t ∧ (∀ n, reachable t n dst.toNat = false)
      ∧ ((s.fabric.out.filter fun x => x.pkt.dst == dst) = [o] → o.relayed = false →
          (o.pkt.typ ≠ 2 → t.fabric.out = s.fabric.out.filter fun x => x.pkt.dst != dst)
          ∧ (∀ pos p ev home, o.job = none → o.pos = some pos → o.pkt.typ = 5 → (o.pkt.arg.extractLsb' 40 14).toNat = pos →
            (s.ctx pos).run = .running → (s.ctx pos).slotgen = o.pkt.arg.extractLsb' 0 32 → (s.ctx pos).port = some p →
            p.remote = some home → p.sent = true → p.evs = [ev] →
            (t.ctx pos).run = .faulted ∧ (t.ctx pos).pc = (s.ctx pos).pc ∧ OthersRoused s t pos)
          ∧ (∀ pos m rd, o.job = none → o.pos = some pos → o.pkt.typ = 2 →
            tagPos (ofBytes ((o.pkt.payload.drop 152).take 8)) = pos →
            tagGen (ofBytes ((o.pkt.payload.drop 152).take 8)) = (s.ctx pos).slotgen →
            (s.ctx pos).run = .running → (s.ctx pos).wait = .migrate m → m.rd = some rd → m.dst = dst.toNat →
            m.dst ≠ myDev s → leasesOf s pos = [] →
            t.ctx pos = { (s.ctx pos).setReg rd 1 with wait := .none, pc := (s.ctx pos).pc + 8, refused := 0 }
              ∧ ∀ k, k ≠ pos → t.ctx k = s.ctx k)
          ∧ (∀ q id j, o.job = some (q, id) → s.quires = [(q, s.quire q)] → (s.quire q).jobs = [j] → j.id = id →
              j.faulted = false → (t.quire q).jobs = [{ j with faulted := true, cause := some .link }]))

/-- R336, R340, R344, R346 to R348: slots, receipts, relays, discards and failed pairs. -/
def Obligations.FabricTraffic : Prop := SlotStarts ∧ ReceiptFrees ∧ Relays ∧ Discards ∧ PairFails

/-- R340, R345, R348, R351, R358: a write of FSTATE enters CONFIG, which ends every failure, leaves for OFF, or enters RUN
from CONFIG where every key of the calendar lies below 2^BLKLOG, else sets ERR; a generation is committed where its table
passes, else stays and sets ERR; ERR is cleared by its own write. A write that does not reach the registers does nothing. -/
def Sys2Proof.Claims.FabricStates : Prop :=
  ∀ (w : Writer) (s : State),
    let f := s.fabric
    let errs := fun (t : State) => t.fabric = { f with err := true } ∧ t.ctxs = s.ctxs ∧ SameMemory s t
    (barsOpen s w 0 = false → ∀ i ∈ ([.fabricOff w, .fabricConfig w, .fabricRun w, .errClear w, .generationCommit w true,
      .generationCommit w false] : List Instr), exec i s = .next s)
    ∧ (barsOpen s w 0 = true →
      (f.state ≠ 2 → (∃ t, exec (.fabricOff w) s = .next t ∧ t.fabric = { f with state := 0 } ∧ t.ctxs = s.ctxs)
        ∧ ∃ t, exec (.fabricConfig w) s = .next t ∧ t.fabric = { f with state := 1, failed := [] } ∧ t.ctxs = s.ctxs)
      ∧ (f.state = 2 → f.out = [] →
          (∃ t, exec (.fabricOff w) s = .next t ∧ t.fabric = { f with state := 0, open_ := false, rcpt := [] })
          ∧ ∃ t, exec (.fabricConfig w) s = .next t ∧ t.fabric = { f with state := 1, failed := [], open_ := false, rcpt := [] })
      ∧ (f.state = 1 → (∀ p u, p < 16 → u < 64 → calKey s p u < 2 ^ blkLog s) → ∃ t, exec (.fabricRun w) s = .next t
          ∧ t.fabric.state = 2 ∧ t.fabric.cal = f.cal ∧ t.fabric.open_ = false ∧ t.ctxs = s.ctxs ∧ SameMemory s t)
      ∧ (f.state = 1 → (∃ p u, p < 16 ∧ u < 64 ∧ 2 ^ blkLog s ≤ calKey s p u) →
          ∃ t, exec (.fabricRun w) s = .next t ∧ errs t)
      ∧ (f.state = 0 → ∃ t, exec (.fabricRun w) s = .next t ∧ errs t)
      ∧ (f.state = 2 → exec (.fabricRun w) s = .next s)
      ∧ (∃ t, exec (.errClear w) s = .next t ∧ t.fabric = { f with err := false } ∧ t.ctxs = s.ctxs)
      ∧ exec (.generationCommit w f.gensel) s = .next s
      ∧ ∀ g : Bool, g ≠ f.gensel →
          let passes := ∀ d, d < 1024 →
            (inBlock s d = true → d ≠ myDev s →
              ∃ p u, p < 16 ∧ u < 64 ∧ (rtab s g d).getLsbD p = true ∧ calKey s p u = (myDev s ^^^ d))
            ∧ ∀ n via cr, n < 4 → relayChoice (rtab s g d) n = some (via, cr) →
                inBlock s via = true ∧ via ≠ d ∧ via ≠ myDev s
          (passes → ∃ t, exec (.generationCommit w g) s = .next t ∧ t.fabric = { f with gensel := g } ∧ t.ctxs = s.ctxs)
          ∧ (¬ passes → ∃ t, exec (.generationCommit w g) s = .next t ∧ errs t))

/-- R343, R358: a rank map entry is written in CONFIG, or while the partition holds no quire; one that names a device of the
map again, a device outside the block or one without a key, and a write at another time, is refused with ERR; reserved bits
read as 0. -/
def Sys2Proof.Claims.RankMaps : Prop :=
  ∀ (w : Writer) (n k : Nat) (v : BitVec 16) (s : State), barsOpen s w 0 = true → n < 128 → k < 1024 →
    let open_ := s.fabric.state = 1 ∨ quiresOf s n = []
    let dev := (v.setWidth 10).toNat
    let fits := inBlock s dev = true ∧ hasKey s n dev = true ∧ ∀ r, r < 1024 → r ≠ k → rankDev s n r ≠ some dev
    (open_ → v.getLsbD 15 = true → fits → ∃ t, exec (.rankMapWrite w n k v) s = .next t ∧ rankDev t n k = some dev
      ∧ (∀ r, r < 1024 → r ≠ k → rankDev t n r = rankDev s n r) ∧ t.ctxs = s.ctxs)
    ∧ (open_ → v.getLsbD 15 = false → ∃ t, exec (.rankMapWrite w n k v) s = .next t ∧ rankDev t n k = none
      ∧ (∀ r, r < 1024 → r ≠ k → rankDev t n r = rankDev s n r) ∧ t.ctxs = s.ctxs)
    ∧ (¬ open_ ∨ (v.getLsbD 15 = true ∧ ¬ fits) → ∃ t, exec (.rankMapWrite w n k v) s = .next t ∧ t.fabric.err = true
        ∧ t.fabric.rmap = s.fabric.rmap ∧ t.ctxs = s.ctxs)

/-- R357: in RUN a KEY_EXCHANGE for a key of the device with another device of the block makes their session, and a
KEY_UPDATE takes a session to its next keys and the other phase, the old one still held; each sends an SPDM packet, and no
other session changes. The numbers of the keys are the model's own. -/
def Sys2Proof.Claims.Sessions : Prop :=
  ∀ (pkey : BitVec 16) (dev : BitVec 10) (n : Nat) (s : State), s.fabric.state = 2 → partOfKey s pkey = some n →
    reachable s (some n) dev.toNat = true → NumbersFresh s →
    let goes := fun (i : Instr) (t : State) => exec i s = .next t ∧ t.ctxs = s.ctxs ∧ SameMemory s t
      ∧ (∃ o, t.fabric.out = s.fabric.out ++ [o] ∧ o.pkt.typ = 8 ∧ o.pkt.dst = dev)
      ∧ ∀ x, ¬ (x.pkey = pkey ∧ x.dev = dev) → (x ∈ t.fabric.sessions ↔ x ∈ s.fabric.sessions)
    (inBlock s dev.toNat = true → dev.toNat ≠ myDev s → ∃ t x, goes (.keyExchange pkey dev) t
      ∧ sessionWith t pkey dev.toNat = some x ∧ x.pkey = pkey ∧ x.dev = dev ∧ x.phase = false ∧ x.old = none)
    ∧ (∀ x, sessionWith s pkey dev.toNat = some x → ∃ t y, goes (.keyUpdate pkey dev) t
        ∧ sessionWith t pkey dev.toNat = some y ∧ y.phase = !x.phase ∧ y.old = some [])

/-- R340, R343, R345, R348, R351, R357, R358: the fabric's registers, rank maps and sessions. -/
def Obligations.FabricControl : Prop := FabricStates ∧ RankMaps ∧ Sessions

/-! ### The front end -/

/-- Only the front end's tables and the counters have changed. -/
def Sys2Proof.Claims.FrontOnly (s t : State) : Prop := SameButFront s t ∧ t.ctxs = s.ctxs

/-- One front-end fault record has been presented for a partition: posted, or held while the ring takes none (R329, R399). -/
def Sys2Proof.Claims.FrontRecord (s t : State) (n : Nat) (x : Trap) : Prop :=
  ∃ r : FRec, r.trap = x ∧ r.src = .front
    ∧ (((t.part n).recs = (s.part n).recs ++ [r] ∧ (t.part n).fqprod = (s.part n).fqprod + 1)
      ∨ (t.part n).unposted = (s.part n).unposted ++ [r])

/-- R285, R286: a kick of a descheduled device sets its pending bit and does nothing more; one of a scheduled device acts at
once, and where its index is more than 2^s ahead it is ignored and an OPERAND record with the queue number is presented. One
that the link does not carry, or that comes before READY, does nothing (R363, R374). -/
def Sys2Proof.Claims.Kicks : Prop :=
  ∀ (fn q : Nat) (v : Word) (s : State),
    (s.dev.ready = false ∨ barsOpen s .host fn = false → exec (.kick fn q v) s = .next s) ∧
    (s.dev.ready = true → barsOpen s .host fn = true → fn < 256 → q < 16 →
    let x := lqueue s fn q
    let k : BitVec 32 := v.setWidth 32
    (vdSched s fn = false → ∃ t, exec (.kick fn q v) s = .next t ∧ FrontOnly s t ∧ lqueue t fn q = { x with kick := k }
      ∧ Sparse.get 0 t.front.pending fn = Sparse.get 0 s.front.pending fn ||| BitVec.ofNat 16 (2 ^ q)
      ∧ t.front.launches = s.front.launches ∧ t.front.tasks = s.front.tasks)
    ∧ (vdSched s fn = true → 4 ≤ x.log.toNat → x.log.toNat ≤ 16 →
        (k = x.cons → ∃ t, exec (.kick fn q v) s = .next t ∧ FrontOnly s t ∧ lqueue t fn q = { x with kick := k, prod := k }
          ∧ t.front.launches = s.front.launches)
        ∧ (2 ^ x.log.toNat < (k - x.cons).toNat → ∃ t, exec (.kick fn q v) s = .next t ∧ (lqueue t fn q).cons = x.cons
          ∧ (lqueue t fn q).prod = x.prod ∧ t.front.launches = s.front.launches
          ∧ FrontRecord s t (vdPart s fn) ⟨.operand, BitVec.ofNat 64 q, .none, 0⟩)))

/-- The queue's registers as the taking of one new entry leaves them. -/
def Sys2Proof.Claims.latched (s : State) (fn q : Nat) : State :=
  let x := lqueue s fn q
  let k := x.cons + 1
  let s1 := setLqueue s fn q { x with kick := k }
  let s2 := setLqueue s1 fn q { x with kick := k, prod := k }
  setLqueue s2 fn q { x with kick := k, prod := k, cons := k }

/-- R285, R286, R399, R400: a kick by one entry reads it at slot (consumer index mod 2^s) and moves the consumer index past
it; one whose read must wait leaves the kick for a later turn, one that cannot be read is skipped with its record, a launch record is taken as a launch, a graph as a replay. -/
def Sys2Proof.Claims.EntryTaken : Prop :=
  ∀ (fn q : Nat) (v : Word) (s s1 : State), s.dev.ready = true → barsOpen s .host fn = true → fn < 256 → q < 16 →
    vdSched s fn = true →
    let x := lqueue s fn q
    let a := addrPlus x.base (16 * (x.cons.toNat % 2 ^ x.log.toNat))
    4 ≤ x.log.toNat → x.log.toNat ≤ 16 → v.setWidth 32 = x.cons + 1 →
    (feGet (latched s fn q) fn a 16 = .error none → ∃ m, exec (.kick fn q v) s = .fault (.notEnabled m))
    ∧ (∀ r, feGet (latched s fn q) fn a 16 = .ok (s1, .error r) → exec (.kick fn q v) s = .next (fePost s1 fn r))
    ∧ ∀ b, feGet (latched s fn q) fn a 16 = .ok (s1, .ok b) →
        let addr := BitVec.ofNat 64 (ofBytes (b.take 8))
        let ord := (b.getD 8 0).getLsbD 1
        ((b.getD 8 0).getLsbD 0 = false → b.length = 16 → ∀ t live,
          takeLaunch s1 fn q x.cons.toNat none ord addr = .ok (t, live) → exec (.kick fn q v) s = .next t)
        ∧ ((b.getD 8 0).getLsbD 0 = true → b.length = 16 → ∀ t,
          takeReplay s1 fn q x.cons.toNat ord addr = .ok t → exec (.kick fn q v) s = .next t)

/-- R285, R286, R399, R400: kicks, and the entries that they take. -/
def Sys2Proof.Claims.KicksTakeEntries : Prop := Kicks ∧ EntryTaken

/-- The 64-bit word of a header at a byte offset, and its width of level i + 1. -/
def Sys2Proof.Claims.field (h : List Byte) (off : Nat) : Nat := ofBytes ((h.drop off).take 8)
def Sys2Proof.Claims.lev (h : List Byte) (i : Nat) : Nat := field h 8 / 2 ^ (7 * i) % 128

/-- The sum of the first n widths. -/
def Sys2Proof.Claims.levSum (h : List Byte) (n : Nat) : Nat := ((List.range n).map (lev h)).sum

/-- COUNT as R288 reads it, and TEAMLV. -/
def Sys2Proof.Claims.itemCount (h : List Byte) : Nat := if field h 16 = 0 then 2 ^ levSum h 6 else field h 16
def Sys2Proof.Claims.teamLv (h : List Byte) : Nat := field h 24 / 4 % 8

/-- The teams: ceil(COUNT / 2^S) with S the widths inside a team (R290). -/
def Sys2Proof.Claims.teamCount (h : List Byte) : Nat :=
  (itemCount h + (2 ^ levSum h (min (teamLv h) 6) - 1)) / 2 ^ levSum h (min (teamLv h) 6)

/-- CORES, VATLEN and SAVELEN as R288 reads them. -/
def Sys2Proof.Claims.coreMask (h : List Byte) : Nat := if field h 24 / 2 ^ 16 % 256 = 0 then 255 else field h 24 / 2 ^ 16 % 256
def Sys2Proof.Claims.vatLen (h : List Byte) : Nat :=
  if field h 24 / 2 ^ 32 % 65536 = 0 then 65536 else field h 24 / 2 ^ 32 % 65536
def Sys2Proof.Claims.saveLen (h : List Byte) : Nat := field h 88 % 65536

/-- R289: no case of a header that rejects its launch. -/
def Sys2Proof.Claims.HeaderGood (h : List Byte) : Prop :=
  field h 0 < 2 ^ 56 ∧ field h 0 % 4 = 0
  ∧ (∀ i, i < 6 → lev h i ≤ 64) ∧ (∀ i, i < 5 → lev h i = 0 → lev h (i + 1) = 0)
  ∧ lev h 0 ≠ 0 ∧ levSum h 6 ≤ 64 ∧ (∀ i, i < teamLv h → i < 6 ∧ lev h i ≠ 0)
  ∧ field h 16 ≤ 2 ^ levSum h 6 ∧ field h 24 / 2 ^ 24 % 128 ≤ 64 ∧ teamCount h ≤ 65536
  ∧ vatLen h + saveLen h ≤ 65536
  ∧ (saveLen h = 0 ∨ 200 + 4144 * ((List.range 8).filter fun i => (coreMask h).testBit i).length ≤ saveLen h)
  ∧ field h 8 < 2 ^ 42 ∧ field h 24 < 2 ^ 55 ∧ field h 24 / 2 ^ 31 % 2 = 0 ∧ field h 24 / 2 ^ 12 % 16 = 0
  ∧ field h 24 / 2 ^ 5 % 8 = 0 ∧ field h 88 < 2 ^ 16 ∧ (∀ i, 96 ≤ i → h.getD i 0 = 0)

/-- R288, R289, R290, R294: a launch whose header passes R289's checks and which has no deckle pairs is taken with its fields,
after its completion record reads PENDING; one whose header fails any of them, with DONE 0, is rejected with an OPERAND record
that names the record's address, and adds no launch. -/
def Obligations.LaunchTaken : Prop :=
  ∀ (fn q no : Nat) (ord : Bool) (a : Word) (s s1 : State) (h : List Byte), a.toNat % 64 = 0 → a.toNat < 2 ^ 56 →
    feGet (s.tally (some (vdPart s fn)) 39 1) fn a 128 = .ok (s1, .ok h) → h.length = 128 →
    let live := fun (s2 t : State) => ∃ l : Launch, t.front.launches = s2.front.launches ++ [l] ∧ l.fn = fn ∧ l.queue = q
      ∧ l.ord = ord ∧ l.entry.toNat = field h 0 ∧ l.levels.toNat = field h 8 ∧ l.count = itemCount h ∧ l.teams = teamCount h
      ∧ l.args = [32, 40, 48, 56, 64, 72].map (fun k => BitVec.ofNat 64 (field h k)) ∧ l.done.toNat = field h 80
      ∧ l.cores = coreMask h ∧ l.vatlen = vatLen h ∧ l.savelen = saveLen h ∧ l.teamlv = teamLv h
      ∧ l.prio = field h 24 % 4 ∧ l.matw = field h 24 / 2 ^ 8 % 16 ∧ l.qlimit = field h 24 / 2 ^ 48 % 128
      ∧ l.dks = [] ∧ l.placed = 0 ∧ l.retired = [] ∧ l.taken = s1.cyc ∧ t.front.tasks = s2.front.tasks
    (HeaderGood h → field h 24 / 2 ^ 24 % 128 = 0 →
      (field h 80 = 0 → ∃ t, takeLaunch s fn q no none ord a = .ok (t, true) ∧ live s1 t)
      ∧ (∀ s2, field h 80 ≠ 0 → fePut s1 fn [(BitVec.ofNat 64 (field h 80), toBytes 8 0 ++ toBytes 8 (teamCount h)
            ++ List.replicate 48 0 ++ List.replicate ((teamCount h + 7) / 8) 0)] = .ok (s2, .ok ()) →
          ∃ t, takeLaunch s fn q no none ord a = .ok (t, true) ∧ live s2 t))
    ∧ (¬ HeaderGood h → field h 80 = 0 → ∃ t, takeLaunch s fn q no none ord a = .ok (t, false)
        ∧ t.front.launches = s1.front.launches ∧ FrontRecord s1 t (vdPart s1 fn) ⟨.operand, a, .none, 0⟩)

/-- R296: a graph commit exchanges CURGEN between 0 and 1. -/
def Sys2Proof.Claims.GraphCommits : Prop :=
  ∀ (fn : Nat) (a : Word) (b : Byte) (s s1 s2 : State), s.dev.ready = true → barsOpen s .host fn = true → fn < 256 →
    feGet s fn (addrPlus a 12) 1 = .ok (s1, .ok [b]) → b = 0 ∨ b = 1 →
    fePut s1 fn [(addrPlus a 12, [1 - b])] = .ok (s2, .ok ()) → exec (.graphCommit fn a) s = .next s2

/-- R295, R296: a node is dispatched from the record of its replay's own generation once every node that it waits for has
ended, and not before. -/
def Sys2Proof.Claims.NodeDispatched : Prop :=
  ∀ (r : Replay) (i : Nat) (b : List Byte) (s s1 : State), feGet s r.fn (addrPlus r.nodes (64 * i)) 64 = .ok (s1, .ok b) →
    b.length = 64 → r.gen < 2 →
    let ndep := ofBytes ((b.drop 16).take 2)
    let dep := fun j => ofBytes ((b.drop (18 + 2 * j)).take 2)
    ndep ≤ 8 →
    ((∃ j, j < ndep ∧ dep j ∉ r.ended) → dispatchNode s r i = .ok s1)
    ∧ ((∀ j, j < ndep → dep j ∈ r.ended) → ∀ t live,
        takeLaunch s1 r.fn r.queue r.entryNo (some (r.id, i)) r.ord (BitVec.ofNat 64 (field b (8 * r.gen))) = .ok (t, live) →
        ∃ r', dispatchNode s r i = .ok (t.setReplay r') ∧ r'.gen = r.gen ∧ (live = false → r'.ended = r.ended ++ [i])
          ∧ (live = true → r'.running.map (·.1) = r.running.map (·.1) ++ [i] ∧ r'.ended = r.ended))

/-- R286, R361: a scheduling command sets or clears SCHED and nothing else of the entry; scheduling takes every pending bit;
the device's tasks run on; a command that the link does not carry does nothing (R363). -/
def Sys2Proof.Claims.Scheduled : Prop :=
  ∀ (fn : Nat) (s : State), fn < 256 →
    (barsOpen s .host fn = false → exec (.deschedule fn) s = .next s ∧ exec (.schedule fn) s = .next s) ∧
    (barsOpen s .host fn = true →
    let sched := fun (t : State) (v : Bool) => vdSched t fn = v ∧ vdPart t fn = vdPart s fn ∧ vdAsid t fn = vdAsid s fn
      ∧ vdWeight t fn = vdWeight s fn ∧ (∀ k, k ≠ fn → vdt t k = vdt s k) ∧ t.front.tasks = s.front.tasks
      ∧ t.front.launches = s.front.launches ∧ FrontOnly s t
    (∃ t, exec (.deschedule fn) s = .next t ∧ sched t false ∧ t.front.pending = s.front.pending)
    ∧ ((∀ q, q < 16 → (Sparse.get 0 s.front.pending fn).getLsbD q = true → (lqueue s fn q).kick = (lqueue s fn q).cons) →
        ∃ t, exec (.schedule fn) s = .next t ∧ sched t true ∧ Sparse.get 0 t.front.pending fn = 0))

/-- R286, R295, R296, R361: graph commits, graph nodes and scheduling commands. -/
def Sys2Proof.Claims.GraphsAndScheduling : Prop := GraphCommits ∧ NodeDispatched ∧ Scheduled

/-! ### Teams, items and tasks -/

/-- R291: the team that is placed next is of a launch of the highest effective priority among those that a quire can take,
and within one virtual device of the lowest queue. -/
def Sys2Proof.Claims.TeamChosen : Prop :=
  ∀ (n fn u : Nat) (l : Launch) (s : State), chooseLaunch s n = some (l, fn, u) →
    l ∈ s.front.launches ∧ isCandidate s n l = true ∧ l.fn = fn
    ∧ ∀ l' ∈ s.front.launches, isCandidate s n l' = true → effPrio s n l' ≤ effPrio s n l
      ∧ (effPrio s n l' = effPrio s n l → l'.fn = l.fn → l.queue ≤ l'.queue)

/-- R290, R291, R297, R298: TEAM_PLACE puts the launch's next team, with its own items, deckle records, a tag of its own and
the lowest free run of vat units, on the lowest quire that can take it at once, else on the lowest whose tasks it pre-empts: it
then stands parked until the handovers, one for each task in its way, have given it their cores. A launch that has already
started, or has no record, writes none. -/
def Sys2Proof.Claims.TeamPlaced : Prop :=
  ∀ (n fn u q run : Nat) (l : Launch) (s : State), chooseLaunch s n = some (l, fn, u) → quireFor s n l = some q →
    freeRun s q (l.vatlen + l.savelen) = some run → l.started = true ∨ l.done = 0 → (∃ x, tagUsed s x = false) →
    (Sparse.wf 0 s.front.owner = true → (∀ q' ∈ quiresOf s n, canTake s l q' = true → q ≤ q')
      ∧ ((∀ q' ∈ quiresOf s n, canTake s l q' = false) → ∀ q' ∈ quiresOf s n, canPreempt s n l q' = true → q ≤ q'))
    ∧ ∃ t k start, exec (.teamPlace n) s = .next t ∧ t.front.tasks = s.front.tasks ++ [k] ∧ k.quire = q ∧ k.launch = l.id
      ∧ k.team = l.placed ∧ k.part = n ∧ k.fn = l.fn ∧ k.asid = vdAsid s l.fn ∧ k.cores = l.cores ∧ k.region = run
      ∧ k.nextItem = l.placed * teamSpan l ∧ k.endItem = min ((l.placed + 1) * teamSpan l) l.count
      ∧ (k.parked = true ↔ coreHolders s q l.cores ≠ []) ∧ k.hasSave = false
      ∧ start % 16 = 1 ∧ s.cyc ≤ start ∧ start < s.cyc + 16
      ∧ t.front.handovers = s.front.handovers
          ++ (coreHolders s q l.cores).map (fun o => ⟨q, o.cores, o.tag, some k.tag, start, [], []⟩)
      ∧ ((l.dks.map (·.1)).Nodup → ∀ e ∈ l.dks, deckleAt t q e.1 = e.2)
      ∧ (∀ x ∈ s.front.tasks, x.tag ≠ k.tag) ∧ (∀ e ∈ s.front.launches, e.id = l.id → ∃ e' ∈ t.front.launches,
          e'.id = l.id ∧ e'.placed = l.placed + 1 ∧ e'.started = true)
      ∧ SameMemory s t ∧ t.ctxs = s.ctxs

/-- R290, R291: which team is placed, and where. -/
def Obligations.TeamsPlaced : Prop := TeamChosen ∧ TeamPlaced

/-- The head context of a task's core is FREE, and those of its lower cores are not (R292). -/
def Sys2Proof.Claims.FirstFreeHead (s : State) (t : Task) (core : Nat) : Prop :=
  core / 8 = t.quire ∧ hasCore t.cores (core % 8) = true ∧ (s.ctx (16 * core)).run = .free
    ∧ ∀ c, c < core → c / 8 = t.quire → hasCore t.cores (c % 8) = true → (s.ctx (16 * c)).run ≠ .free

/-- R292: an item starts in the FREE head of the task's lowest such core with g1 to g6 from ARGS, its WID, ST and SEED at
reset and SLOTGEN raised; with the team's last item every WFW of the task returns 0. -/
def Sys2Proof.Claims.ItemToHead : Prop :=
  ∀ (tag : BitVec 16) (t : Task) (l : Launch) (core : Nat) (s : State), taskOf s tag = some t →
    launchOf s t.launch = some l → t.parked = false → t.nextItem < t.endItem → t.late = [] → s.front.handovers = [] →
    FirstFreeHead s t core → 16 * core ∉ t.wfw →
    ∃ u, exec (.itemDispatch tag) s = .next u ∧ SameMemory s u
      ∧ (∃ t', taskOf u tag = some t' ∧ t'.nextItem = t.nextItem + 1 ∧ t'.endItem = t.endItem)
      ∧ (let c := u.ctx (16 * core)
         c.run = .running ∧ c.wait = .none ∧ c.pc = l.entry ∧ c.wid = BitVec.ofNat 64 t.nextItem ∧ c.levels = l.levels
         ∧ c.st = 1 ∧ c.seed = 0 ∧ c.slotgen = (s.ctx (16 * core)).slotgen + 1 ∧ c.task = some tag
         ∧ ∀ r : Reg, c.reg r = if 1 ≤ r.toNat ∧ r.toNat ≤ 6 then l.args.getD (r.toNat - 1) 0 else 0)
      ∧ (t.nextItem + 1 < t.endItem → ∀ p, p ≠ 16 * core → u.ctx p = s.ctx p)
      ∧ (t.endItem ≤ t.nextItem + 1 → t.wfw.Nodup → ∀ p ∈ t.wfw, ∀ rd, (s.ctx p).wait = .wfw rd →
          u.ctx p = { (s.ctx p).setReg rd 0 with pc := (s.ctx p).pc + 8, wait := .none, refused := 0 })

/-- R273, R292: with no FREE head, the item goes to the context that has waited longest in WFW: g1 to g6, then g[RD] ← 1,
its WID, SLOTGEN raised, and PC after the WFW; its posted writes stay its own, as FENCE.S counts them (R157). -/
def Sys2Proof.Claims.ItemToWaiter : Prop :=
  ∀ (tag : BitVec 16) (t : Task) (l : Launch) (pos : Nat) (rest : List Nat) (rd : Reg) (s : State), taskOf s tag = some t →
    launchOf s t.launch = some l → t.parked = false → t.nextItem < t.endItem → t.wfw = pos :: rest → pos ∉ rest →
    (∀ c, c / 8 = t.quire → hasCore t.cores (c % 8) = true → (s.ctx (16 * c)).run ≠ .free) →
    (s.ctx pos).wait = .wfw rd →
    ∃ u, exec (.itemDispatch tag) s = .next u ∧ SameMemory s u
      ∧ (∃ t', taskOf u tag = some t' ∧ t'.nextItem = t.nextItem + 1 ∧ (t.nextItem + 1 < t.endItem → t'.wfw = rest))
      ∧ (let c := u.ctx pos
         c.run = (s.ctx pos).run ∧ c.wait = .none ∧ c.pc = (s.ctx pos).pc + 8 ∧ c.wid = BitVec.ofNat 64 t.nextItem
         ∧ c.levels = l.levels ∧ c.st = (s.ctx pos).st ∧ c.slotgen = (s.ctx pos).slotgen + 1
         ∧ ∀ r : Reg, c.reg r = if r = rd then 1
             else if 1 ≤ r.toNat ∧ r.toNat ≤ 6 then l.args.getD (r.toNat - 1) 0 else (s.ctx pos).reg r)
      ∧ (∀ r ∈ s.dev.hostQ, r.by_ = .ctx pos → r.gen = (s.ctx pos).slotgen → isStore r.op = true →
          { r with gen := (s.ctx pos).slotgen + 1 } ∈ u.dev.hostQ)
      ∧ (t.nextItem + 1 < t.endItem → ∀ p, p ≠ pos → u.ctx p = s.ctx p)

/-- R293, R294: a task whose items are all placed, whose contexts are HALTED or FREE and which has no job, entry or copy left
ends: its contexts, tiles and place are freed, its team counts as retired, and with the last team the launch ends. -/
def Sys2Proof.Claims.TaskEnds : Prop :=
  ∀ (tag : BitVec 16) (t : Task) (l : Launch) (s : State), taskOf s tag = some t → launchOf s t.launch = some l →
    l.done = 0 → l.graph = none → t.parked = false → t.endItem ≤ t.nextItem → t.late = [] → s.front.handovers = [] →
    (∀ e ∈ s.ctxs, e.2.task = some tag → e.2.run = .halted ∨ e.2.run = .free) →
    (∀ e ∈ s.quires, ∀ j ∈ e.2.jobs, j.by_.task ≠ some tag) → (∀ e ∈ s.cores, ∀ x ∈ e.2.queue, x.by_.task ≠ some tag) →
    (∀ e ∈ s.quires, e.2.copies = []) → (∀ e ∈ s.dies, e.2.copies = []) →
    ∃ u, exec (.taskEnd tag) s = .next u ∧ taskOf u tag = none ∧ (∀ p, (u.ctx p).task ≠ some tag)
      ∧ (∀ e ∈ (u.quire t.quire).tiles, e.2.owner ≠ some tag) ∧ SameMemory s u
      ∧ (l.retired.length + 1 + l.gone.length < l.teams → launchOf u l.id = some { l with retired := l.retired ++ [t.team] })
      ∧ (l.teams ≤ l.retired.length + 1 + l.gone.length → launchOf u l.id = none)

/-- R273, R292 to R294: items dispatched and tasks ended. -/
def Obligations.ItemsAndTasks : Prop := ItemToHead ∧ ItemToWaiter ∧ TaskEnds

/-- R303: from the failure of a link on, every launch homed on either die is marked with LINK, its tasks across the link are
gone, and every other task stays; unchanged where no quire has a job that receives (ending one may mark a tile of its sender,
which is part of a parked sender's record). -/
def Obligations.DieLinkFails : Prop :=
  ∀ (d e : Nat) (s : State), d < 4 → e < 4 → d ≠ e → linkDown s d e = false →
    (∀ l ∈ s.front.launches, l.done = 0 ∧ l.graph = none) →
    let cut := fun (k : Task) => ∃ l h, launchOf s k.launch = some l ∧ l.home = some h
      ∧ ((h = d ∧ dieOfQuire k.quire = e) ∨ (h = e ∧ dieOfQuire k.quire = d))
    ∃ t, exec (.dieLinkFailure d e) s = .next t ∧ linkDown t d e = true
      ∧ (∀ l' ∈ t.front.launches, (l'.home = some d ∨ l'.home = some e → l'.link = true)
          ∧ ∃ l ∈ s.front.launches, l.id = l'.id ∧ l'.retired = l.retired)
      ∧ (∀ k ∈ s.front.tasks, cut k → ∀ k' ∈ t.front.tasks, k'.tag ≠ k.tag)
      ∧ (∀ k ∈ s.front.tasks, (∀ k' ∈ s.front.tasks, k'.tag = k.tag → ¬ cut k') →
          ∃ k' ∈ t.front.tasks, k'.tag = k.tag ∧ ((∀ q ∈ s.quires, ∀ j ∈ q.2.jobs, isRecv j = false) → k' = k))

/-! ### Pre-emption -/

/-- A task that has run its time slice and may be handed over (R297). -/
def Sys2Proof.Claims.SliceRun (s : State) (t : Task) : Prop :=
  t.parked = false ∧ t.savelen ≠ 0 ∧ (∀ h ∈ s.front.handovers, h.out ≠ t.tag ∧ h.inn ≠ some t.tag)
    ∧ t.since + (s.part t.part).quantum.toNat * 65536 ≤ s.cyc

/-- R297, R298: a task that has run its time slice while another task waits for its cores is handed over, from the first
cycle with CYC mod 16 = 1, to the task that has waited longest: with every other task in that one's way where all have run
their slices, else alone, its cores then standing free for the waiter; nothing outside the front end changes. -/
def Sys2Proof.Claims.SliceEnds : Prop :=
  ∀ (tag : BitVec 16) (t w : Task) (s : State), taskOf s tag = some t →
    (s.cyc < t.since + (s.part t.part).quantum.toNat * 65536 → ∃ m, exec (.quantumExpiry tag) s = .fault (.notEnabled m))
    ∧ (SliceRun s t → waiterFor s t = some w →
      (w ∈ s.front.tasks ∧ w.parked = true ∧ w.quire = t.quire ∧ sharesCore w.cores t.cores = true
        ∧ ∀ x ∈ s.front.tasks, x.parked = true → x.quire = t.quire → sharesCore x.cores t.cores = true →
            inHandover s x.tag = false → w.since ≤ x.since)
      ∧ ∃ u start, exec (.quantumExpiry tag) s = .next u ∧ start % 16 = 1 ∧ s.cyc ≤ start ∧ start < s.cyc + 16
        ∧ ((∀ o ∈ coreHolders s t.quire w.cores, SliceRun s o) → u.front.handovers = s.front.handovers
            ++ (coreHolders s t.quire w.cores).map (fun o => ⟨t.quire, o.cores, o.tag, some w.tag, start, [], []⟩))
        ∧ (¬ (∀ o ∈ coreHolders s t.quire w.cores, SliceRun s o) →
            u.front.handovers = s.front.handovers ++ [⟨t.quire, t.cores, tag, none, start, [], []⟩])
        ∧ u.front.tasks = s.front.tasks ∧ FrontOnly s u)

/-- No lease stands on a line of a task's region, and no reduction is pending there. -/
def Sys2Proof.Claims.Quiet (s : State) (t : Task) : Prop :=
  let a := vatBase t.quire + t.region * 128
  let inside := fun l => a ≤ 128 * l ∧ 128 * l < a + regionLen t * 128
  (∀ e ∈ s.cores, ∀ l ∈ e.2.leases, ¬ inside l.line) ∧ ∀ e ∈ s.quires, ∀ p ∈ e.2.pend, ¬ inside (lineOf p.pa)

/-- The tasks of a handover that still stand, and their regions are quiet. -/
def Sys2Proof.Claims.QuietOver (s : State) (h : Handover) : Prop :=
  ∀ tag ∈ h.out :: h.inn.toList, ∀ t, taskOf s tag = some t → Quiet s t

/-- The incoming task of a handover, if there is one, has nothing saved. -/
def Sys2Proof.Claims.NewcomerEmpty (s : State) (h : Handover) : Prop :=
  ∀ tag w, h.inn = some tag → taskOf s tag = some w → w.hasSave = false

/-- The handover of a core stands at this slot's cycle and the slot is one of 1 to 15 that it has still to hand over. -/
def Sys2Proof.Claims.SlotDue (s : State) (pos : Nat) (h : Handover) : Prop :=
  pos < 16384 ∧ pos % 16 ≠ 0 ∧ s.cyc % 16 = pos % 16 ∧ pos ∉ s.issued ∧ handoverAt s (pos / 16) = some h ∧ h.start ≤ s.cyc
    ∧ pos ∉ h.done

/-- R298, R334: the slot of an outgoing context is handed over by writing its registers, PC, ST with LC 0, WID, SLOTGEN, SEED,
state, handle and levels to the save area, and stands FREE where the incoming task brings nothing; nothing issues in it in
this cycle. A context in a vector operation is not handed over yet. -/
def Sys2Proof.Claims.SlotSaved : Prop :=
  ∀ (pos : Nat) (h : Handover) (o : Task) (s : State), SlotDue s pos h → taskOf s h.out = some o →
    (s.ctx pos).task = some h.out → (s.ctx pos).run ≠ .free →
    (∀ v, (s.ctx pos).wait = .vector v → ∃ m, exec (.slotHandover pos) s = .fault (.notEnabled m))
    ∧ ((s.ctx pos).wait = .none → NewcomerEmpty s h → QuietOver s h → (∀ v ∈ (s.core (pos / 16)).vec, v.by_.pos ≠ pos) →
        let a := ctxRecAddr o pos
        let c := s.ctx pos
        ∃ t, exec (.slotHandover pos) s = .next t ∧ (t.ctx pos).run = .free ∧ (t.ctx pos).slotgen = c.slotgen
          ∧ (∀ p, p ≠ pos → t.ctx p = s.ctx p) ∧ pos ∈ t.issued
          ∧ (∃ h' ∈ t.front.handovers, h'.out = h.out ∧ pos ∈ h'.done)
          ∧ (∀ r : Reg, wordAt t (a + 8 * r.toNat) = (c.reg r).toNat)
          ∧ wordAt t (a + 128) = c.pc.toNat ∧ wordAt t (a + 136) = (stSaved c.st).toNat
          ∧ wordAt t (a + 144) = (widRead c).toNat ∧ wordAt t (a + 152) = c.slotgen.toNat
          ∧ wordAt t (a + 160) = c.seed.toNat ∧ wordAt t (a + 176) = (c.handle.getD 0).toNat
          ∧ wordAt t (a + 184) = c.levels.toNat
          ∧ wordAt t (a + 168) = (match c.run with
              | .free => 0
              | .running => 1
              | .faulted => 2
              | .halted => 3) + (if c.aborted then 4 else 0)
          ∧ ∀ x, x < a ∨ a + 192 ≤ x → Memory.read t.mem x = Memory.read s.mem x)

/-- R298, R334, R335: a FREE slot takes the incoming task's saved context with the registers of its record and the slot's
SLOTGEN raised by 1; nothing issues in it in this cycle. -/
def Sys2Proof.Claims.SlotLoaded : Prop :=
  ∀ (pos : Nat) (tag : BitVec 16) (h : Handover) (o w : Task) (s : State), SlotDue s pos h → taskOf s h.out = some o →
    h.inn = some tag → taskOf s tag = some w → w.hasSave = true → w.parked = false → hasCore w.cores (pos / 16 % 8) = true →
    (s.ctx pos).run = .free → QuietOver s h →
    let a := ctxRecAddr w pos
    ctxRecAddr o pos + 192 ≤ a ∨ a + 256 ≤ ctxRecAddr o pos → wordAt s (a + 168) = 1 → poisoned s a 192 = false →
    ∃ t, exec (.slotHandover pos) s = .next t ∧ (∀ p, p ≠ pos → t.ctx p = s.ctx p) ∧ pos ∈ t.issued
      ∧ (let c := t.ctx pos
         c.run = .running ∧ c.wait = .none ∧ c.pc = BitVec.ofNat 56 (wordAt s (a + 128)) ∧ c.task = some tag
         ∧ c.st = stSaved (BitVec.ofNat 64 (wordAt s (a + 136)))
         ∧ c.wid = BitVec.ofNat 64 (wordAt s (a + 144)) ∧ c.levels = BitVec.ofNat 64 (wordAt s (a + 184))
         ∧ c.seed = BitVec.ofNat 64 (wordAt s (a + 160)) ∧ c.slotgen = (s.ctx pos).slotgen + 1
         ∧ ∀ r : Reg, c.reg r = BitVec.ofNat 64 (wordAt s (a + 8 * r.toNat)))

/-- R298, R299: the head goes last: it is handed over after slots 1 to 15 of its core and between tile steps, the outgoing
task's queue entries leave the core, the accumulator exchange runs 1,024 cycles, and with its last head the task is parked with
its tiles saved. -/
def Sys2Proof.Claims.HeadGoesLast : Prop :=
  ∀ (core : Nat) (h : Handover) (o : Task) (s : State), core < 1024 → handoverAt s core = some h →
    taskOf s h.out = some o →
    ((∃ i, 1 ≤ i ∧ i ≤ 15 ∧ 16 * core + i ∉ h.done) ∨ (∃ e, headOf s core = some e ∧ e.granted = true) →
        ∃ m, exec (.headHandover core) s = .fault (.notEnabled m))
    ∧ (s.cyc % 16 = 0 → h.start ≤ s.cyc → 16 * core ∉ h.done → (∀ i, 1 ≤ i → i ≤ 15 → 16 * core + i ∈ h.done) →
        (∀ e, headOf s core = some e → e.granted = false) → 16 * core ∉ s.issued → (s.ctx (16 * core)).wait = .none →
        NewcomerEmpty s h → h.inn ≠ some h.out → QuietOver s h →
        ∃ t, exec (.headHandover core) s = .next t ∧ 16 * core ∈ t.issued
          ∧ (∃ h' ∈ t.front.handovers, h'.out = h.out ∧ (core, s.cyc + 1024) ∈ h'.exch ∧ 16 * core ∈ h'.done)
          ∧ (∀ e ∈ (t.core core).queue, e.by_.task ≠ some h.out)
          ∧ ((∀ i, i < 8 → hasCore h.cores i = true → 16 * (8 * h.quire + i) = 16 * core ∨ 16 * (8 * h.quire + i) ∈ h.done) →
              (∃ o', taskOf t h.out = some o' ∧ o'.parked = true ∧ o'.hasSave = true)
              ∧ ∀ e ∈ (t.quire o.quire).tiles, e.2.owner ≠ some h.out))

/-- R299: when an exchange has run its time, the incoming head issues again; the handover is over with the last exchange of
its last head. -/
def Sys2Proof.Claims.ExchangeEnds : Prop :=
  ∀ (core till : Nat) (h : Handover) (s : State), s.front.handovers = [h] → h.exch = [(core, till)] → till ≤ s.cyc →
    ∃ t, exec (.accumulatorExchangeEnd core) s = .next t ∧ FrontOnly s { t with ctxs := s.ctxs }
      ∧ (∀ p, p ≠ 16 * core → t.ctx p = s.ctx p)
      ∧ (∀ x, (s.ctx (16 * core)).wait = .exchange x → t.ctx (16 * core) = { s.ctx (16 * core) with wait := .none })
      ∧ (headsDone h = true → t.front.handovers = []) ∧ (headsDone h = false → t.front.handovers = [{ h with exch := [] }])

/-- R301: a parked task that a quire can take runs again there; on another quire its region is that quire's lowest free run,
and a flush of its tag is asked of the old one. -/
def Sys2Proof.Claims.TaskMoves : Prop :=
  ∀ (tag : BitVec 16) (q : Nat) (t : Task) (s : State), taskOf s tag = some t → canRestore s t q = true → t.held = [] → Quiet s t →
    ∃ u t', exec (.taskMove tag q) s = .next u ∧ taskOf u tag = some t' ∧ t'.parked = false ∧ t'.quire = q
      ∧ (q ≠ t.quire → (t.quire, tag) ∈ u.front.flushing ∧ freeRun s q (regionLen t) = some t'.region
          ∧ t'.oldQuire = some t.quire)



/-! ### Fetch -/

/-- R62, R76, R138: a delivery of the fetch port, at most one in a cycle, serves every request for the block that the oldest
one names under its identifier: each context that asked has it as its current block where PC lies in it, else as its further
one; a fetch that fails gives a block without bytes that keeps the trap for the moment of issue. What resolving changes, ResolveFrame says. -/
def Obligations.FetchDelivery : Prop :=
  ∀ (q pos a : Nat) (rest : List (Nat × Nat)) (s s1 : State), (s.quire q).fetches = (pos, a) :: rest → quireOf pos = q →
    let asks := fun p => (p, a) ∈ (s.quire q).fetches ∧ asidOf s p = asidOf s pos
    let gives := fun (b : Block) => ∃ t, exec (.fetchBlockDelivery q) s = .next t
      ∧ (∀ p x, (p, x) ∈ (t.quire q).fetches ↔ (p, x) ∈ (s.quire q).fetches ∧ ¬ (x = a ∧ asks p))
      ∧ SameMemory s1 t ∧ (∀ p, ¬ asks p → t.ctx p = s1.ctx p)
      ∧ ∀ p, asks p → t.ctx p = (if a = (s1.ctx p).pc.toNat / 32 * 32 then { s1.ctx p with block := some b }
          else { s1.ctx p with ahead := some b })
    ((s.quire q).served = s.cyc + 1 → ∃ m, exec (.fetchBlockDelivery q) s = .fault (.notEnabled m))
    ∧ ((s.quire q).served ≠ s.cyc + 1 →
      (∀ l ls, resolve s (whoIs s pos) (BitVec.ofNat 64 a) .fetch = (s1, .ok (.locs (l :: ls))) →
        Sparse.get [] (s.quire q).l1i (l.pa / 32) = [] → l.pa % 32 = 0 → poisoned s1 l.pa 32 = false →
        DoerAtHome s1 ⟨some (.fetch pos), q, none, partOf s pos, false⟩
          ⟨l.pa, 32, l.coh, BitVec.ofNat 64 a, .fetch, .v, .read⟩ →
        gives ⟨a, Memory.readBytes s1.mem l.pa 32, none⟩)
      ∧ (∀ x, resolve s (whoIs s pos) (BitVec.ofNat 64 a) .fetch = (s1, .error (some x)) →
        gives ⟨a, [], some { x with info := BitVec.ofNat 64 a }⟩))

/-! ### Partitions and their registers -/

/-- The device takes partition writes: READY is 1 and the link carries requests (R363, R374). -/
def Sys2Proof.Claims.PartsOpen (s : State) : Prop := s.dev.ready = true ∧ barsOpen s .host 0 = true

/-- No lease stands anywhere, and nothing waits behind one. -/
def Sys2Proof.Claims.Unleased (s : State) : Prop :=
  (∀ e ∈ s.cores, e.2.leases = []) ∧ s.releases = [] ∧ ∀ e ∈ s.dies, e.2.held = []

/-- R363, R374: before READY, and while the link carries no request, no partition write has an effect. -/
def Sys2Proof.Claims.PartsShut : Prop :=
  ∀ (n q d g : Nat) (v : Word) (s : State), ¬ PartsOpen s →
    ∀ i ∈ [Instr.partitionCreate n, .partitionDestroy n, .assign n q, .release n q, .fopResume n, .fopResumeSt n, .fopAbort n,
      .fqconsWrite n (v.setWidth 32), .rdcmaskWrite n v, .scopedwWrite n (v.setWidth 4), .granWrite d g (v.setWidth 16)],
      exec i s = .next s

/-- The event's only effect is that the block of partition `n` becomes `p`. -/
def Sys2Proof.Claims.BlockBecomes (i : Instr) (s : State) (n : Nat) (p : Part) : Prop :=
  ∃ t, exec i s = .next t ∧ t.part n = p ∧ (∀ k, k ≠ n → t.part k = s.part k) ∧ FrontOnly s t
    ∧ t.front.owner = s.front.owner ∧ t.front.tasks = s.front.tasks ∧ t.front.perm = s.front.perm
    ∧ t.front.gran = s.front.gran ∧ t.front.vdt = s.front.vdt ∧ t.front.launches = s.front.launches

/-- R365, R369, R371: creation counts in PGEN, leaves the block as at reset with the snapshot chain running on, and clears the
48 counters; destruction captures a final snapshot of 512 bytes, and is refused while the partition holds a quire. -/
def Sys2Proof.Claims.CreateDestroy : Prop :=
  ∀ (n : Nat) (s : State), PartsOpen s →
    let p := s.part n
    (p.exist_ = false → ∃ t, exec (.partitionCreate n) s = .next t
      ∧ t.part n = { Part.reset with exist_ := true, pgen := p.pgen + 1, snapSeq := p.snapSeq, prev := p.prev }
      ∧ (∀ k i, i < 48 → counter t k i = if k = n then 0 else counter s k i) ∧ (∀ k, k ≠ n → t.part k = s.part k)
      ∧ FrontOnly s t)
    ∧ (p.exist_ = true → quiresOf s n ≠ [] → exec (.partitionDestroy n) s = .next s)
    ∧ (p.exist_ = true → quiresOf s n = [] → p.busy = none → ∃ t b, exec (.partitionDestroy n) s = .next t
      ∧ (t.part n).exist_ = false ∧ (t.part n).final = some b ∧ b.length = 512 ∧ (t.part n).snapSeq = p.snapSeq + 1
      ∧ (t.part n).pgen = p.pgen ∧ FrontOnly s t)

/-- R365, R367: ASSIGN and RELEASE are refused in R367's cases, and begin the drain and scrub otherwise; the quire keeps its
partition until that completes. -/
def Sys2Proof.Claims.QuireCommands : Prop :=
  ∀ (n q : Nat) (s : State), PartsOpen s → (s.part n).exist_ = true → (s.part n).busy = none →
    let p := s.part n
    let resident := ∃ t ∈ s.front.tasks, t.part = n ∧ dieOfQuire t.quire = dieOfQuire q
    (resident ∨ partOfQuire s q ≠ none ∨ inScrub s q = true → BlockBecomes (.assign n q) s n { p with qcmd := 3 })
    ∧ (resident ∨ partOfQuire s q ≠ some n → BlockBecomes (.release n q) s n { p with qcmd := 3 })
    ∧ (¬ resident → partOfQuire s q = none → inScrub s q = false →
        BlockBecomes (.assign n q) s n { p with qcmd := 1, busy := some (true, q) })
    ∧ (¬ resident → partOfQuire s q = some n →
        BlockBecomes (.release n q) s n { p with qcmd := 1, busy := some (false, q) })

/-- R366, R367: when a drain and scrub completes the quire is the partition's, or nobody's; every permission toward and from
it is clear, its vat is zero, its tables are at reset, and its stale-message counter and SLOTGENs are kept. It does not complete
while a lease of another quire stands in the vat. -/
def Sys2Proof.Claims.ScrubCompletes : Prop :=
  ∀ (n q : Nat) (assign : Bool) (s : State), (s.part n).busy = some (assign, q) → q < 128 →
    ((∃ k, ∃ l ∈ (s.core k).leases, l.owner / 128 ≠ q ∧ vatBase q ≤ 128 * l.line ∧ 128 * l.line < vatBase q + 0x800000) →
      ∀ t, exec (.drainScrubComplete n) s = .next t → (t.part n).busy = some (assign, q) ∧ (t.part n).qcmd = (s.part n).qcmd)
    ∧ (Unleased s →
      ∃ t, exec (.drainScrubComplete n) s = .next t ∧ partOfQuire t q = (if assign then some n else none)
      ∧ (∀ k, k ≠ q → partOfQuire t k = partOfQuire s k) ∧ (t.part n).qcmd = 2 ∧ (t.part n).busy = none
      ∧ (t.quire q).tiles = [] ∧ (t.quire q).deckles = [] ∧ (t.quire q).chans = [] ∧ (t.quire q).jobs = []
      ∧ (t.quire q).l1i = [] ∧ (t.quire q).tlb = [] ∧ (t.quire q).pend = [] ∧ (t.quire q).copies = []
      ∧ (∀ i, i < 128 → leasesOf t (128 * q + i) = [])
      ∧ Sparse.get 0 t.front.perm q = 0 ∧ (∀ r, (Sparse.get 0 t.front.perm r).getLsbD q = false)
      ∧ (∀ a, vatBase q ≤ a → a < vatBase q + 0x800000 → Memory.read t.mem a = 0)
      ∧ (t.quire q).stale = (s.quire q).stale ∧ ∀ p, (t.ctx p).slotgen = (s.ctx p).slotgen)

/-- The register write of an answer (R330). -/
def Sys2Proof.Claims.fopOf (n : Nat) : Answer → Instr
  | .resume => .fopResume n
  | .resumeSt _ => .fopResumeSt n
  | .abort => .fopAbort n

/-- R329, R365: a write of FQCONS moves the consumer index, and a held record is then posted where the ring takes it. -/
def Sys2Proof.Claims.RingConsumed : Prop :=
  ∀ (n : Nat) (v : BitVec 32) (s : State), PartsOpen s → (s.part n).exist_ = true →
    let p := s.part n
    (p.unposted = [] → BlockBecomes (.fqconsWrite n v) s n { p with fqcons := v })
    ∧ (∀ r, p.unposted = [r] → ringTakes (s.setPart n { p with fqcons := v }) n = true →
        ∃ t r', exec (.fqconsWrite n v) s = .next t ∧ (t.part n).unposted = [] ∧ (t.part n).recs = p.recs ++ [r']
          ∧ r'.seq = p.nextSeq ∧ r'.trap = r.trap ∧ (t.part n).fqprod = p.fqprod + 1 ∧ (t.part n).fqcons = v
          ∧ (t.part n).nextSeq = p.nextSeq + 1)

/-- R330, R331: an answer that names no outstanding record, or a delivered one, is ignored and FOP reads 2; one that names an
undelivered record of a faulted context acts on the context, retires the record, and FOP reads 1; a resumed head whose core's
accumulator exchange still runs waits for it (R299). An ABORT may also name the handle that a restored FAULTED context keeps and
no record bears, the model's choice (log 135). -/
def Sys2Proof.Claims.HostAnswers : Prop :=
  ∀ (n : Nat) (a : Answer) (s : State), PartsOpen s → (s.part n).exist_ = true →
    let p := s.part n
    let ends := fun (t : State) (pos : Nat) =>
      ((s.ctx pos).task.isSome = true → (t.ctx pos).run = .halted ∧ (t.ctx pos).aborted = true)
      ∧ ((s.ctx pos).task = none → (t.ctx pos).run = .free)
    (∀ w, a = .resumeSt w → w = p.fst) →
    (findRec s n p.fseq = none → (a ≠ .abort ∨ holderOf s n p.fseq = none → BlockBecomes (fopOf n a) s n { p with fop := 2 })
      ∧ ∀ pos, a = .abort → holderOf s n p.fseq = some pos → ∃ t, exec (fopOf n a) s = .next t ∧ (t.part n).fop = 1
        ∧ (∀ k, k ≠ pos → t.ctx k = s.ctx k) ∧ ends t pos)
    ∧ (∀ r, findRec s n p.fseq = some r →
        (r.delivered = true → BlockBecomes (fopOf n a) s n { p with fop := 2 })
        ∧ (∀ pos, r.delivered = false → r.src = .ctx → holderOf s n r.seq = some pos →
            ∃ t, exec (fopOf n a) s = .next t ∧ (t.part n).fop = 1 ∧ (∀ x ∈ (t.part n).recs, x.seq ≠ r.seq)
              ∧ (∀ k, k ≠ pos → t.ctx k = s.ctx k)
              ∧ (a ≠ .abort → (t.ctx pos).run = .running ∧ (t.ctx pos).g = (s.ctx pos).g
                  ∧ (t.ctx pos).pc = (if r.trap.cause = .software then (s.ctx pos).pc + 8 else (s.ctx pos).pc)
                  ∧ (pos % 16 ≠ 0 ∨ (∀ h ∈ s.front.handovers, ∀ e ∈ h.exch, e.1 ≠ pos / 16) → (t.ctx pos).wait = .none)
                  ∧ (∀ h till, pos % 16 = 0 → s.front.handovers = [h] → h.exch = [(pos / 16, till)] →
                      (t.ctx pos).wait = .exchange till))
              ∧ (a = .abort → ends t pos)))


/-- The copies and the remote-data lines of a partition in one set of a die's ways, and the copies in one of a quire's. -/
def Sys2Proof.Claims.dieSet (s : State) (n d k : Nat) : Nat :=
  ((s.die d).copies.filter fun c => c.part == some n && rdcSet c.line == k).length
    + ((s.die d).rdc.filter fun x => x.part == some n && rdcSet x.line == k).length
def Sys2Proof.Claims.quireSet (s : State) (q k : Nat) : Nat := ((s.quire q).copies.filter fun c => c.line % 16384 == k).length

/-- R309, R314, R365: masks of two partitions must not overlap; a mask that takes ways of a die first drops what stands in
them, so that no set of the partition there holds more than the ways that are left. SCOPEDW ignores 9 to 15, and fewer ways
first drop the copies that stand in the ways that go; which lines those are is the model's choice (log 136). -/
def Sys2Proof.Claims.CacheWays : Prop :=
  ∀ (n : Nat) (v : Word) (w : BitVec 4) (s : State), PartsOpen s → (s.part n).exist_ = true →
    let p := s.part n
    let overlap := ∃ e ∈ s.front.parts, e.1 ≠ n ∧ e.2.exist_ = true ∧ e.2.rdcmask &&& v ≠ 0
    let ways := fun d => popCount (dieWays v d) 16
    (overlap → exec (.rdcmaskWrite n v) s = .next s)
    ∧ (¬ overlap → (∀ d k, d < 4 → dieSet s n d k ≤ ways d) → BlockBecomes (.rdcmaskWrite n v) s n { p with rdcmask := v })
    ∧ (¬ overlap → Unleased s → ∃ t, exec (.rdcmaskWrite n v) s = .next t ∧ (t.part n).rdcmask = v
        ∧ ∀ d k, d < 4 → dieSet t n d k ≤ ways d)
    ∧ (8 < w.toNat → exec (.scopedwWrite n w) s = .next s)
    ∧ (w.toNat ≤ 8 → p.scopedw ≤ w.toNat → BlockBecomes (.scopedwWrite n w) s n { p with scopedw := w.toNat })
    ∧ (w.toNat ≤ 8 → Unleased s → ∃ t, exec (.scopedwWrite n w) s = .next t ∧ (t.part n).scopedw = w.toNat
        ∧ ∀ q ∈ quiresOf s n, ∀ k, quireSet s q k ≤ p.scopedw → quireSet t q k ≤ w.toNat)

/-- R308, R368: a write of a granule entry is refused for a partition with no quire on the die; a change of H alone acts at
once; a change of V or PART makes the granule busy, once no cache holds a copy of a line of it, and the entry changes only when
the granule has been zeroed. -/
def Sys2Proof.Claims.Granules : Prop :=
  (∀ (d g : Nat) (v : BitVec 16) (s : State), PartsOpen s → (∀ e ∈ s.front.zeroing, e.1 ≠ granKey d g) →
    let w := v &&& 0xC07F
    let old := Sparse.get 0 s.front.gran (granKey d g)
    let mayOwn := v.getLsbD 15 = false ∨ ∃ q ∈ quiresOf s (v.toNat % 128), dieOfQuire q = d
    let bare := fun (t : State) => (∀ e ∈ t.quires, ∀ c ∈ e.2.copies, granuleOf (128 * c.line) ≠ some (granKey d g))
      ∧ ∀ e ∈ t.dies, ∀ c ∈ e.2.copies, granuleOf (128 * c.line) ≠ some (granKey d g)
    let begins := fun (t : State) => t.front.zeroing = s.front.zeroing ++ [(granKey d g, w)]
    (¬ mayOwn → exec (.granWrite d g v) s = .next s)
    ∧ (mayOwn → (old ^^^ w) &&& 0x807F = 0 → ∃ t, exec (.granWrite d g v) s = .next t ∧ FrontOnly s t
        ∧ (∀ k, Sparse.get 0 t.front.gran k = if k = granKey d g then w else Sparse.get 0 s.front.gran k)
        ∧ t.front.zeroing = s.front.zeroing)
    ∧ (mayOwn → (old ^^^ w) &&& 0x807F ≠ 0 →
        (bare s → ∃ t, exec (.granWrite d g v) s = .next t ∧ begins t ∧ t.front.gran = s.front.gran)
        ∧ ∀ t, exec (.granWrite d g v) s = .next t → begins t → bare t))
  ∧ (∀ (d g : Nat) (w : BitVec 16) (s : State), d < 4 → g < 178 →
    s.front.zeroing.find? (fun e => e.1 == granKey d g) = some (granKey d g, w) →
    (w.getLsbD 15 = true → (s.part (w.toNat % 128)).unposted = []) →
    ∃ t, exec (.granuleZeroDone d g) s = .next t ∧ (∀ e ∈ t.front.zeroing, e.1 ≠ granKey d g) ∧ t.ctxs = s.ctxs
      ∧ Sparse.get 0 t.front.gran (granKey d g) = w
      ∧ ∀ a, Memory.read t.mem a =
          if granBase d g ≤ a ∧ a < granBase d g + 0x40000000 then 0 else Memory.read s.mem a)
  ∧ (∀ (pa len : Nat) (k : Nat) (w : BitVec 16) (c : Coh) (x : Doer) (s : State), granuleOf pa = some k →
    (k, w) ∈ s.front.zeroing → mustWait s x pa len c = true)

/-- R361, R363: a write of a queue register sets its field and both indices to 0, and is ignored while the indices differ and
while the link carries no request. -/
def Sys2Proof.Claims.QueueRegisters : Prop :=
  ∀ (fn q : Nat) (v : Word) (s : State),
    let x := lqueue s fn q
    (barsOpen s .host fn = false → ∀ b, exec (.queueRegisterWrite fn q b v) s = .next s)
    ∧ (barsOpen s .host fn = true → x.kick = x.cons → x.prod = x.cons →
      (∃ t, exec (.queueRegisterWrite fn q false v) s = .next t ∧ FrontOnly s t
        ∧ lqueue t fn q = { base := v, log := x.log, prod := 0, cons := 0, kick := 0 })
      ∧ ∃ t, exec (.queueRegisterWrite fn q true v) s = .next t ∧ FrontOnly s t
        ∧ lqueue t fn q = { base := x.base, log := v.setWidth 5, prod := 0, cons := 0, kick := 0 })
    ∧ (x.prod ≠ x.cons → ∀ b, exec (.queueRegisterWrite fn q b v) s = .next s)


/-! ### Device control -/

/-- The event's only effect is that device control becomes `d`. -/
def Sys2Proof.Claims.DevBecomes (i : Instr) (s : State) (d : Dev) : Prop := exec i s = .next { s with dev := d }

/-- R363, R375, R376: IDEREQ is only ever set; a function's streams reach the secure state; PWRCAP takes 60 to 120 and ignores
other values; the average power of a window is below the cap, and THERM shows the hottest junction, in units of 0.25 °C, at its
end: from 105 °C on HOT is 1, from 115 °C on TRIP is. -/
def Sys2Proof.Claims.PowerAndIde : Prop :=
  ∀ (s : State) (v : BitVec 7) (w : BitVec 16) (tj : BitVec 10) (fn : Nat),
    let link := barsOpen s .host 0
    let cap := if s.dev.hot then 1500 else 25 * s.dev.pwrcap.toNat
    (link = true → DevBecomes (.idereqSet true) s { s.dev with idereq := true } ∧ exec (.idereqSet false) s = .next s)
    ∧ (∃ m, DevBecomes (.ideStreamSecure fn) s { s.dev with ide := m }
        ∧ ∀ k, Sparse.get false m k = (decide (k = fn) || Sparse.get false s.dev.ide k))
    ∧ (link = true → 60 ≤ v.toNat → v.toNat ≤ 120 → DevBecomes (.pwrcapWrite v) s { s.dev with pwrcap := v })
    ∧ (link = true → v.toNat < 60 ∨ 120 < v.toNat → exec (.pwrcapWrite v) s = .next s)
    ∧ (link = false → exec (.idereqSet true) s = .next s ∧ exec (.pwrcapWrite v) s = .next s)
    ∧ (w.toNat < cap → (s.dev.hot = true ↔ 420 ≤ tj.toNat) → s.dev.trip = true ∨ tj.toNat < 460 →
        DevBecomes (.powerWindow w tj) s { s.dev with pwrnow := w, tj := tj })
    ∧ (cap ≤ w.toNat → ∃ m, exec (.powerWindow w tj) s = .fault (.notEnabled m))

/-- R376: at 105 °C the cap is in force, below it ends; at 115 °C THERM.TRIP is set, no context issues and writes over the
link and by the management interface have no effect. Temperatures are in units of 0.25 °C. -/
def Sys2Proof.Claims.Temperature : Prop :=
  ∀ (s : State) (tj : BitVec 10),
    (420 ≤ tj.toNat → tj.toNat < 460 → DevBecomes (.thermalCap tj) s { s.dev with hot := true, tj := tj })
    ∧ (460 ≤ tj.toNat → DevBecomes (.thermalTrip tj) s { s.dev with hot := true, trip := true, tj := tj })
    ∧ (s.dev.hot = true → tj.toNat < 420 → DevBecomes (.hotCapEnd tj) s { s.dev with hot := false, tj := tj })
    ∧ (s.dev.trip = true → (∀ pos rest, pos < 16384 → s.agenda = .issue pos :: rest → step s = .fault .tripped)
        ∧ ∀ v w x, exec (.pwrcapWrite v) s = .next s ∧ exec (.fqconsWrite 0 w) s = .next s ∧ exec (.fabricRun x) s = .next s)

/-- R374, R377: as cycles pass the link trains, and the root of trust measures its boot ROM and draws EPOCH; a GO with a length
outside 1 to 16,777,216, or with a bad signature, sets BOOTERR with its code; a good one starts the firmware, which trains and
zeroes HBM5 and puts every table at its reset value, and then makes READY 1; failed training stops it. BSTEP names the last step
completed. A partition's chain of snapshots runs on (R371). A GO once READY is 1 is ignored. -/
def Sys2Proof.Claims.BringUp : Prop :=
  ∀ (s : State) (len : BitVec 25),
    let good := 1 ≤ len.toNat ∧ len.toNat ≤ 16777216
    (s.dev.bstep = 0 → (tick s).dev.bstep = 1)
    ∧ (s.dev.bstep = 1 → (tick s).dev.bstep = 2 ∧ (tick s).dev.epoch = Config.epoch s.dev.resets
        ∧ Sparse.get 0 (tick s).dev.measured 1 = Config.measurement 1 s.dev.resets)
    ∧ (2 ≤ s.dev.bstep → (tick s).dev.bstep = s.dev.bstep ∧ (tick s).dev.epoch = s.dev.epoch)
    ∧ (barsOpen s .host 0 = true → s.dev.ready = false → s.dev.booterr = false → 2 ≤ s.dev.bstep →
      (¬ good → ∀ sig, DevBecomes (.stagecmdGo len sig) s { s.dev with booterr := true, ecode := 2 })
      ∧ (good → DevBecomes (.stagecmdGo len false) s { s.dev with booterr := true, ecode := 1 })
      ∧ (good → ∃ t, exec (.stagecmdGo len true) s = .next t ∧ t.dev.bstep = 3 ∧ t.dev.ready = false ∧ t.dev.booterr = false
          ∧ t.ctxs = s.ctxs ∧ SameMemory s t ∧ t.front = s.front))
    ∧ (s.dev.ready = true ∨ s.dev.booterr = true → ∀ sig, exec (.stagecmdGo len sig) s = .next s)
    ∧ (s.dev.bstep = 3 → s.dev.booterr = false → s.dev.ready = false →
      DevBecomes (.bringupComplete false) s { s.dev with booterr := true, ecode := 3 }
      ∧ ∃ t, exec (.bringupComplete true) s = .next t ∧ t.dev = { s.dev with bstep := 4 }
        ∧ { t.front with parts := [] } = Front.reset
        ∧ (∀ n, ∃ k p, t.part n = { Part.reset with snapSeq := k, prev := p }
            ∧ ((s.part n).snapSeq ≠ 0 → k = (s.part n).snapSeq ∧ p = (s.part n).prev))
        ∧ t.poison = [] ∧ t.fabric.cal = [] ∧ t.fabric.pkeyt = [] ∧ t.fabric.rmap = []
        ∧ ∀ a, Memory.read t.mem a = if a < 0x8000000000000 then 0 else Memory.read s.mem a)
    ∧ (s.dev.bstep = 4 → s.dev.booterr = false → s.dev.ready = false →
      DevBecomes (.bringupComplete true) s { s.dev with bstep := 5, ready := true })

/-- R374, R377: cold reset puts every block at its reset value, with READY, BOOTERR, IDEREQ, HOT and TRIP 0 and PWRCAP 120,
and no step of bring-up complete; the host's memory is not the device's. -/
def Sys2Proof.Claims.ColdReset : Prop :=
  ∀ s : State, ∃ t, exec .coldReset s = .next t ∧ (∀ p, t.ctx p = Ctx.reset) ∧ (∀ q, t.quire q = Quire.reset)
    ∧ (∀ k, t.core k = Core.reset) ∧ t.front = Front.reset ∧ t.fabric = Fabric.reset ∧ t.cyc = 0
    ∧ t.dev.ready = false ∧ t.dev.booterr = false ∧ t.dev.idereq = false ∧ t.dev.hot = false ∧ t.dev.trip = false
    ∧ t.dev.pwrcap = 120 ∧ t.dev.bstep = 0 ∧ t.dev.resets = s.dev.resets + 1 ∧ (∀ k i, counter t k i = 0)
    ∧ ∀ a, Memory.read t.mem a = if a < 0x8000000000000 then 0 else Memory.read s.mem a


/-- R371, R372, R376: a request of Param2 1 to 4 or 0xFF returns the measurement blocks of those indices; one of 0x20 + n from
a requester that may name n returns a fresh snapshot of 512 bytes in a block of value type 0x84, and SEQ rises by 1, or the
final one of a partition that is destroyed; a virtual function that names another partition, and any other value, is answered
with InvalidRequest; other answers are signed on request with the key of the slot that the request names; after THERM.TRIP the
management interface is not answered. -/
def Sys2Proof.Claims.Measurements : Prop :=
  ∀ (r : MeasReq) (x : Byte) (n : Nat) (s : State),
    let may := r.who = .mgmt ∨ r.who = .doe 0 ∨ ∃ fn, r.who = .doe fn ∧ vdPart s fn = n
    let gives := fun (i : Instr) (t : State) (b : MeasBody) => exec i s = .next t
      ∧ ∃ sig, t.dev.answers = s.dev.answers ++ [⟨r.who, b, sig⟩] ∧ (r.nonce.isSome = true ↔ sig.isSome = true)
        ∧ ∀ y, sig = some y → ∃ m, y = Config.signature r.slot.toNat m
    let refuses := fun (i : Instr) => ∃ t, exec i s = .next t ∧ t.front = s.front
      ∧ t.dev.answers = s.dev.answers ++ [⟨r.who, .invalidRequest, none⟩]
    let boot := fun k => (⟨k, 1, Config.bootType k, toBytes 48 (Sparse.get 0 s.dev.measured k).toNat⟩ : MeasBlock)
    let snap := fun (b : List Byte) => MeasBody.blocks [⟨0x20 + n, 1, 0x84, b⟩]
    (s.dev.trip = true → r.who = .mgmt → exec (.getMeasurementsCount r) s = .next s
      ∧ exec (.getMeasurementsBoot r 0xFF) s = .next s ∧ exec (.getMeasurementsSnapshot r n) s = .next s)
    ∧ (¬ (s.dev.trip = true ∧ r.who = .mgmt) →
      (∃ t k, gives (.getMeasurementsCount r) t (.count k) ∧ t.front = s.front)
      ∧ (∀ k, 1 ≤ k → k ≤ 4 → x = BitVec.ofNat 8 k →
          ∃ t, gives (.getMeasurementsBoot r x) t (.blocks [boot k]) ∧ t.front = s.front)
      ∧ (x = 0xFF → ∃ t, gives (.getMeasurementsBoot r x) t (.blocks ([1, 2, 3, 4].map boot)) ∧ t.front = s.front)
      ∧ (may → (∀ b, (s.part n).final = some b → ∃ t, gives (.getMeasurementsSnapshot r n) t (snap b) ∧ t.front = s.front)
          ∧ ((s.part n).final = none → ∃ t b, gives (.getMeasurementsSnapshot r n) t (snap b) ∧ b.length = 512
              ∧ (t.part n).snapSeq = (s.part n).snapSeq + 1 ∧ b.take 8 = toBytes 8 (s.part n).snapSeq.toNat
              ∧ (t.part n).prev = Config.sha384 b))
      ∧ ((5 ≤ x.toNat ∧ x.toNat < 0x20) ∨ (0x9F < x.toNat ∧ x.toNat < 0xFF) → refuses (.getMeasurementsInvalid r x))
      ∧ (∀ fn, r.who = .doe fn → fn ≠ 0 → n < 128 → vdPart s fn ≠ n → x = BitVec.ofNat 8 (0x20 + n) →
          refuses (.getMeasurementsInvalid r x)))

/-! ### Registers without a row of their own -/

/-- R341, R358: outside CONFIG a write of FID, CAL, PKEYT or RCELLS, or of the generation in use, and anywhere one of state 3
into FSTATE or of a read-only register, changes nothing else and sets ERR; in CONFIG each register takes its value. The host
and the management interface alike may write the block. -/
def Sys2Proof.Claims.FabricRegisters : Prop :=
  ∀ (w : Writer) (v : BitVec 128) (k : Nat) (g : Bool) (s : State), barsOpen s w 0 = true →
    let errs := fun (r : RegName) => ∃ t, exec (.registerWrite w r v) s = .next t ∧ t.fabric = { s.fabric with err := true }
      ∧ t.ctxs = s.ctxs ∧ SameMemory s t ∧ t.front = s.front
    let sets := fun (r : RegName) (p : State → Prop) => ∃ t, exec (.registerWrite w r v) s = .next t ∧ p t
      ∧ t.fabric.err = s.fabric.err ∧ t.fabric.state = s.fabric.state ∧ t.ctxs = s.ctxs ∧ SameMemory s t ∧ t.front = s.front
    (s.fabric.state ≠ 1 → ∀ r ∈ [RegName.fid, .cal k, .pkeyt k, .rcells k], errs r)
    ∧ (∀ d, g = s.fabric.gensel → errs (.rtab g d))
    ∧ (v.toNat % 4 = 3 → v.getLsbD 16 = false → v.getLsbD 8 = s.fabric.gensel → errs .fstate)
    ∧ (0x400000 ≤ k → k < 0x480000 → errs (.readOnly k))
    ∧ (∀ d, g ≠ s.fabric.gensel → d < 1024 → sets (.rtab g d) fun t => ∀ j, j < 128 →
        (rtab t g d).getLsbD j = (decide (j < 92) && v.getLsbD j))
    ∧ (s.fabric.state = 1 →
        (v.toNat / 2 ^ 16 % 16 ≤ 10 → sets .fid fun t => myDev t = v.toNat % 1024 ∧ blkLog t = v.toNat / 2 ^ 16 % 16)
        ∧ (10 < v.toNat / 2 ^ 16 % 16 → errs .fid)
        ∧ (∀ p u, p < 16 → u < 64 → k = 64 * p + u → sets (.cal k) fun t => calKey t p u = v.toNat % 1024)
        ∧ (k < 128 → sets (.pkeyt k) fun t => pkeyOf t k =
            if v.getLsbD 31 = true ∧ v.toNat % 65536 ≠ 0 then some (v.setWidth 16) else none)
        ∧ (k < 128 → (((s.fabric.rcells.filter (·.1 != k)).map (·.2.toNat)).sum + v.toNat % 2 ^ 32 ≤ 16128) →
            sets (.rcells k) fun t => Sparse.get 0 t.fabric.rcells k = v.setWidth 32))

/-- R330, R365, R366: a partition that exists takes the values of its registers; one that does not ignores every write, as the
device does those of the management interface. -/
def Sys2Proof.Claims.PartitionRegisters : Prop :=
  ∀ (v : BitVec 128) (n q : Nat) (s : State),
    let p := s.part n
    let w := fun (r : RegName) => Instr.registerWrite .host r v
    let all := [RegName.fqbase n, .fqlog n, .fseq n, .fst n, .svc n, .age n, .quantum n, .migasid n, .perm n q]
    (∀ r ∈ all, exec (.registerWrite .mgmt r v) s = .next s)
    ∧ (p.exist_ = false ∨ ¬ PartsOpen s → ∀ r ∈ all, exec (w r) s = .next s)
    ∧ (PartsOpen s → p.exist_ = true →
      (p.unposted = [] → BlockBecomes (w (.fqbase n)) s n { p with fqbase := v.setWidth 64 }
        ∧ BlockBecomes (w (.fqlog n)) s n { p with fqlog := v.setWidth 5 })
      ∧ BlockBecomes (w (.fseq n)) s n { p with fseq := v.setWidth 64 }
      ∧ BlockBecomes (w (.fst n)) s n { p with fst := v.setWidth 64 }
      ∧ BlockBecomes (w (.svc n)) s n { p with svc := v.setWidth 16 &&& 0xBFFF }
      ∧ BlockBecomes (w (.age n)) s n { p with age := v.setWidth 16 }
      ∧ BlockBecomes (w (.quantum n)) s n { p with quantum := v.setWidth 16 }
      ∧ BlockBecomes (w (.migasid n)) s n { p with migasid := v.toNat % 1024 }
      ∧ (partOfQuire s q = some n → ∃ t, exec (w (.perm n q)) s = .next t ∧ FrontOnly s t
          ∧ ∀ k, Sparse.get 0 t.front.perm k = if k = q then v else Sparse.get 0 s.front.perm k))

/-- R5, R320, R361, R363, R377: the virtual device table, the roots, the staging window and the AtomicOp enable take their
values; a read-only register outside the fabric block, and a reserved offset, ignore a write. -/
def Sys2Proof.Claims.OtherRegisters : Prop :=
  ∀ (v : BitVec 128) (k : Nat) (s : State), barsOpen s .host 0 = true →
    let w := fun (r : RegName) => Instr.registerWrite .host r v
    (k < 256 → v.getLsbD 63 = false → ∃ t, exec (w (.vdt k)) s = .next t ∧ FrontOnly s t ∧ vdSched t k = false
      ∧ vdPart t k = v.toNat / 2 ^ 56 % 128 ∧ vdAsid t k = v.toNat / 2 ^ 32 % 1024
      ∧ (∀ j, j ≠ k → vdt t j = vdt s j) ∧ t.front.tasks = s.front.tasks)
    ∧ (k < 256 → v.getLsbD 63 = true → Sparse.get 0 s.front.pending k = 0 → ∃ t, exec (w (.vdt k)) s = .next t
      ∧ FrontOnly s t ∧ vdSched t k = true ∧ vdPart t k = v.toNat / 2 ^ 56 % 128)
    ∧ (s.dev.ready = true → k < 1024 → ∃ t, exec (w (.root k)) s = .next t ∧ FrontOnly s t
      ∧ Sparse.get Root.reset t.front.roots k = ⟨v.getLsbD 0, v.toNat / 2 ^ 8 % 128, v.toNat / 2 ^ 64 % 2 ^ 52⟩)
    ∧ (s.dev.ready = false → s.dev.booterr = false → (∃ d, DevBecomes (w .stageOff) s d ∧ d.stageOff = v.setWidth 9)
      ∧ (k + 8 ≤ 32768 → ∃ d, DevBecomes (w (.stage k)) s d ∧ ∀ a, Sparse.get 0 d.stage a =
          if 32768 * s.dev.stageOff.toNat + k ≤ a ∧ a < 32768 * s.dev.stageOff.toNat + k + 8
          then v.extractLsb' (8 * (a - (32768 * s.dev.stageOff.toNat + k))) 8 else Sparse.get 0 s.dev.stage a))
    ∧ (s.dev.ready = true → exec (w .stageOff) s = .next s ∧ exec (w (.stage k)) s = .next s)
    ∧ (v.getLsbD 63 = false → exec (w .stageCmd) s = .next s)
    ∧ (∃ d, DevBecomes (w (.atomicOpEnable k)) s d ∧ Sparse.get false d.atomicEn k = v.getLsbD 0)
    ∧ (k < 0x400000 ∨ 0x480000 ≤ k → exec (w (.readOnly k)) s = .next s) ∧ exec (w (.reserved k)) s = .next s

/-- R285, R330, R360, R361, R363, R365, R377: a host write at an offset of BAR0 is the write of the register there, and past
a virtual function's own pages of none; a host read of eight bytes returns a register, and nothing while the link carries no
memory request. -/
def Sys2Proof.Claims.BarOffsets : Prop :=
  ∀ (fn q n off : Nat) (v : BitVec 128) (s : State), q < 16 → n < 128 →
    let bar := fun fn off => exec (.registerWrite .host (.bar fn off) v) s
    bar fn (8 * q) = exec (.kick fn q (v.setWidth 64)) s
    ∧ bar fn 0x100 = exec (.graphCommit fn (v.setWidth 64)) s
    ∧ bar fn (0x1000 + 16 * q) = exec (.queueRegisterWrite fn q false (v.setWidth 64)) s
    ∧ bar fn (0x1008 + 16 * q) = exec (.queueRegisterWrite fn q true (v.setWidth 64)) s
    ∧ bar 0 (0x100038 + 4096 * n) = exec (.fqconsWrite n (v.setWidth 32)) s
    ∧ bar 0 0x800010 = exec (.pwrcapWrite (v.setWidth 7)) s
    ∧ (fn ≠ 0 → 0x1100 ≤ off → bar fn off = .next s)
    ∧ (ideHolds s 0 = false → s.dev.trip = false → barRead s 0 (0x100030 + 4096 * n) = some ((s.part n).fqprod.setWidth 64))
    ∧ (ideHolds s fn = true → barRead s fn off = none)

/-- R5, R285, R320, R358, R360, R361, R363, R365, R366, R377: the host's registers. -/
def Obligations.RegisterWrites : Prop := FabricRegisters ∧ PartitionRegisters ∧ OtherRegisters ∧ BarOffsets

/-! ### Encodings -/

/-- The worked encodings of the spec decode to the instructions that they stand for: fmul.f32 g5, g4, g1 and halt (R81);
cmp.lt.n64 p2, g2, g3 and gchunk p1, g2, 0 (R114); ld.64 g8, [g2], lease p1, 4, [g2] and fence.d (R175); vfma, vmul and vshift
(R201); mma, mmas and mst (R231); copy.in, wmark and spawn (R254); idle 1 and mread g2, 14 (R373's example). -/
def Obligations.DecodeWords : Prop :=
  let g : Guard := ⟨0, false⟩
  let reads := fun (b : List Byte) (i : Instr) => decode b = .ok (i, [])
  reads [0xC8, 0x00, 0x14, 0x09, 0x10, 0x00, 0x00, 0x00] (.fmul g ⟨.f32, 5, 4, 1⟩)
  ∧ reads [0x48, 0x01, 0x00, 0x00, 0x00, 0x00, 0x00, 0x00] (.halt g)
  ∧ reads [0xA4, 0x00, 0x88, 0x5C, 0x31, 0x00, 0x00, 0x00] (.cmp g .lt .n64 2 2 (.reg 3))
  ∧ reads [0x1C, 0x00, 0x08, 0x80, 0x00, 0x00, 0x00, 0x00] (.gchunk g 1 2 0)
  ∧ reads [0x00, 0x01, 0xA0, 0x00, 0x0C, 0x00, 0x00, 0x00] (.ld g .b64 .dflt 8 (.base8 2 0 0))
  ∧ reads [0x2C, 0x01, 0x80, 0xC0, 0x00, 0x20, 0x00, 0x00] (.lease g 1 3 (.base8 2 0 0))
  ∧ reads [0x34, 0x01, 0x00, 0x00, 0x00, 0x04, 0x00, 0x00] (.fence g .d)
  ∧ reads [0x8C, 0x01, 0x44, 0x3C, 0x40, 0x34, 0x00, 0x00] (.vfma g 17 15 (.tt 16 13))
  ∧ reads [0x88, 0x01, 0x48, 0x28, 0x00, 0x00, 0x84, 0x00] (.vmul g ⟨18, 10, .reg 1, false⟩)
  ∧ reads [0xE8, 0x01, 0x0C, 0x0C, 0x00, 0x00, 0x00, 0xF8] (.vshift g 3 3 0 (.short 31) none)
  ∧ reads [0x01, 0x02, 0x00, 0x10, 0x14, 0x00, 0x00, 0x04, 0x00, 0x00, 0x00, 0x00] (.mma g true 4 (.tile 5) 0 0 0 0)
  ∧ reads [0x05, 0x02, 0x00, 0x20, 0x0C, 0x24, 0x00, 0x28, 0x20, 0x00, 0x40, 0x00] (.mmas g .k8 false 8 (.dk 3) 9 32 64)
  ∧ reads [0x11, 0x02, 0x00, 0x28, 0x00, 0x00, 0x00, 0x14, 0x00, 0x00, 0x20, 0x00] (.mst g false true true 10 0 32)
  ∧ reads [0x6D, 0x01, 0x00, 0x08, 0x04, 0x00, 0x00, 0x00, 0x00, 0x00, 0x00, 0x00] (.copyIn g 2 1 0)
  ∧ reads [0x79, 0x01, 0x84, 0x00, 0x00, 0x00, 0x00, 0x00, 0x00, 0x00, 0x00, 0x00] (.wmark g 0 1 2)
  ∧ reads [0x40, 0x01, 0xD0, 0x14, 0x00, 0x10, 0x00, 0x00] (.spawn g 4 1 3 5)
  ∧ reads [0x64, 0x02, 0x00, 0x00, 0x00, 0x10, 0x00, 0x00] (.idle g 1)
  ∧ reads [0x60, 0x02, 0x08, 0x00, 0x00, 0xE0, 0x00, 0x00] (.mread g 2 14)

/-- R61, R65 to R83: every well-formed instruction has an encoding of 8, 12 or 16 bytes, and those bytes, whatever follows
them, decode to that instruction and leave what follows. -/
def Obligations.DecodeAfterEncode : Prop :=
  ∀ (i : Instr), i.wf = true → i.isEvent = false → ∃ e, encode i = some e ∧ (e.1 = 64 ∨ e.1 = 96 ∨ e.1 = 128)
    ∧ ∀ rest, decode (toBytes (e.1 / 8) e.2 ++ rest) = .ok (i, rest)

/-- R61, R63, R65 to R83: whatever decodes is a well-formed instruction, and the bytes that it was read from are its
encoding: no bit of an accepted word goes unread. -/
def Obligations.EncodeAfterDecode : Prop :=
  ∀ (b rest : List Byte) (i : Instr), decode b = .ok (i, rest) →
    i.wf = true ∧ i.isEvent = false ∧ ∃ e, encode i = some e ∧ b = toBytes (e.1 / 8) e.2 ++ rest

/-- The majors that R81 reserves. -/
def Sys2Proof.Claims.reservedMajor (m : Nat) : Prop :=
  m = 0 ∨ (0x09 ≤ m ∧ m ≤ 0x0F) ∨ (0x3B ≤ m ∧ m ≤ 0x3F) ∨ m = 0x4F ∨ (0x7B ≤ m ∧ m ≤ 0x7F) ∨ (0x86 ≤ m ∧ m ≤ 0x8F)
    ∨ 0x9A ≤ m

/-- R61, R62, R63, R64, R81: a reserved major, the guard (!p0), and an instruction that would cross the end of its fetch block
are refused; a first word whose low two bits are 0b11 is a skip code, whatever its other bits. -/
def Obligations.RefusedEncodings : Prop :=
  ∀ (b : List Byte),
    let w := ofBytes b
    let refused := ∃ e, decode b = .error e ∧ e ≠ .skipCode
    (16 ≤ b.length → w % 4 ≠ 3 → reservedMajor (w / 4 % 256) → refused)
    ∧ (16 ≤ b.length → w % 4 ≠ 3 → w / 2 ^ 14 % 16 = 8 → refused)
    ∧ (b ≠ [] → w % 4 ≠ 3 → b.length < 8 + 4 * (w % 4) → refused)
    ∧ (b ≠ [] → w % 4 = 3 → decode b = .error .skipCode)

/-! ### A step -/

/-- An issue turn of `pos` stands first in the agenda, and `u` is the state in the context's slot, which every cycle up to it
has let come: RUNNING, in the rotation, with its block there, and its turn in that cycle. -/
def Sys2Proof.Claims.AtSlot (s u : State) (pos : Nat) (b : Block) : Prop :=
  ∃ rest, s.agenda = .issue pos :: rest ∧ pos < 16384 ∧ s.dev.trip = false
    ∧ passCycles (cyclesToSlot { s with agenda := rest } pos) { s with agenda := rest } = some u ∧ mayIssue u pos = true
    ∧ inRotation (u.ctx pos) = true ∧ currentBlock (u.ctx pos) = some b

/-- R76, R284: a step whose turn is a context's issue, when the bytes at PC decode to an instruction, is exec of that
instruction in a cycle of the context's slot, with the context at PC with its block, and nothing else changed but the request
for a further block; a step whose turn is an event is exec of the event, noted where the front end's arbiter or the root of
trust takes it; a step whose turn is a tick adds one cycle, once this one owes nothing. A record that a move presents comes
after those of lower positions (R329, log 138). -/
def Obligations.StepRunsInstruction : Prop :=
  (∀ (s u : State) (pos : Nat) (b : Block) (i : Instr) (r : List Byte), AtSlot s u pos b → b.err = none →
    decode (b.data.drop ((u.ctx pos).pc.toNat % 32)) = .ok (i, r) →
    u.cyc % 16 = pos % 16 ∧ s.cyc ≤ u.cyc ∧ ∃ v, v.cur = pos ∧ v.issued = pos :: u.issued
      ∧ v.cyc = u.cyc ∧ v.agenda = u.agenda ∧ v.mem = u.mem ∧ v.front = u.front ∧ v.cores = u.cores ∧ v.dies = u.dies
      ∧ v.dev = u.dev ∧ v.fabric = u.fabric ∧ v.assize = u.assize ∧ v.shown = u.shown ∧ (∀ p, p ≠ pos → v.ctx p = u.ctx p)
      ∧ (∀ q, { v.quire q with fetches := (u.quire q).fetches } = u.quire q)
      ∧ (∃ a, v.ctx pos = { u.ctx pos with wait := .none, block := some b, ahead := a })
      ∧ (∀ t, exec i v = .next t → t.shown = u.shown ∨ t.shown = pos :: u.shown → step s = .next t)
      ∧ (∀ f, exec i v = .fault f → step s = .fault f) ∧ ∀ f, exec i v = .refused f → step s = .refused f)
  ∧ (∀ (s : State) (i : Instr) (rest : List Turn), s.agenda = .event i :: rest → i.isEvent = true → i.wf = true →
    let s1 := { s with agenda := rest }
    dueHandovers s1 = [] → mayTake s1 i = true →
      (∀ t, exec i s1 = .next t → t.shown = s1.shown → ∃ l, step s = .next { t with taken := l }
        ∧ (arbiterSource s1 i = none → askSource i = none → l = t.taken))
      ∧ (∀ f, exec i s1 = .fault f → step s = .fault f) ∧ ∀ f, exec i s1 = .refused f → step s = .refused f)
  ∧ (∀ (s : State) (rest : List Turn), s.agenda = .tick :: rest →
    (cycleOver { s with agenda := rest } = false → step s = .fault .notReady)
    ∧ (cycleOver { s with agenda := rest } = true → (∀ e ∈ s.front.parts, e.2.unposted = []) →
      ∃ t, step s = .next t ∧ t.cyc = s.cyc + 1 ∧ t.agenda = rest ∧ t.issued = [] ∧ SameMemory s t))

/-- R63, R76: a skip code moves PC to the next fetch block and neither issues nor counts; a word that decodes to no
instruction takes an ILLEGAL trap, and a block whose fetch failed takes the trap that it met, with PC at the instruction. -/
def Obligations.IssueWithoutInstruction : Prop :=
  ∀ (s u : State) (pos : Nat) (b : Block), AtSlot s u pos b →
    let c := u.ctx pos
    let bytes := b.data.drop (c.pc.toNat % 32)
    let traps := fun (k : Cause) => ∃ t, step s = .next t ∧ (t.ctx pos).run = .faulted ∧ (t.ctx pos).pc = c.pc
      ∧ (t.ctx pos).g = c.g ∧ ∀ n, partOf u pos = some n → ∃ r : FRec, r.trap.cause = k ∧ r.pc = c.pc
        ∧ (r ∈ (t.part n).recs ∨ r ∈ (t.part n).unposted)
    (b.err = none → decode bytes = .error .skipCode → ∃ t, step s = .next t
      ∧ (t.ctx pos).pc.toNat = (c.pc.toNat / 32 * 32 + 32) % 2 ^ 56 ∧ (t.ctx pos).g = c.g ∧ (t.ctx pos).st = c.st
      ∧ t.issued = u.issued ∧ t.assize = u.assize ∧ SameMemory u t)
    ∧ (∀ e, b.err = none → decode bytes = .error e → e ≠ .skipCode → traps .illegal)
    ∧ (∀ x, b.err = some x → traps x.cause)

/-! ### Reset, memory and the invariant -/

/-- R11, R12, R14, R339, R374, R377: right after cold reset every context is FREE with ST 0x1 and SEED 0, the fabric is OFF
with the default calendar, READY, BOOTERR and IDEREQ are 0 and PWRCAP is 120, and no partition exists. -/
def Obligations.ResetState : Prop :=
  let s := State.reset
  (∀ p, (s.ctx p).run = .free ∧ (s.ctx p).st = 1 ∧ (s.ctx p).seed = 0 ∧ (s.ctx p).wait = .none)
  ∧ (∀ n, (s.part n).exist_ = false ∧ (s.part n).fop = 0) ∧ (∀ q, partOfQuire s q = none)
  ∧ s.fabric.state = 0 ∧ s.fabric.err = false
  ∧ (∀ p u, p < 16 → u < 64 → calKey s p u = if p = 0 ∧ u = 0 then 0 else 1 + (64 * p + u - 1) % 1023)
  ∧ s.dev.ready = false ∧ s.dev.booterr = false ∧ s.dev.idereq = false ∧ s.dev.trip = false ∧ s.dev.pwrcap = 120
  ∧ (∀ k i, counter s k i = 0) ∧ s.front.tasks = [] ∧ s.front.launches = []

/-- The memory's laws: a byte reads as last written and no other byte changes; a write of bytes is read back as written; both
keep the canonical form; and two memories in canonical form that read alike everywhere are equal. -/
def Obligations.MemoryLaws : Prop :=
  (∀ (m : Memory) (a b : Nat) (x : Byte), Memory.read (Memory.write m a x) b = if b = a then x else Memory.read m b)
  ∧ (∀ (m : Memory) (a : Nat) (l : List Byte), Memory.readBytes (Memory.writeBytes m a l) a l.length = l)
  ∧ (∀ (m : Memory) (a : Nat) (l : List Byte), Memory.wf m = true → Memory.wf (Memory.writeBytes m a l) = true)
  ∧ (∀ m m' : Memory, Memory.wf m = true → Memory.wf m' = true → (∀ a, Memory.read m a = Memory.read m' a) → m = m')

/-- What every step keeps: memory, the table of contexts and the table of quire owners are in canonical form, P[0] of
every context reads 1 (R11, R12), and the numbers of the packets that the device holds differ. -/
def Sys2Proof.Claims.Inv (s : State) : Prop :=
  Memory.wf s.mem = true ∧ Sparse.wf Ctx.reset s.ctxs = true ∧ Sparse.wf 0 s.front.owner = true
    ∧ (∀ e ∈ s.ctxs, e.2.st.getLsbD 0 = true) ∧ NumbersFresh s

/-- Every step keeps the invariant, from every state that has it. -/
def Obligations.StepKeepsInv : Prop := ∀ s t : State, Inv s → step s = .next t → Inv t

/-- The state after reset, the state that a cold reset leaves, and the state with an instruction placed have the invariant. -/
def Obligations.InvAtReset : Prop :=
  Inv State.reset ∧ (∀ s t : State, Inv s → exec .coldReset s = .next t → Inv t)
    ∧ ∀ (s : State) (n w : Nat), Inv s → Inv (s.withFetchWord n w)

/-! ### The statements that say several things -/

/-- R115 to R117: the two-source integer arithmetic. -/
def Obligations.IntegerArithmetic : Prop := AddsAndProducts ∧ DivideAndRemainder

/-- R115, R118 to R120: logic, shifts, counts and bit fields. -/
def Obligations.BitsAndCounts : Prop := BitwiseAndShift ∧ CountBits ∧ BitFields

/-- R120 to R126: moves, comparisons, selection, addresses and views. -/
def Obligations.MovesAndAddresses : Prop := Moves ∧ Compare ∧ Select ∧ LoadEffectiveAddress ∧ Views

/-- R104, R127 to R131: the scalar floating-point instructions. -/
def Obligations.FloatInstructions : Prop := FloatArithmetic ∧ FloatCompare ∧ ConvertAndClassify

/-- R88 to R97: exact operations, and rounding of a value that the format holds. -/
def Obligations.ExactValues : Prop := ExactOperations ∧ RoundToKeepsRepresentable ∧ RoundToRounds ∧ ElementConverts

/-- R64, R79, R80: guards, and the payload that FMT leaves for the next vector or matrix instruction. -/
def Obligations.GuardsAndFormat : Prop := GuardFalseRetires ∧ PrefixTraps ∧ FormatSetsPrefix

/-- R132 to R137: branches, calls, jumps and returns. -/
def Obligations.ControlFlow : Prop := Branches ∧ CallsAndJumps

/-- R139 to R142: ALIGN and the iteration counters. -/
def Obligations.AlignAndCounters : Prop := AlignHoldsAndReleases ∧ IterationCounters

/-- R37, R328, R329: what taking a trap does to the context, and the record that it posts or holds. -/
def Obligations.TakingTrap : Prop := TrapStopsContext ∧ TrapPostsRecord ∧ TrapWaitsForRing

/-- R276 to R278, R331: TRAP, the instructions of service mode, and the return from a trap by ERET. -/
def Obligations.PrivilegeAndEret : Prop := TrapInstruction ∧ ServiceModeRequired ∧ EretUnknownHandle ∧ EretAnswersContext

/-- R13 to R15, R282: special registers and meters. -/
def Obligations.SpecialRegisters : Prop := SpecialRegisterRead ∧ SpecialRegisterWrite ∧ MeterRead

/-- R279 to R281: TLBI, CWB, CINV and FLUSHTAG. -/
def Obligations.Maintenance : Prop := TlbInvalidate ∧ CacheMaintenance ∧ FlushTag

/-- R154, R172, R191, R192, R326, R327: copies and queued reductions leaving, page walks, and the Host Port. -/
def Obligations.BackgroundMoves : Prop := CopyAndQueueMoves ∧ PageWalkEvent ∧ HostPortTakes ∧ HostPortSends ∧ HostPortCompletes

/-- R147, R148, R176 to R199: what an access instruction puts into its Issue Port. -/
def Obligations.AccessesPlaced : Prop := ResolveFrame ∧ LoadsAndStoresPlace ∧ AtomicsPlace ∧ SynchronisationPlaces

/-- R147, R148, R150, R155, R180 to R199, R208: accesses performed at their Home or on a scoped copy. -/
def Obligations.AccessesPerformed : Prop := LoadPerforms ∧ StorePerforms ∧ EventsInTurn ∧ AtomicPerforms ∧ QueuedReduction
  ∧ SynchronisationPerforms ∧ CopyPerforms

/-- R157, R173, R185, R193, R199: fences complete and waiters read again. -/
def Obligations.FencesAndWaiters : Prop := FenceCompletes ∧ WaitersReadAgain

/-- R270 to R273: threads started, reaped, ended and waiting for work. -/
def Obligations.Threads : Prop := Spawn ∧ Reap ∧ Halt ∧ WaitForWork

/-- R202 to R209: the tile table and the deckle table. -/
def Obligations.TilesAndDeckles : Prop := TileTable ∧ TileTests ∧ Deckles

/-- R255 to R268: channels, watermarks, and the engine's events. -/
def Obligations.CopyChannels : Prop := ChannelsAndWatermarks ∧ CopyEngine

/-- R201 to R228: the checks of a vector instruction's tiles, and its entry into the vector unit. -/
def Obligations.VectorIssue : Prop := VectorTileTests ∧ VectorEnters

/-- R231 to R249: the entry of a matrix instruction into its core's queue, and contexts tested again. -/
def Obligations.MatrixIssue : Prop := MatrixEnters ∧ Retest

/-- R310 to R319, R359: the coherence events, the host's own accesses and the patrol scrub. -/
def Obligations.CoherenceAndHost : Prop := Coherence ∧ HostAndScrub

/-- R342, R349, R350, R354, R357: packets delivered in order, remote requests and control packets. -/
def Obligations.PacketsInOrder : Prop := ReorderWindow ∧ RequestsAndControl

/-- R285, R286, R295, R296, R361, R399, R400: kicks, ring entries, graphs and scheduling commands. -/
def Obligations.FrontQueues : Prop := KicksTakeEntries ∧ GraphsAndScheduling

/-- R297 to R299, R334, R335: time slices end, and slots are saved and loaded. -/
def Obligations.SlotHandover : Prop := SliceEnds ∧ SlotSaved ∧ SlotLoaded ∧ ExchangeEnds

/-- R298, R299, R301: heads handed over last, and parked tasks restored. -/
def Obligations.HeadsAndMoves : Prop := HeadGoesLast ∧ TaskMoves

/-- R309, R314, R361, R365, R367: partitions made and ended, quires given and taken, cache ways and queue registers. -/
def Obligations.PartitionControl : Prop := PartsShut ∧ CreateDestroy ∧ QuireCommands ∧ CacheWays ∧ QueueRegisters

/-- R308, R366 to R368: quires drained and scrubbed, granules assigned and zeroed. -/
def Obligations.ScrubAndZero : Prop := ScrubCompletes ∧ Granules

/-- R283, R329 to R331: the service context, the fault ring's consumer and the host's answers. -/
def Obligations.FaultService : Prop := IdleAndDelivery ∧ RingConsumed ∧ HostAnswers

/-- R363, R371, R372, R374 to R377: device control, bring-up, temperature, and the root of trust's measurements. -/
def Obligations.DeviceControl : Prop := Measurements ∧ PowerAndIde ∧ Temperature ∧ BringUp ∧ ColdReset
end

