-- ==== Sys2Proof/Laws/Bits.lean ====
section
/-! SUPPORT. Laws of bit fields, packed fields and little-endian bytes. -/
namespace Sys2Proof

theorem bits_lt (w lo n : Nat) : bits w lo n < 2 ^ n := Nat.mod_lt _ (Nat.two_pow_pos n)

theorem bits_zero_left (lo n : Nat) : bits 0 lo n = 0 := by simp [bits]

/-- A field of one value that lies inside its width. -/
theorem bits_mod (v n lo k : Nat) (h : lo + k ≤ n) : bits (v % 2 ^ n) lo k = bits v lo k := by
  unfold bits
  obtain ⟨d, rfl⟩ := Nat.exists_eq_add_of_le h
  rw [show 2 ^ (lo + k + d) = 2 ^ lo * 2 ^ (k + d) by rw [← Nat.pow_add]; congr 1; omega,
    Nat.mod_mul_right_div_self, Nat.mod_mod_of_dvd _ (Nat.pow_dvd_pow 2 (Nat.le_add_right k d))]

/-- Below the first field's end. -/
theorem bits_pack_in (n v : Nat) (r : List (Nat × Nat)) (lo k : Nat) (h : lo + k ≤ n) :
    bits (pack ((n, v) :: r)) lo k = bits v lo k := by
  rw [pack, ← bits_mod (v % 2 ^ n + 2 ^ n * pack r) n lo k h, Nat.add_mul_mod_self_left, Nat.mod_mod, bits_mod v n lo k h]

/-- Above the first field. -/
theorem bits_pack_skip (n v : Nat) (r : List (Nat × Nat)) (lo k : Nat) (h : n ≤ lo) :
    bits (pack ((n, v) :: r)) lo k = bits (pack r) (lo - n) k := by
  obtain ⟨d, rfl⟩ := Nat.exists_eq_add_of_le h
  unfold bits
  rw [pack, Nat.pow_add, ← Nat.div_div_eq_div_mul, Nat.add_mul_div_left _ _ (Nat.two_pow_pos n),
    Nat.div_eq_of_lt (Nat.mod_lt _ (Nat.two_pow_pos n)), Nat.zero_add, Nat.add_sub_cancel_left]

/-- A field that starts in the first one and reaches past it. -/
theorem bits_pack_over (n v : Nat) (r : List (Nat × Nat)) (lo k : Nat) (h1 : lo < n) (h2 : n < lo + k) :
    bits (pack ((n, v) :: r)) lo k = bits v lo (n - lo) + 2 ^ (n - lo) * bits (pack r) 0 (lo + k - n) := by
  have e1 : n = lo + (n - lo) := by omega
  have e2 : k = (n - lo) + (lo + k - n) := by omega
  generalize n - lo = a at *
  generalize lo + k - n = b at *
  subst e1 e2
  unfold bits
  rw [pack, Nat.pow_add 2 lo a, Nat.mul_assoc, Nat.pow_zero, Nat.div_one]
  rw [Nat.add_mul_div_left _ _ (Nat.two_pow_pos lo), Nat.mod_mul_right_div_self]
  rw [Nat.pow_add 2 a b, Nat.mod_mul, Nat.add_mul_mod_self_left, Nat.mod_mod,
    Nat.add_mul_div_left _ _ (Nat.two_pow_pos a), Nat.div_eq_of_lt (Nat.mod_lt _ (Nat.two_pow_pos a)), Nat.zero_add]

/-- A whole value of its own width. -/
theorem bits_toNat {n : Nat} (x : BitVec n) : bits x.toNat 0 n = x.toNat := by
  simp [bits, Nat.mod_eq_of_lt x.isLt]

theorem ofNat_bits {n : Nat} (x : BitVec n) : BitVec.ofNat n (bits x.toNat 0 n) = x := by
  rw [bits_toNat]; simp

theorem pack_lt : ∀ l : List (Nat × Nat), pack l < 2 ^ (l.map (·.1)).sum
  | [] => by simp [pack]
  | (n, v) :: r => by
    have h := pack_lt r
    have hm := Nat.mod_lt v (Nat.two_pow_pos n)
    simp only [pack, List.map_cons, List.sum_cons, Nat.pow_add]
    calc v % 2 ^ n + 2 ^ n * pack r < 2 ^ n + 2 ^ n * pack r := by omega
      _ = 2 ^ n * (pack r + 1) := by ring
      _ ≤ 2 ^ n * 2 ^ (r.map (·.1)).sum := Nat.mul_le_mul_left _ h

/-- Little-endian bytes and back. -/
theorem ofBytes_toBytes : ∀ n w : Nat, ofBytes (toBytes n w) = w % 256 ^ n
  | 0, w => by simp [toBytes, ofBytes, Nat.mod_one]
  | n + 1, w => by
    rw [toBytes, ofBytes, ofBytes_toBytes n, BitVec.toNat_ofNat, show 256 ^ (n + 1) = 256 * 256 ^ n by ring, Nat.mod_mul]

@[simp] theorem toBytes_length : ∀ n w : Nat, (toBytes n w).length = n
  | 0, _ => rfl
  | n + 1, w => by simp [toBytes, toBytes_length n]

theorem toBytes_succ (n w : Nat) : toBytes (n + 1) w = BitVec.ofNat 8 w :: toBytes n (w / 256) := rfl

end Sys2Proof
end

