-- ==== Sys2Proof/Laws/Bytes.lean ====
section
/-! SUPPORT. The length in bytes of each instruction, from its format (R61, R65 to R73). -/
namespace Sys2Proof
open Machine

theorem Instr.bytes_of {i : Instr} {n w : Nat} (h : encode i = some (n, w)) : i.bytes = n / 8 := by rw [Instr.bytes, h]

@[simp] theorem Instr.bytes_nop (g : Guard) : (Instr.nop g).bytes = 8 := (Instr.bytes_of rfl).trans rfl
@[simp] theorem Instr.bytes_br (g : Guard) (off : BitVec 34) : (Instr.br g off).bytes = 8 := (Instr.bytes_of rfl).trans rfl
@[simp] theorem Instr.bytes_brTile (g : Guard) (t : Handle) (cv : BitVec 3) (cn : Bool) (off : BitVec 34) :
    (Instr.brTile g t cv cn off).bytes = 8 := (Instr.bytes_of rfl).trans rfl
@[simp] theorem Instr.bytes_brChan (g : Guard) (ch : BitVec 3) (cv : BitVec 3) (cn : Bool) (off : BitVec 34) :
    (Instr.brChan g ch cv cn off).bytes = 8 := (Instr.bytes_of rfl).trans rfl
@[simp] theorem Instr.bytes_jmp (g : Guard) (n : Reg) : (Instr.jmp g n).bytes = 8 := (Instr.bytes_of rfl).trans rfl
@[simp] theorem Instr.bytes_call (g : Guard) (off : BitVec 34) : (Instr.call g off).bytes = 8 := (Instr.bytes_of rfl).trans rfl
@[simp] theorem Instr.bytes_callReg (g : Guard) (n : Reg) : (Instr.callReg g n).bytes = 8 := (Instr.bytes_of rfl).trans rfl
@[simp] theorem Instr.bytes_ret (g : Guard) : (Instr.ret g).bytes = 8 := (Instr.bytes_of rfl).trans rfl
@[simp] theorem Instr.bytes_align (g : Guard) (limit : BitVec 20) : (Instr.align g limit).bytes = 8 := (Instr.bytes_of rfl).trans rfl
@[simp] theorem Instr.bytes_gchunk (g : Guard) (pd : Pred) (rd : Reg) (n : BitVec 2) :
    (Instr.gchunk g pd rd n).bytes = 8 := (Instr.bytes_of rfl).trans rfl
@[simp] theorem Instr.bytes_gchunkInit (g : Guard) (n : BitVec 2) (ra rb rc : Reg) :
    (Instr.gchunkInit g n ra rb rc).bytes = 8 := (Instr.bytes_of rfl).trans rfl
@[simp] theorem Instr.bytes_fmt (p : FmtPay) : (Instr.fmt p).bytes = 8 := (Instr.bytes_of rfl).trans rfl
@[simp] theorem Instr.bytes_add (g : Guard) (o : IntBin) : (Instr.add g o).bytes = srcBytes o.b := by
  rcases o with ⟨ty, rd, ra, r | (v | v | v), sf⟩ <;> exact (Instr.bytes_of rfl).trans rfl
@[simp] theorem Instr.bytes_sub (g : Guard) (o : IntBin) : (Instr.sub g o).bytes = srcBytes o.b := by
  rcases o with ⟨ty, rd, ra, r | (v | v | v), sf⟩ <;> exact (Instr.bytes_of rfl).trans rfl
@[simp] theorem Instr.bytes_mul (g : Guard) (o : IntBin) : (Instr.mul g o).bytes = srcBytes o.b := by
  rcases o with ⟨ty, rd, ra, r | (v | v | v), sf⟩ <;> exact (Instr.bytes_of rfl).trans rfl
@[simp] theorem Instr.bytes_mulh (g : Guard) (o : IntBin) : (Instr.mulh g o).bytes = srcBytes o.b := by
  rcases o with ⟨ty, rd, ra, r | (v | v | v), sf⟩ <;> exact (Instr.bytes_of rfl).trans rfl
@[simp] theorem Instr.bytes_div (g : Guard) (o : IntBin) : (Instr.div g o).bytes = srcBytes o.b := by
  rcases o with ⟨ty, rd, ra, r | (v | v | v), sf⟩ <;> exact (Instr.bytes_of rfl).trans rfl
@[simp] theorem Instr.bytes_rem (g : Guard) (o : IntBin) : (Instr.rem g o).bytes = srcBytes o.b := by
  rcases o with ⟨ty, rd, ra, r | (v | v | v), sf⟩ <;> exact (Instr.bytes_of rfl).trans rfl
@[simp] theorem Instr.bytes_and (g : Guard) (o : IntBin) : (Instr.and g o).bytes = srcBytes o.b := by
  rcases o with ⟨ty, rd, ra, r | (v | v | v), sf⟩ <;> exact (Instr.bytes_of rfl).trans rfl
@[simp] theorem Instr.bytes_or (g : Guard) (o : IntBin) : (Instr.or g o).bytes = srcBytes o.b := by
  rcases o with ⟨ty, rd, ra, r | (v | v | v), sf⟩ <;> exact (Instr.bytes_of rfl).trans rfl
@[simp] theorem Instr.bytes_xor (g : Guard) (o : IntBin) : (Instr.xor g o).bytes = srcBytes o.b := by
  rcases o with ⟨ty, rd, ra, r | (v | v | v), sf⟩ <;> exact (Instr.bytes_of rfl).trans rfl
@[simp] theorem Instr.bytes_andn (g : Guard) (o : IntBin) : (Instr.andn g o).bytes = srcBytes o.b := by
  rcases o with ⟨ty, rd, ra, r | (v | v | v), sf⟩ <;> exact (Instr.bytes_of rfl).trans rfl
@[simp] theorem Instr.bytes_shl (g : Guard) (o : IntBin) : (Instr.shl g o).bytes = srcBytes o.b := by
  rcases o with ⟨ty, rd, ra, r | (v | v | v), sf⟩ <;> exact (Instr.bytes_of rfl).trans rfl
@[simp] theorem Instr.bytes_shr (g : Guard) (o : IntBin) : (Instr.shr g o).bytes = srcBytes o.b := by
  rcases o with ⟨ty, rd, ra, r | (v | v | v), sf⟩ <;> exact (Instr.bytes_of rfl).trans rfl
@[simp] theorem Instr.bytes_sha (g : Guard) (o : IntBin) : (Instr.sha g o).bytes = srcBytes o.b := by
  rcases o with ⟨ty, rd, ra, r | (v | v | v), sf⟩ <;> exact (Instr.bytes_of rfl).trans rfl
@[simp] theorem Instr.bytes_rot (g : Guard) (o : IntBin) : (Instr.rot g o).bytes = srcBytes o.b := by
  rcases o with ⟨ty, rd, ra, r | (v | v | v), sf⟩ <;> exact (Instr.bytes_of rfl).trans rfl
@[simp] theorem Instr.bytes_min (g : Guard) (o : IntBin) : (Instr.min g o).bytes = srcBytes o.b := by
  rcases o with ⟨ty, rd, ra, r | (v | v | v), sf⟩ <;> exact (Instr.bytes_of rfl).trans rfl
@[simp] theorem Instr.bytes_max (g : Guard) (o : IntBin) : (Instr.max g o).bytes = srcBytes o.b := by
  rcases o with ⟨ty, rd, ra, r | (v | v | v), sf⟩ <;> exact (Instr.bytes_of rfl).trans rfl
@[simp] theorem Instr.bytes_clz (g : Guard) (o : IntUn) : (Instr.clz g o).bytes = 8 := (Instr.bytes_of rfl).trans rfl
@[simp] theorem Instr.bytes_ctz (g : Guard) (o : IntUn) : (Instr.ctz g o).bytes = 8 := (Instr.bytes_of rfl).trans rfl
@[simp] theorem Instr.bytes_popc (g : Guard) (o : IntUn) : (Instr.popc g o).bytes = 8 := (Instr.bytes_of rfl).trans rfl
@[simp] theorem Instr.bytes_bfx (g : Guard) (ty : BfxTy) (rd ra : Reg) (pos : BitVec 6) (len : BitVec 7) :
    (Instr.bfx g ty rd ra pos len).bytes = 8 := (Instr.bytes_of rfl).trans rfl
@[simp] theorem Instr.bytes_bfi (g : Guard) (rd ra : Reg) (pos : BitVec 6) (len : BitVec 7) :
    (Instr.bfi g rd ra pos len).bytes = 8 := (Instr.bytes_of rfl).trans rfl
@[simp] theorem Instr.bytes_sext (g : Guard) (ty : ExtTy) (rd ra : Reg) : (Instr.sext g ty rd ra).bytes = 8 := (Instr.bytes_of rfl).trans rfl
@[simp] theorem Instr.bytes_zext (g : Guard) (ty : ExtTy) (rd ra : Reg) : (Instr.zext g ty rd ra).bytes = 8 := (Instr.bytes_of rfl).trans rfl
@[simp] theorem Instr.bytes_mov (g : Guard) (rd ra : Reg) : (Instr.mov g rd ra).bytes = 8 := (Instr.bytes_of rfl).trans rfl
@[simp] theorem Instr.bytes_movi (g : Guard) (rd : Reg) (i : Imm) : (Instr.movi g rd i).bytes = immBytes i := by
  rcases i with v | v | v <;> exact (Instr.bytes_of rfl).trans rfl
@[simp] theorem Instr.bytes_cmp (g : Guard) (c : ICond) (ty : ITy) (pd : Pred) (ra : Reg) (b : Src) :
    (Instr.cmp g c ty pd ra b).bytes = srcBytes b := by
  rcases b with r | (v | v | v) <;> exact (Instr.bytes_of rfl).trans rfl
@[simp] theorem Instr.bytes_sel (g : Guard) (rd : Reg) (pn : Pred) (ra rb : Reg) : (Instr.sel g rd pn ra rb).bytes = 8 := (Instr.bytes_of rfl).trans rfl
@[simp] theorem Instr.bytes_lea (g : Guard) (rd : Reg) (a : Addr) : (Instr.lea g rd a).bytes = addrBytes a := by
  cases a <;> exact (Instr.bytes_of rfl).trans rfl
@[simp] theorem Instr.bytes_vqual (g : Guard) (rd ra : Reg) (die : Bool) : (Instr.vqual g rd ra die).bytes = 8 := (Instr.bytes_of rfl).trans rfl
@[simp] theorem Instr.bytes_vset (g : Guard) (rd ra : Reg) (v : VwSrc) : (Instr.vset g rd ra v).bytes = 8 := by
  cases v <;> exact (Instr.bytes_of rfl).trans rfl
@[simp] theorem Instr.bytes_vget (g : Guard) (rd ra : Reg) : (Instr.vget g rd ra).bytes = 8 := (Instr.bytes_of rfl).trans rfl
@[simp] theorem Instr.bytes_vclr (g : Guard) (rd ra : Reg) : (Instr.vclr g rd ra).bytes = 8 := (Instr.bytes_of rfl).trans rfl
@[simp] theorem Instr.bytes_fadd (g : Guard) (o : FltBin) : (Instr.fadd g o).bytes = 8 := (Instr.bytes_of rfl).trans rfl
@[simp] theorem Instr.bytes_fsub (g : Guard) (o : FltBin) : (Instr.fsub g o).bytes = 8 := (Instr.bytes_of rfl).trans rfl
@[simp] theorem Instr.bytes_fmul (g : Guard) (o : FltBin) : (Instr.fmul g o).bytes = 8 := (Instr.bytes_of rfl).trans rfl
@[simp] theorem Instr.bytes_fma (g : Guard) (ty : Fmt) (rd ra rb rc : Reg) : (Instr.fma g ty rd ra rb rc).bytes = 8 := (Instr.bytes_of rfl).trans rfl
@[simp] theorem Instr.bytes_fdiv (g : Guard) (o : FltBin) : (Instr.fdiv g o).bytes = 8 := (Instr.bytes_of rfl).trans rfl
@[simp] theorem Instr.bytes_fsqrt (g : Guard) (ty : Fmt) (rd ra : Reg) : (Instr.fsqrt g ty rd ra).bytes = 8 := (Instr.bytes_of rfl).trans rfl
@[simp] theorem Instr.bytes_fmin (g : Guard) (o : FltBin) : (Instr.fmin g o).bytes = 8 := (Instr.bytes_of rfl).trans rfl
@[simp] theorem Instr.bytes_fmax (g : Guard) (o : FltBin) : (Instr.fmax g o).bytes = 8 := (Instr.bytes_of rfl).trans rfl
@[simp] theorem Instr.bytes_fcmp (g : Guard) (c : FCond) (ty : Fmt) (pd : Pred) (ra rb : Reg) :
    (Instr.fcmp g c ty pd ra rb).bytes = 8 := (Instr.bytes_of rfl).trans rfl
@[simp] theorem Instr.bytes_fcvt (g : Guard) (dst src : Fmt) (sf : Bool) (rd ra : Reg) :
    (Instr.fcvt g dst src sf rd ra).bytes = 8 := (Instr.bytes_of rfl).trans rfl
@[simp] theorem Instr.bytes_fclass (g : Guard) (ty : Fmt) (rd ra : Reg) : (Instr.fclass g ty rd ra).bytes = 8 := (Instr.bytes_of rfl).trans rfl
@[simp] theorem Instr.bytes_ld (g : Guard) (sz : Sz) (po : Pol) (rd : Reg) (a : Addr) :
    (Instr.ld g sz po rd a).bytes = addrBytes a := by
  cases a <;> exact (Instr.bytes_of rfl).trans rfl
@[simp] theorem Instr.bytes_ldx (g : Guard) (sz : Sz) (po : Pol) (rd : Reg) (a : Addr) :
    (Instr.ldx g sz po rd a).bytes = addrBytes a := by
  cases a <;> exact (Instr.bytes_of rfl).trans rfl
@[simp] theorem Instr.bytes_st (g : Guard) (sz : Sz) (po : Pol) (rd : Reg) (a : Addr) :
    (Instr.st g sz po rd a).bytes = addrBytes a := by
  cases a <;> exact (Instr.bytes_of rfl).trans rfl
@[simp] theorem Instr.bytes_ldp (g : Guard) (po : Pol) (rd : Reg) (a : Addr) : (Instr.ldp g po rd a).bytes = addrBytes a := by
  cases a <;> exact (Instr.bytes_of rfl).trans rfl
@[simp] theorem Instr.bytes_stp (g : Guard) (po : Pol) (rd : Reg) (a : Addr) : (Instr.stp g po rd a).bytes = addrBytes a := by
  cases a <;> exact (Instr.bytes_of rfl).trans rfl
@[simp] theorem Instr.bytes_pref (g : Guard) (po : Pol) (a : Addr) : (Instr.pref g po a).bytes = addrBytes a := by
  cases a <;> exact (Instr.bytes_of rfl).trans rfl
@[simp] theorem Instr.bytes_waitline (g : Guard) (sz : Sz) (po : Pol) (rd : Reg) (pd : Pred) (rc : Reg) (a : Addr) :
    (Instr.waitline g sz po rd pd rc a).bytes = addrBytes a := by
  cases a <;> exact (Instr.bytes_of rfl).trans rfl
@[simp] theorem Instr.bytes_atom (g : Guard) (op : AtomOp) (sz : Sz) (sc : Scope) (po : Pol) (rd rc : Reg) (a : Addr) :
    (Instr.atom g op sz sc po rd rc a).bytes = addrBytes a := by
  cases a <;> exact (Instr.bytes_of rfl).trans rfl
@[simp] theorem Instr.bytes_cas (g : Guard) (sz : Sz) (sc : Scope) (po : Pol) (rd : Reg) (pd : Pred) (rc rb : Reg) (a : Addr) :
    (Instr.cas g sz sc po rd pd rc rb a).bytes = addrBytes a := by
  cases a <;> exact (Instr.bytes_of rfl).trans rfl
@[simp] theorem Instr.bytes_cas2 (g : Guard) (sc : Scope) (po : Pol) (rd : Reg) (pd : Pred) (rc rb : Reg) (a : Addr) :
    (Instr.cas2 g sc po rd pd rc rb a).bytes = addrBytes a := by
  cases a <;> exact (Instr.bytes_of rfl).trans rfl
@[simp] theorem Instr.bytes_red (g : Guard) (op : AtomOp) (sz : Sz) (sc : Scope) (po : Pol) (rc : Reg) (a : Addr) :
    (Instr.red g op sz sc po rc a).bytes = addrBytes a := by
  cases a <;> exact (Instr.bytes_of rfl).trans rfl
@[simp] theorem Instr.bytes_lease (g : Guard) (pd : Pred) (n : BitVec 4) (a : Addr) : (Instr.lease g pd n a).bytes = addrBytes a := by
  cases a <;> exact (Instr.bytes_of rfl).trans rfl
@[simp] theorem Instr.bytes_lend (g : Guard) (pd : Pred) : (Instr.lend g pd).bytes = 8 := (Instr.bytes_of rfl).trans rfl
@[simp] theorem Instr.bytes_fence (g : Guard) (sc : Scope) : (Instr.fence g sc).bytes = 8 := (Instr.bytes_of rfl).trans rfl
@[simp] theorem Instr.bytes_barArrive (g : Guard) (rd : Reg) (a : Addr) : (Instr.barArrive g rd a).bytes = addrBytes a := by
  cases a <;> exact (Instr.bytes_of rfl).trans rfl
@[simp] theorem Instr.bytes_barWait (g : Guard) (rd : Reg) (a : Addr) : (Instr.barWait g rd a).bytes = addrBytes a := by
  cases a <;> exact (Instr.bytes_of rfl).trans rfl
@[simp] theorem Instr.bytes_spawn (g : Guard) (rd : Reg) (n : BitVec 4) (ra rb : Reg) :
    (Instr.spawn g rd n ra rb).bytes = 8 := (Instr.bytes_of rfl).trans rfl
@[simp] theorem Instr.bytes_reap (g : Guard) (rd : Reg) (n : BitVec 4) (wait : Bool) :
    (Instr.reap g rd n wait).bytes = 8 := (Instr.bytes_of rfl).trans rfl
@[simp] theorem Instr.bytes_halt (g : Guard) : (Instr.halt g).bytes = 8 := (Instr.bytes_of rfl).trans rfl
@[simp] theorem Instr.bytes_wfw (g : Guard) (rd : Reg) : (Instr.wfw g rd).bytes = 8 := (Instr.bytes_of rfl).trans rfl
@[simp] theorem Instr.bytes_migr (g : Guard) (rd ra : Reg) (quire : BitVec 7) (named : Bool) :
    (Instr.migr g rd ra quire named).bytes = 8 := (Instr.bytes_of rfl).trans rfl
@[simp] theorem Instr.bytes_talloc (g : Guard) (ready : Bool) (td dk : Handle) (voff len : BitVec 16) :
    (Instr.talloc g ready td dk voff len).bytes = 12 := (Instr.bytes_of rfl).trans rfl
@[simp] theorem Instr.bytes_tallocProd (g : Guard) (td : Handle) (slot : BitVec 2) (rx : Reg) :
    (Instr.tallocProd g td slot rx).bytes = 8 := (Instr.bytes_of rfl).trans rfl
@[simp] theorem Instr.bytes_tfree (g : Guard) (t : Handle) : (Instr.tfree g t).bytes = 8 := (Instr.bytes_of rfl).trans rfl
@[simp] theorem Instr.bytes_tstate (g : Guard) (rx : Reg) (pd : Pred) (t : Handle) : (Instr.tstate g rx pd t).bytes = 8 := (Instr.bytes_of rfl).trans rfl
@[simp] theorem Instr.bytes_twait (g : Guard) (t : Handle) (st : BitVec 3) : (Instr.twait g t st).bytes = 8 := (Instr.bytes_of rfl).trans rfl
@[simp] theorem Instr.bytes_dkld (g : Guard) (dn : Handle) (ra : Reg) (disp : BitVec 32) :
    (Instr.dkld g dn ra disp).bytes = 12 := (Instr.bytes_of rfl).trans rfl
@[simp] theorem Instr.bytes_dkset (g : Guard) (dn : Handle) (f : DkField) (src : DkSrc) :
    (Instr.dkset g dn f src).bytes = (match src with
    | .reg _ => 8
    | .imm _ => 12) := by
  cases src <;> exact (Instr.bytes_of rfl).trans rfl
@[simp] theorem Instr.bytes_copyIn (g : Guard) (td dk ch : Handle) : (Instr.copyIn g td dk ch).bytes = 12 := (Instr.bytes_of rfl).trans rfl
@[simp] theorem Instr.bytes_copyOut (g : Guard) (ts dk ch : Handle) : (Instr.copyOut g ts dk ch).bytes = 12 := (Instr.bytes_of rfl).trans rfl
@[simp] theorem Instr.bytes_copyr (g : Guard) (ch : Handle) (ra : Reg) (quire : BitVec 7) (td ts : Handle) :
    (Instr.copyr g ch ra quire td ts).bytes = 12 := (Instr.bytes_of rfl).trans rfl
@[simp] theorem Instr.bytes_copym (g : Guard) (ts dk ch : Handle) : (Instr.copym g ts dk ch).bytes = 12 := (Instr.bytes_of rfl).trans rfl
@[simp] theorem Instr.bytes_wmark (g : Guard) (ch : Handle) (ra rb : Reg) : (Instr.wmark g ch ra rb).bytes = 12 := (Instr.bytes_of rfl).trans rfl
@[simp] theorem Instr.bytes_wmarkGet (g : Guard) (gd : Reg) (ch : Handle) : (Instr.wmarkGet g gd ch).bytes = 12 := (Instr.bytes_of rfl).trans rfl
@[simp] theorem Instr.bytes_chwait (g : Guard) (ch : Handle) : (Instr.chwait g ch).bytes = 12 := (Instr.bytes_of rfl).trans rfl
@[simp] theorem Instr.bytes_vadd (g : Guard) (o : VecBin) : (Instr.vadd g o).bytes = 8 := by
  rcases o with ⟨td, ta, t | r, sf⟩ <;> exact (Instr.bytes_of rfl).trans rfl
@[simp] theorem Instr.bytes_vsub (g : Guard) (o : VecBin) : (Instr.vsub g o).bytes = 8 := by
  rcases o with ⟨td, ta, t | r, sf⟩ <;> exact (Instr.bytes_of rfl).trans rfl
@[simp] theorem Instr.bytes_vmul (g : Guard) (o : VecBin) : (Instr.vmul g o).bytes = 8 := by
  rcases o with ⟨td, ta, t | r, sf⟩ <;> exact (Instr.bytes_of rfl).trans rfl
@[simp] theorem Instr.bytes_vfma (g : Guard) (td ta : Handle) (bc : FmaSrc) : (Instr.vfma g td ta bc).bytes = 8 := by
  cases bc <;> exact (Instr.bytes_of rfl).trans rfl
@[simp] theorem Instr.bytes_vdiv (g : Guard) (o : VecBin) : (Instr.vdiv g o).bytes = 8 := by
  rcases o with ⟨td, ta, t | r, sf⟩ <;> exact (Instr.bytes_of rfl).trans rfl
@[simp] theorem Instr.bytes_vsqrt (g : Guard) (o : VecUn) : (Instr.vsqrt g o).bytes = 8 := (Instr.bytes_of rfl).trans rfl
@[simp] theorem Instr.bytes_vrsqrt (g : Guard) (o : VecUn) : (Instr.vrsqrt g o).bytes = 8 := (Instr.bytes_of rfl).trans rfl
@[simp] theorem Instr.bytes_vexp2 (g : Guard) (o : VecUn) : (Instr.vexp2 g o).bytes = 8 := (Instr.bytes_of rfl).trans rfl
@[simp] theorem Instr.bytes_vlog2 (g : Guard) (o : VecUn) : (Instr.vlog2 g o).bytes = 8 := (Instr.bytes_of rfl).trans rfl
@[simp] theorem Instr.bytes_vmin (g : Guard) (o : VecBin) : (Instr.vmin g o).bytes = 8 := by
  rcases o with ⟨td, ta, t | r, sf⟩ <;> exact (Instr.bytes_of rfl).trans rfl
@[simp] theorem Instr.bytes_vmax (g : Guard) (o : VecBin) : (Instr.vmax g o).bytes = 8 := by
  rcases o with ⟨td, ta, t | r, sf⟩ <;> exact (Instr.bytes_of rfl).trans rfl
@[simp] theorem Instr.bytes_vabs (g : Guard) (o : VecUn) : (Instr.vabs g o).bytes = 8 := (Instr.bytes_of rfl).trans rfl
@[simp] theorem Instr.bytes_vneg (g : Guard) (o : VecUn) : (Instr.vneg g o).bytes = 8 := (Instr.bytes_of rfl).trans rfl
@[simp] theorem Instr.bytes_vcmp (g : Guard) (c : FCond) (td ta : Handle) (b : TSrc) :
    (Instr.vcmp g c td ta b).bytes = 8 := by
  cases b <;> exact (Instr.bytes_of rfl).trans rfl
@[simp] theorem Instr.bytes_vsel (g : Guard) (td ta tb : Handle) (c : TSrc) : (Instr.vsel g td ta tb c).bytes = 8 := by
  cases c <;> exact (Instr.bytes_of rfl).trans rfl
@[simp] theorem Instr.bytes_vcvt (g : Guard) (o : VecUn) : (Instr.vcvt g o).bytes = 8 := (Instr.bytes_of rfl).trans rfl
@[simp] theorem Instr.bytes_vquant (g : Guard) (o : VecUn) : (Instr.vquant g o).bytes = 8 := (Instr.bytes_of rfl).trans rfl
@[simp] theorem Instr.bytes_vred (g : Guard) (o : VecRed) : (Instr.vred g o).bytes = 8 := (Instr.bytes_of rfl).trans rfl
@[simp] theorem Instr.bytes_vscan (g : Guard) (o : VecRed) : (Instr.vscan g o).bytes = 8 := (Instr.bytes_of rfl).trans rfl
@[simp] theorem Instr.bytes_vtrans (g : Guard) (td ta : Handle) (axa axb : BitVec 3) :
    (Instr.vtrans g td ta axa axb).bytes = 8 := (Instr.bytes_of rfl).trans rfl
@[simp] theorem Instr.bytes_vperm (g : Guard) (td ta tb : Handle) (axis : BitVec 3) :
    (Instr.vperm g td ta tb axis).bytes = 8 := (Instr.bytes_of rfl).trans rfl
@[simp] theorem Instr.bytes_vgath (g : Guard) (td ta : Handle) (rx : Reg) (scale : BitVec 3) :
    (Instr.vgath g td ta rx scale).bytes = 8 := (Instr.bytes_of rfl).trans rfl
@[simp] theorem Instr.bytes_vscat (g : Guard) (ta tb : Handle) (rx : Reg) (scale : BitVec 3) :
    (Instr.vscat g ta tb rx scale).bytes = 8 := (Instr.bytes_of rfl).trans rfl
@[simp] theorem Instr.bytes_vbcast (g : Guard) (td : Handle) (a : TSrc) : (Instr.vbcast g td a).bytes = 8 := by
  cases a <;> exact (Instr.bytes_of rfl).trans rfl
@[simp] theorem Instr.bytes_vext (g : Guard) (rx : Reg) (ta : Handle) (i : VIdx) : (Instr.vext g rx ta i).bytes = (match i with
    | .short _ => 8
    | .long _ => 12) := by
  cases i <;> exact (Instr.bytes_of rfl).trans rfl
@[simp] theorem Instr.bytes_vins (g : Guard) (td : Handle) (rx : Reg) (i : VIdx) : (Instr.vins g td rx i).bytes = (match i with
    | .short _ => 8
    | .long _ => 12) := by
  cases i <;> exact (Instr.bytes_of rfl).trans rfl
@[simp] theorem Instr.bytes_vshift (g : Guard) (td ta : Handle) (axis : BitVec 3) (amt : VAmt) (fill : Option Reg) :
    (Instr.vshift g td ta axis amt fill).bytes = (match amt with
    | .short _ => 8
    | .long _ => 12) := by
  cases amt <;> cases fill <;> exact (Instr.bytes_of rfl).trans rfl
@[simp] theorem Instr.bytes_mma (g : Guard) (acc : Bool) (ta : Handle) (b : MatB) (tsa tsw : Handle) (row0 col0 : BitVec 16) :
    (Instr.mma g acc ta b tsa tsw row0 col0).bytes = 12 := by
  cases b <;> exact (Instr.bytes_of rfl).trans rfl
@[simp] theorem Instr.bytes_mmas (g : Guard) (keep : Keep) (acc : Bool) (ta : Handle) (b : MatB) (tm : Handle) (row0 col0 : BitVec 16) :
    (Instr.mmas g keep acc ta b tm row0 col0).bytes = 12 := by
  cases b <;> exact (Instr.bytes_of rfl).trans rfl
@[simp] theorem Instr.bytes_mmg (g : Guard) (mem : Bool) (acc : Bool) (ta tg : Handle) (row0 col0 : BitVec 16) :
    (Instr.mmg g mem acc ta tg row0 col0).bytes = 12 := (Instr.bytes_of rfl).trans rfl
@[simp] theorem Instr.bytes_mzero (g : Guard) (acc : Bool) : (Instr.mzero g acc).bytes = 12 := (Instr.bytes_of rfl).trans rfl
@[simp] theorem Instr.bytes_mst (g : Guard) (s32 sf : Bool) (acc : Bool) (td : Handle) (row0 col0 : BitVec 16) :
    (Instr.mst g s32 sf acc td row0 col0).bytes = 12 := (Instr.bytes_of rfl).trans rfl
@[simp] theorem Instr.bytes_mwait (g : Guard) : (Instr.mwait g).bytes = 12 := (Instr.bytes_of rfl).trans rfl
@[simp] theorem Instr.bytes_srd (g : Guard) (rd : Reg) (spec : BitVec 12) : (Instr.srd g rd spec).bytes = 8 := (Instr.bytes_of rfl).trans rfl
@[simp] theorem Instr.bytes_swr (g : Guard) (spec : BitVec 12) (ra : Reg) : (Instr.swr g spec ra).bytes = 8 := (Instr.bytes_of rfl).trans rfl
@[simp] theorem Instr.bytes_trap (g : Guard) (imm : BitVec 20) : (Instr.trap g imm).bytes = 8 := (Instr.bytes_of rfl).trans rfl
@[simp] theorem Instr.bytes_eret (g : Guard) (ra : Reg) : (Instr.eret g ra).bytes = 8 := (Instr.bytes_of rfl).trans rfl
@[simp] theorem Instr.bytes_eretSt (g : Guard) (ra rb : Reg) : (Instr.eretSt g ra rb).bytes = 8 := (Instr.bytes_of rfl).trans rfl
@[simp] theorem Instr.bytes_eretAbort (g : Guard) (ra : Reg) (st : Option Reg) : (Instr.eretAbort g ra st).bytes = 8 := by
  cases st <;> exact (Instr.bytes_of rfl).trans rfl
@[simp] theorem Instr.bytes_tlbiAsid (g : Guard) (ra : Reg) : (Instr.tlbiAsid g ra).bytes = 8 := (Instr.bytes_of rfl).trans rfl
@[simp] theorem Instr.bytes_tlbiAddr (g : Guard) (ra rb : Reg) : (Instr.tlbiAddr g ra rb).bytes = 8 := (Instr.bytes_of rfl).trans rfl
@[simp] theorem Instr.bytes_tlbiRange (g : Guard) (ra rb : Reg) (n : BitVec 20) : (Instr.tlbiRange g ra rb n).bytes = 8 := (Instr.bytes_of rfl).trans rfl
@[simp] theorem Instr.bytes_tlbiKind (g : Guard) (ra : Reg) (k : BitVec 3) : (Instr.tlbiKind g ra k).bytes = 8 := (Instr.bytes_of rfl).trans rfl
@[simp] theorem Instr.bytes_tlbiAll (g : Guard) : (Instr.tlbiAll g).bytes = 8 := (Instr.bytes_of rfl).trans rfl
@[simp] theorem Instr.bytes_cwb (g : Guard) (ra rb : Reg) : (Instr.cwb g ra rb).bytes = 8 := (Instr.bytes_of rfl).trans rfl
@[simp] theorem Instr.bytes_cinv (g : Guard) (ra rb : Reg) : (Instr.cinv g ra rb).bytes = 8 := (Instr.bytes_of rfl).trans rfl
@[simp] theorem Instr.bytes_flushtag (g : Guard) (quire : BitVec 7) (ra : Reg) : (Instr.flushtag g quire ra).bytes = 8 := (Instr.bytes_of rfl).trans rfl
@[simp] theorem Instr.bytes_mread (g : Guard) (rd : Reg) (idx : BitVec 6) : (Instr.mread g rd idx).bytes = 8 := (Instr.bytes_of rfl).trans rfl
@[simp] theorem Instr.bytes_idle (g : Guard) (n : BitVec 20) : (Instr.idle g n).bytes = 8 := (Instr.bytes_of rfl).trans rfl

end Sys2Proof
end

