-- ==== Sys2Proof/Laws/Fields.lean ====
section
/-! SUPPORT. Laws of the encoding: field codes and back, a field read from a list of packed fields, and decoding once the
header has been read. -/
namespace Sys2Proof

/-- A field of packed values, read from the list of them. -/
def ext : List (Nat × Nat) → Nat → Nat → Nat
  | [], _, _ => 0
  | (n, v) :: r, lo, k =>
    if n ≤ lo then ext r (lo - n) k
    else if lo + k ≤ n then bits v lo k
    else bits v lo (n - lo) + 2 ^ (n - lo) * ext r 0 (lo + k - n)

theorem bits_pack : ∀ (l : List (Nat × Nat)) (lo k : Nat), bits (pack l) lo k = ext l lo k
  | [], lo, k => bits_zero_left lo k
  | (n, v) :: r, lo, k => by
    rw [ext]
    split
    · next h => rw [bits_pack_skip _ _ _ _ _ h, bits_pack]
    · split
      · next h => exact bits_pack_in _ _ _ _ _ h
      · rw [bits_pack_over _ _ _ _ _ (by omega) (by omega), bits_pack]

/-! ### Field codes -/

theorem bits_bit1 (b : Bool) : bits (bit1 b) 0 1 = bit1 b := by cases b <;> rfl
theorem bit1_beq (b : Bool) : (bit1 b == 1) = b := by cases b <;> rfl
theorem bit1_beq_zero (b : Bool) : (bit1 b == 0) = !b := by cases b <;> rfl
theorem Fmt.bits_code (x : Fmt) : bits x.code 0 5 = x.code := by cases x <;> rfl
theorem Fmt.of_code (x : Fmt) : fmtOf x.code = some x := by cases x <;> rfl
theorem ITy.bits_code (x : ITy) : bits x.code 0 5 = x.code := by cases x <;> rfl
theorem ITy.of_code (x : ITy) : ityOf x.code = some x := by cases x <;> rfl
theorem BfxTy.bits_code (x : BfxTy) : bits x.code 0 5 = x.code := by cases x <;> rfl
theorem BfxTy.of_code (x : BfxTy) : bfxTyOf x.code = some x := by cases x <;> rfl
theorem ExtTy.bits_code (x : ExtTy) : bits x.code 0 5 = x.code := by cases x <;> rfl
theorem ExtTy.of_code (x : ExtTy) : extTyOf x.code = some x := by cases x <;> rfl
theorem ICond.bits_code (x : ICond) : bits x.code 0 4 = x.code := by cases x <;> rfl
theorem ICond.of_code (x : ICond) : icondOf x.code = some x := by cases x <;> rfl
theorem FCond.bits_code (x : FCond) : bits x.code 0 4 = x.code := by cases x <;> rfl
theorem FCond.of_code (x : FCond) : fcondOf x.code = some x := by cases x <;> rfl
theorem Sz.bits_code (x : Sz) : bits x.code 0 2 = x.code := by cases x <;> rfl
theorem Sz.of_code (x : Sz) : szOf x.code = x := by cases x <;> rfl
theorem Scope.bits_code (x : Scope) : bits x.code 0 2 = x.code := by cases x <;> rfl
theorem Scope.of_code (x : Scope) : scopeOf x.code = x := by cases x <;> rfl
theorem Pol.bits_code (x : Pol) : bits x.code 0 2 = x.code := by cases x <;> rfl
theorem Pol.of_code (x : Pol) : polOf x.code = x := by cases x <;> rfl
theorem AtomOp.of_code (x : AtomOp) : atomOpOf x.code = some x := by cases x <;> rfl
theorem RedOp.bits_code (x : RedOp) : bits x.code 0 3 = x.code := by cases x <;> rfl
theorem RedOp.of_code (x : RedOp) : redOpOf x.code = some x := by cases x <;> rfl
theorem DkField.bits_code (x : DkField) : bits x.code 0 4 = x.code := by cases x <;> rfl
theorem DkField.of_code (x : DkField) : dkFieldOf x.code = some x := by cases x <;> rfl
theorem Keep.bits_code (x : Keep) : bits x.code 0 4 = x.code := by cases x <;> rfl
theorem Keep.of_code (x : Keep) : keepOf x.code = some x := by cases x <;> rfl

/-! ### Values joined in one field -/

theorem bits_join_low {n : Nat} (x : BitVec n) (b k : Nat) (h : k ≤ n) : bits (x.toNat + 2 ^ n * b) 0 k = bits x.toNat 0 k := by
  simp only [bits, Nat.pow_zero, Nat.div_one]
  obtain ⟨d, rfl⟩ := Nat.exists_eq_add_of_le h
  rw [Nat.pow_add, Nat.mul_assoc, Nat.add_mul_mod_self_left]

theorem bits_join_high {n : Nat} (x : BitVec n) (b k : Nat) : bits (x.toNat + 2 ^ n * b) n k = bits b 0 k := by
  simp only [bits, Nat.pow_zero, Nat.div_one]
  rw [Nat.add_mul_div_left _ _ (Nat.two_pow_pos n), Nat.div_eq_of_lt x.isLt, Nat.zero_add]

theorem bits_join_above {n : Nat} (x : BitVec n) (b m k : Nat) (hb : b < 2 ^ m) : bits (x.toNat + 2 ^ n * b) (n + m) k = 0 := by
  have h : x.toNat + 2 ^ n * b < 2 ^ (n + m) := by
    rw [Nat.pow_add]
    calc x.toNat + 2 ^ n * b < 2 ^ n + 2 ^ n * b := Nat.add_lt_add_right x.isLt _
      _ = 2 ^ n * (b + 1) := by ring
      _ ≤ 2 ^ n * 2 ^ m := Nat.mul_le_mul_left _ hb
  simp [bits, Nat.div_eq_of_lt h]

theorem bit1_lt (b : Bool) : bit1 b < 2 ^ 1 := by cases b <;> decide

/-- A field wider than the value it holds. -/
theorem bits_wide {n : Nat} (x : BitVec n) (k : Nat) (h : n ≤ k) : bits x.toNat 0 k = x.toNat := by
  simp only [bits, Nat.pow_zero, Nat.div_one]
  exact Nat.mod_eq_of_lt (Nat.lt_of_lt_of_le x.isLt (Nat.pow_le_pow_right (by decide) h))

/-- A low field of a sum whose second part starts above it. -/
theorem bits_join0 {n N : Nat} (x : BitVec n) (b k : Nat) (hN : N = 2 ^ n) (h : k ≤ n) :
    bits (x.toNat + N * b) 0 k = bits x.toNat 0 k := hN ▸ bits_join_low x b k h

/-- The field at the start of a sum's second part. -/
theorem bits_join1 {n N : Nat} (x : BitVec n) (b k : Nat) (hN : N = 2 ^ n) : bits (x.toNat + N * b) n k = bits b 0 k :=
  hN ▸ bits_join_high x b k

/-- A field above the bits of its value. -/
theorem bits_past {n : Nat} (x : BitVec n) (lo k : Nat) (h : n ≤ lo) : bits x.toNat lo k = 0 := by
  have hx : x.toNat < 2 ^ lo := Nat.lt_of_lt_of_le x.isLt (Nat.pow_le_pow_right (by decide) h)
  simp [bits, Nat.div_eq_of_lt hx]

theorem bits_bit1_past (b : Bool) (k : Nat) : bits (bit1 b) 1 k = 0 := by cases b <;> simp [bits, bit1]

/-! ### Constants of the formats -/

/-- A field of a constant. -/
theorem bits_lit (a lo k : Nat) : bits (no_index (OfNat.ofNat a)) lo k = OfNat.ofNat a / 2 ^ lo % 2 ^ k := rfl

theorem bits_1_1 : bits 1 0 1 = 1 := rfl
theorem bits_1_2 : bits 1 0 2 = 1 := rfl
theorem bits_2_2 : bits 2 0 2 = 2 := rfl
theorem bits_1_4 : bits 1 0 4 = 1 := rfl

/-! ### The header (R61, R64, R82, R83) -/

/-- The part of decodeWord after the header's checks. -/
def decodeBody (maj min l w : Nat) (g : Guard) : Except DecodeError Instr :=
  if maj < 0x10 then decodeControl maj min w g
  else if maj < 0x30 then decodeInt maj l w g
  else if maj < 0x40 then decodeFlt maj w g
  else if maj < 0x50 then decodeMem maj min l w g
  else if maj < 0x55 then decodeSys maj min w g
  else if maj = 0x59 then decodeCopy maj min w g
  else if maj < 0x5B then decodeTile maj l w g
  else if maj < 0x60 then decodeCopy maj min w g
  else if maj < 0x80 then decodeVec maj l w g
  else if maj < 0x90 then decodeMat maj w g
  else decodeSys maj min w g

section
variable {maj min l w : Nat} {g : Guard}

theorem body_control (h : maj < 0x10) : decodeBody maj min l w g = decodeControl maj min w g := by
  rw [decodeBody, if_pos h]
theorem body_int (h1 : 0x10 ≤ maj) (h2 : maj < 0x30) : decodeBody maj min l w g = decodeInt maj l w g := by
  rw [decodeBody, if_neg (by omega), if_pos h2]
theorem body_flt (h1 : 0x30 ≤ maj) (h2 : maj < 0x40) : decodeBody maj min l w g = decodeFlt maj w g := by
  rw [decodeBody, if_neg (by omega), if_neg (by omega), if_pos h2]
theorem body_mem (h1 : 0x40 ≤ maj) (h2 : maj < 0x50) : decodeBody maj min l w g = decodeMem maj min l w g := by
  rw [decodeBody]
  iterate 3 rw [if_neg (by omega)]
  rw [if_pos h2]
theorem body_sys (h1 : 0x50 ≤ maj) (h2 : maj < 0x55) : decodeBody maj min l w g = decodeSys maj min w g := by
  rw [decodeBody]
  iterate 4 rw [if_neg (by omega)]
  rw [if_pos h2]
theorem body_dkld (h : maj = 0x59) : decodeBody maj min l w g = decodeCopy maj min w g := by
  rw [decodeBody]
  iterate 5 rw [if_neg (by omega)]
  rw [if_pos h]
theorem body_tile (h1 : 0x55 ≤ maj) (h2 : maj < 0x5B) (h3 : maj ≠ 0x59) :
    decodeBody maj min l w g = decodeTile maj l w g := by
  rw [decodeBody]
  iterate 5 rw [if_neg (by omega)]
  rw [if_neg h3, if_pos h2]
theorem body_copy (h1 : 0x5B ≤ maj) (h2 : maj < 0x60) : decodeBody maj min l w g = decodeCopy maj min w g := by
  rw [decodeBody]
  iterate 7 rw [if_neg (by omega)]
  rw [if_pos h2]
theorem body_vec (h1 : 0x60 ≤ maj) (h2 : maj < 0x80) : decodeBody maj min l w g = decodeVec maj l w g := by
  rw [decodeBody]
  iterate 8 rw [if_neg (by omega)]
  rw [if_pos h2]
theorem body_mat (h1 : 0x80 ≤ maj) (h2 : maj < 0x90) : decodeBody maj min l w g = decodeMat maj w g := by
  rw [decodeBody]
  iterate 9 rw [if_neg (by omega)]
  rw [if_pos h2]
theorem body_sys_high (h : 0x90 ≤ maj) : decodeBody maj min l w g = decodeSys maj min w g := by
  rw [decodeBody]
  iterate 10 rw [if_neg (by omega)]

end

/-- With its header read, a word is decoded by its major. -/
theorem decodeWord_hdr (l' maj min l : Nat) (g : Guard) (r : List (Nat × Nat)) (hmaj : bits maj 0 8 = maj)
    (hmin : bits min 0 4 = min) (hg : g.wf = true) (hl : (lengthsOf maj).contains l = true) (hm : minorOk maj min = true) :
    decodeWord l (pack (hdr l' maj min g ++ r)) = decodeBody maj min l (pack (hdr l' maj min g ++ r)) g := by
  have h1 : bits (pack (hdr l' maj min g ++ r)) 2 8 = maj := (bits_pack _ _ _).trans hmaj
  have h2 : bits (pack (hdr l' maj min g ++ r)) 10 4 = min := (bits_pack _ _ _).trans hmin
  have h3 : predAt (pack (hdr l' maj min g ++ r)) 14 = g.gp := by
    rw [predAt, bits_pack]; exact ofNat_bits _
  have h4 : flagAt (pack (hdr l' maj min g ++ r)) 17 = g.gs := by
    rw [flagAt, bits_pack]
    show (bits (bit1 g.gs) 0 1 == 1) = g.gs
    rw [bits_bit1, bit1_beq]
  have hne : lengthsOf maj ≠ [] := by intro h; simp [h] at hl
  unfold decodeWord
  simp only [h1, h2, h3, h4, hne, hl, hm, show (⟨g.gp, g.gs⟩ : Guard) = g from rfl, hg, if_false, Bool.not_true,
    Bool.false_eq_true]
  rfl

end Sys2Proof
end

