-- ==== Sys2Proof/Laws/Sparse.lean ====
section
/-! SUPPORT. Laws of sparse maps and of memory: a read after a write, and the canonical form kept. -/
namespace Sys2Proof.Machine

section
variable {α : Type}

theorem Sparse.get_erase_same (d : α) : ∀ (m : Sparse α) (i : Nat), Sparse.get d (Sparse.erase m i) i = d
  | [], _ => rfl
  | (k, v) :: r, i => by
    have ih := Sparse.get_erase_same d r i
    unfold Sparse.erase at ih ⊢
    by_cases h : k = i <;> simp [h, Sparse.get, ih]

theorem Sparse.get_erase_other (d : α) : ∀ (m : Sparse α) (i j : Nat), j ≠ i →
    Sparse.get d (Sparse.erase m i) j = Sparse.get d m j
  | [], _, _, _ => rfl
  | (k, v) :: r, i, j, hj => by
    have ih := Sparse.get_erase_other d r i j hj
    unfold Sparse.erase at ih ⊢
    by_cases h : k = i
    · have : k ≠ j := fun e => hj (e.symm.trans h)
      simp [h, Sparse.get, ih, h ▸ this]
    · simp [h, Sparse.get, ih]

theorem Sparse.get_insert_same (d : α) (i : Nat) (x : α) : ∀ m : Sparse α, Sparse.get d m i = d → (∀ e ∈ m, e.1 ≠ i) →
    Sparse.get d (Sparse.insert i x m) i = x
  | [], _, _ => by simp [Sparse.insert, Sparse.get]
  | (k, v) :: r, h, hm => by
    have hk : k ≠ i := hm (k, v) (by simp)
    rw [Sparse.insert]
    split
    · simp [Sparse.get]
    · rw [Sparse.get, if_neg hk]
      exact Sparse.get_insert_same d i x r (by simpa [Sparse.get, hk] using h) fun e he => hm e (by simp [he])

theorem Sparse.get_insert_other (d : α) (i : Nat) (x : α) (j : Nat) (hj : j ≠ i) : ∀ m : Sparse α,
    Sparse.get d (Sparse.insert i x m) j = Sparse.get d m j
  | [] => by simp [Sparse.insert, Sparse.get, Ne.symm hj]
  | (k, v) :: r => by
    rw [Sparse.insert]
    split
    · rw [Sparse.get, if_neg (Ne.symm hj)]
    · simp only [Sparse.get, Sparse.get_insert_other d i x j hj r]

theorem Sparse.erase_ne {m : Sparse α} {i : Nat} {e : Nat × α} (h : e ∈ Sparse.erase m i) : e.1 ≠ i := by
  simpa [Sparse.erase] using (List.mem_filter.mp h).2

variable [DecidableEq α]

@[simp] theorem Sparse.get_set_same (d : α) (m : Sparse α) (i : Nat) (x : α) :
    Sparse.get d (Sparse.set d m i x) i = x := by
  rw [Sparse.set]
  split
  · next h => rw [Sparse.get_erase_same, h]
  · exact Sparse.get_insert_same d i x _ (Sparse.get_erase_same d m i) fun e he => Sparse.erase_ne he

theorem Sparse.get_set_other (d : α) (m : Sparse α) (i j : Nat) (x : α) (h : j ≠ i) :
    Sparse.get d (Sparse.set d m i x) j = Sparse.get d m j := by
  rw [Sparse.set]
  split
  · exact Sparse.get_erase_other d m i j h
  · rw [Sparse.get_insert_other d i x j h, Sparse.get_erase_other d m i j h]

/-- A read after a write. -/
theorem Sparse.get_set (d : α) (m : Sparse α) (i j : Nat) (x : α) :
    Sparse.get d (Sparse.set d m i x) j = if j = i then x else Sparse.get d m j := by
  split
  · next h => rw [h, Sparse.get_set_same]
  · next h => exact Sparse.get_set_other d m i j x h

/-! ### The canonical form -/

theorem Sparse.wfFrom_mono (d : α) : ∀ (m : Sparse α) (a b : Nat), a ≤ b → Sparse.wfFrom d b m = true →
    Sparse.wfFrom d a m = true
  | [], _, _, _, _ => rfl
  | (k, v) :: r, a, b, h, hw => by
    simp only [Sparse.wfFrom, Bool.and_eq_true, decide_eq_true_eq] at hw ⊢
    exact ⟨⟨by omega, hw.1.2⟩, hw.2⟩

theorem Sparse.erase_wf (d : α) : ∀ (m : Sparse α) (b i : Nat), Sparse.wfFrom d b m = true →
    Sparse.wfFrom d b (Sparse.erase m i) = true
  | [], _, _, _ => rfl
  | (k, v) :: r, b, i, hw => by
    simp only [Sparse.wfFrom, Bool.and_eq_true, decide_eq_true_eq] at hw
    have ih := Sparse.erase_wf d r (k + 1) i hw.2
    unfold Sparse.erase at ih ⊢
    by_cases h : k = i
    · simp only [List.filter_cons, h, bne_self_eq_false, Bool.false_eq_true, if_false]
      exact Sparse.wfFrom_mono d _ b (k + 1) (by omega) (h ▸ ih)
    · simp [h, Sparse.wfFrom, hw.1.1, hw.1.2, ih]

theorem Sparse.insert_wf (d : α) (i : Nat) (x : α) (hx : x ≠ d) : ∀ (m : Sparse α) (b : Nat), Sparse.wfFrom d b m = true →
    b ≤ i → (∀ e ∈ m, e.1 ≠ i) → Sparse.wfFrom d b (Sparse.insert i x m) = true
  | [], b, _, hb, _ => by simp [Sparse.insert, Sparse.wfFrom, hb, hx]
  | (k, v) :: r, b, hw, hb, hm => by
    have hk : k ≠ i := hm (k, v) (by simp)
    simp only [Sparse.wfFrom, Bool.and_eq_true, decide_eq_true_eq] at hw
    rw [Sparse.insert]
    split
    · next h => simp [Sparse.wfFrom, hb, hx, hw.1.2, hw.2, Nat.succ_le_of_lt h]
    · next h =>
      simp only [Sparse.wfFrom, Bool.and_eq_true, decide_eq_true_eq]
      exact ⟨hw.1, Sparse.insert_wf d i x hx r (k + 1) hw.2 (by omega) fun e he => hm e (by simp [he])⟩

/-- A write keeps the canonical form. -/
theorem Sparse.set_wf (d : α) (m : Sparse α) (i : Nat) (x : α) (h : Sparse.wf d m = true) :
    Sparse.wf d (Sparse.set d m i x) = true := by
  unfold Sparse.wf at h ⊢
  rw [Sparse.set]
  split
  · exact Sparse.erase_wf d m 0 i h
  · next hx => exact Sparse.insert_wf d i x hx _ 0 (Sparse.erase_wf d m 0 i h) (Nat.zero_le _) fun e he => Sparse.erase_ne he

theorem Sparse.modify_wf (d : α) (m : Sparse α) (i : Nat) (f : α → α) (h : Sparse.wf d m = true) :
    Sparse.wf d (Sparse.modify d m i f) = true := Sparse.set_wf d m i _ h

end

/-! ### Memory -/

/-- A read of one byte after a write of one byte. -/
theorem Memory.read_write (m : Memory) (a b : Nat) (x : Byte) :
    Memory.read (Memory.write m a x) b = if b = a then x else Memory.read m b := Sparse.get_set _ _ _ _ _

theorem Memory.write_wf (m : Memory) (a : Nat) (x : Byte) (h : Memory.wf m = true) : Memory.wf (Memory.write m a x) = true :=
  Sparse.set_wf _ _ _ _ h

/-- Writing bytes keeps the canonical form. -/
theorem Memory.writeBytes_wf : ∀ (l : List Byte) (m : Memory) (a : Nat), Memory.wf m = true →
    Memory.wf (Memory.writeBytes m a l) = true
  | [], _, _, h => h
  | b :: r, m, a, h => Memory.writeBytes_wf r _ _ (Memory.write_wf m a b h)

/-- A read of one byte after a write of bytes from `a` upward. -/
theorem Memory.read_writeBytes : ∀ (l : List Byte) (m : Memory) (a b : Nat),
    Memory.read (Memory.writeBytes m a l) b = if a ≤ b ∧ b < a + l.length then l.getD (b - a) 0 else Memory.read m b
  | [], m, a, b => by simp [Memory.writeBytes]
  | x :: r, m, a, b => by
    rw [Memory.writeBytes, Memory.read_writeBytes r, Memory.read_write, List.length_cons]
    by_cases h1 : a + 1 ≤ b ∧ b < a + 1 + r.length
    · rw [if_pos h1, if_pos (by omega), show b - a = (b - (a + 1)) + 1 by omega, List.getD_cons_succ]
    · rw [if_neg h1]
      by_cases h2 : b = a
      · subst h2
        simp
      · rw [if_neg h2, if_neg (by omega)]

/-- Bytes read back as written. -/
theorem Memory.readBytes_length (m : Memory) : ∀ (n a : Nat), (Memory.readBytes m a n).length = n
  | 0, _ => rfl
  | n + 1, a => by rw [Memory.readBytes, List.length_cons, Memory.readBytes_length m n]

end Sys2Proof.Machine
end

