-- ==== Sys2Proof/Laws/State.lean ====
section
/-! SUPPORT. What each setter of the state does to each field, and reads after writes of the parts. -/
namespace Sys2Proof.Machine

/-! ### Fields of the state -/

section
variable (s : State)

@[simp] theorem State.setCtx_agenda : ∀ (p : Nat) (c : Ctx), (s.setCtx p c).agenda = s.agenda := fun _ _ => rfl
@[simp] theorem State.setCtx_cur : ∀ (p : Nat) (c : Ctx), (s.setCtx p c).cur = s.cur := fun _ _ => rfl
@[simp] theorem State.setCtx_issued : ∀ (p : Nat) (c : Ctx), (s.setCtx p c).issued = s.issued := fun _ _ => rfl
@[simp] theorem State.setCtx_shown : ∀ (p : Nat) (c : Ctx), (s.setCtx p c).shown = s.shown := fun _ _ => rfl
@[simp] theorem State.setCtx_taken : ∀ (p : Nat) (c : Ctx), (s.setCtx p c).taken = s.taken := fun _ _ => rfl
@[simp] theorem State.setCtx_freeCtr : ∀ (p : Nat) (c : Ctx), (s.setCtx p c).freeCtr = s.freeCtr := fun _ _ => rfl
@[simp] theorem State.setCtx_cyc : ∀ (p : Nat) (c : Ctx), (s.setCtx p c).cyc = s.cyc := fun _ _ => rfl
@[simp] theorem State.setCtx_ctxs : ∀ (p : Nat) (c : Ctx), (s.setCtx p c).ctxs = Sparse.set Ctx.reset s.ctxs p c := fun _ _ => rfl
@[simp] theorem State.setCtx_cores : ∀ (p : Nat) (c : Ctx), (s.setCtx p c).cores = s.cores := fun _ _ => rfl
@[simp] theorem State.setCtx_quires : ∀ (p : Nat) (c : Ctx), (s.setCtx p c).quires = s.quires := fun _ _ => rfl
@[simp] theorem State.setCtx_dies : ∀ (p : Nat) (c : Ctx), (s.setCtx p c).dies = s.dies := fun _ _ => rfl
@[simp] theorem State.setCtx_mem : ∀ (p : Nat) (c : Ctx), (s.setCtx p c).mem = s.mem := fun _ _ => rfl
@[simp] theorem State.setCtx_poison : ∀ (p : Nat) (c : Ctx), (s.setCtx p c).poison = s.poison := fun _ _ => rfl
@[simp] theorem State.setCtx_releases : ∀ (p : Nat) (c : Ctx), (s.setCtx p c).releases = s.releases := fun _ _ => rfl
@[simp] theorem State.setCtx_front : ∀ (p : Nat) (c : Ctx), (s.setCtx p c).front = s.front := fun _ _ => rfl
@[simp] theorem State.setCtx_dev : ∀ (p : Nat) (c : Ctx), (s.setCtx p c).dev = s.dev := fun _ _ => rfl
@[simp] theorem State.setCtx_assize : ∀ (p : Nat) (c : Ctx), (s.setCtx p c).assize = s.assize := fun _ _ => rfl
@[simp] theorem State.setCtx_fabric : ∀ (p : Nat) (c : Ctx), (s.setCtx p c).fabric = s.fabric := fun _ _ => rfl

@[simp] theorem State.setCore_agenda : ∀ (k : Nat) (c : Core), (s.setCore k c).agenda = s.agenda := fun _ _ => rfl
@[simp] theorem State.setCore_cur : ∀ (k : Nat) (c : Core), (s.setCore k c).cur = s.cur := fun _ _ => rfl
@[simp] theorem State.setCore_issued : ∀ (k : Nat) (c : Core), (s.setCore k c).issued = s.issued := fun _ _ => rfl
@[simp] theorem State.setCore_shown : ∀ (k : Nat) (c : Core), (s.setCore k c).shown = s.shown := fun _ _ => rfl
@[simp] theorem State.setCore_taken : ∀ (k : Nat) (c : Core), (s.setCore k c).taken = s.taken := fun _ _ => rfl
@[simp] theorem State.setCore_freeCtr : ∀ (k : Nat) (c : Core), (s.setCore k c).freeCtr = s.freeCtr := fun _ _ => rfl
@[simp] theorem State.setCore_cyc : ∀ (k : Nat) (c : Core), (s.setCore k c).cyc = s.cyc := fun _ _ => rfl
@[simp] theorem State.setCore_ctxs : ∀ (k : Nat) (c : Core), (s.setCore k c).ctxs = s.ctxs := fun _ _ => rfl
@[simp] theorem State.setCore_cores : ∀ (k : Nat) (c : Core), (s.setCore k c).cores = Sparse.set Core.reset s.cores k c := fun _ _ => rfl
@[simp] theorem State.setCore_quires : ∀ (k : Nat) (c : Core), (s.setCore k c).quires = s.quires := fun _ _ => rfl
@[simp] theorem State.setCore_dies : ∀ (k : Nat) (c : Core), (s.setCore k c).dies = s.dies := fun _ _ => rfl
@[simp] theorem State.setCore_mem : ∀ (k : Nat) (c : Core), (s.setCore k c).mem = s.mem := fun _ _ => rfl
@[simp] theorem State.setCore_poison : ∀ (k : Nat) (c : Core), (s.setCore k c).poison = s.poison := fun _ _ => rfl
@[simp] theorem State.setCore_releases : ∀ (k : Nat) (c : Core), (s.setCore k c).releases = s.releases := fun _ _ => rfl
@[simp] theorem State.setCore_front : ∀ (k : Nat) (c : Core), (s.setCore k c).front = s.front := fun _ _ => rfl
@[simp] theorem State.setCore_dev : ∀ (k : Nat) (c : Core), (s.setCore k c).dev = s.dev := fun _ _ => rfl
@[simp] theorem State.setCore_assize : ∀ (k : Nat) (c : Core), (s.setCore k c).assize = s.assize := fun _ _ => rfl
@[simp] theorem State.setCore_fabric : ∀ (k : Nat) (c : Core), (s.setCore k c).fabric = s.fabric := fun _ _ => rfl

@[simp] theorem State.setQuire_agenda : ∀ (q : Nat) (x : Quire), (s.setQuire q x).agenda = s.agenda := fun _ _ => rfl
@[simp] theorem State.setQuire_cur : ∀ (q : Nat) (x : Quire), (s.setQuire q x).cur = s.cur := fun _ _ => rfl
@[simp] theorem State.setQuire_issued : ∀ (q : Nat) (x : Quire), (s.setQuire q x).issued = s.issued := fun _ _ => rfl
@[simp] theorem State.setQuire_shown : ∀ (q : Nat) (x : Quire), (s.setQuire q x).shown = s.shown := fun _ _ => rfl
@[simp] theorem State.setQuire_taken : ∀ (q : Nat) (x : Quire), (s.setQuire q x).taken = s.taken := fun _ _ => rfl
@[simp] theorem State.setQuire_freeCtr : ∀ (q : Nat) (x : Quire), (s.setQuire q x).freeCtr = s.freeCtr := fun _ _ => rfl
@[simp] theorem State.setQuire_cyc : ∀ (q : Nat) (x : Quire), (s.setQuire q x).cyc = s.cyc := fun _ _ => rfl
@[simp] theorem State.setQuire_ctxs : ∀ (q : Nat) (x : Quire), (s.setQuire q x).ctxs = s.ctxs := fun _ _ => rfl
@[simp] theorem State.setQuire_cores : ∀ (q : Nat) (x : Quire), (s.setQuire q x).cores = s.cores := fun _ _ => rfl
@[simp] theorem State.setQuire_quires : ∀ (q : Nat) (x : Quire), (s.setQuire q x).quires = Sparse.set Quire.reset s.quires q x := fun _ _ => rfl
@[simp] theorem State.setQuire_dies : ∀ (q : Nat) (x : Quire), (s.setQuire q x).dies = s.dies := fun _ _ => rfl
@[simp] theorem State.setQuire_mem : ∀ (q : Nat) (x : Quire), (s.setQuire q x).mem = s.mem := fun _ _ => rfl
@[simp] theorem State.setQuire_poison : ∀ (q : Nat) (x : Quire), (s.setQuire q x).poison = s.poison := fun _ _ => rfl
@[simp] theorem State.setQuire_releases : ∀ (q : Nat) (x : Quire), (s.setQuire q x).releases = s.releases := fun _ _ => rfl
@[simp] theorem State.setQuire_front : ∀ (q : Nat) (x : Quire), (s.setQuire q x).front = s.front := fun _ _ => rfl
@[simp] theorem State.setQuire_dev : ∀ (q : Nat) (x : Quire), (s.setQuire q x).dev = s.dev := fun _ _ => rfl
@[simp] theorem State.setQuire_assize : ∀ (q : Nat) (x : Quire), (s.setQuire q x).assize = s.assize := fun _ _ => rfl
@[simp] theorem State.setQuire_fabric : ∀ (q : Nat) (x : Quire), (s.setQuire q x).fabric = s.fabric := fun _ _ => rfl

@[simp] theorem State.setDie_agenda : ∀ (d : Nat) (x : Die), (s.setDie d x).agenda = s.agenda := fun _ _ => rfl
@[simp] theorem State.setDie_cur : ∀ (d : Nat) (x : Die), (s.setDie d x).cur = s.cur := fun _ _ => rfl
@[simp] theorem State.setDie_issued : ∀ (d : Nat) (x : Die), (s.setDie d x).issued = s.issued := fun _ _ => rfl
@[simp] theorem State.setDie_shown : ∀ (d : Nat) (x : Die), (s.setDie d x).shown = s.shown := fun _ _ => rfl
@[simp] theorem State.setDie_taken : ∀ (d : Nat) (x : Die), (s.setDie d x).taken = s.taken := fun _ _ => rfl
@[simp] theorem State.setDie_freeCtr : ∀ (d : Nat) (x : Die), (s.setDie d x).freeCtr = s.freeCtr := fun _ _ => rfl
@[simp] theorem State.setDie_cyc : ∀ (d : Nat) (x : Die), (s.setDie d x).cyc = s.cyc := fun _ _ => rfl
@[simp] theorem State.setDie_ctxs : ∀ (d : Nat) (x : Die), (s.setDie d x).ctxs = s.ctxs := fun _ _ => rfl
@[simp] theorem State.setDie_cores : ∀ (d : Nat) (x : Die), (s.setDie d x).cores = s.cores := fun _ _ => rfl
@[simp] theorem State.setDie_quires : ∀ (d : Nat) (x : Die), (s.setDie d x).quires = s.quires := fun _ _ => rfl
@[simp] theorem State.setDie_dies : ∀ (d : Nat) (x : Die), (s.setDie d x).dies = Sparse.set Die.reset s.dies d x := fun _ _ => rfl
@[simp] theorem State.setDie_mem : ∀ (d : Nat) (x : Die), (s.setDie d x).mem = s.mem := fun _ _ => rfl
@[simp] theorem State.setDie_poison : ∀ (d : Nat) (x : Die), (s.setDie d x).poison = s.poison := fun _ _ => rfl
@[simp] theorem State.setDie_releases : ∀ (d : Nat) (x : Die), (s.setDie d x).releases = s.releases := fun _ _ => rfl
@[simp] theorem State.setDie_front : ∀ (d : Nat) (x : Die), (s.setDie d x).front = s.front := fun _ _ => rfl
@[simp] theorem State.setDie_dev : ∀ (d : Nat) (x : Die), (s.setDie d x).dev = s.dev := fun _ _ => rfl
@[simp] theorem State.setDie_assize : ∀ (d : Nat) (x : Die), (s.setDie d x).assize = s.assize := fun _ _ => rfl
@[simp] theorem State.setDie_fabric : ∀ (d : Nat) (x : Die), (s.setDie d x).fabric = s.fabric := fun _ _ => rfl

@[simp] theorem State.setFront_agenda : ∀ (f : Front), (s.setFront f).agenda = s.agenda := fun _ => rfl
@[simp] theorem State.setFront_cur : ∀ (f : Front), (s.setFront f).cur = s.cur := fun _ => rfl
@[simp] theorem State.setFront_issued : ∀ (f : Front), (s.setFront f).issued = s.issued := fun _ => rfl
@[simp] theorem State.setFront_shown : ∀ (f : Front), (s.setFront f).shown = s.shown := fun _ => rfl
@[simp] theorem State.setFront_taken : ∀ (f : Front), (s.setFront f).taken = s.taken := fun _ => rfl
@[simp] theorem State.setFront_freeCtr : ∀ (f : Front), (s.setFront f).freeCtr = s.freeCtr := fun _ => rfl
@[simp] theorem State.setFront_cyc : ∀ (f : Front), (s.setFront f).cyc = s.cyc := fun _ => rfl
@[simp] theorem State.setFront_ctxs : ∀ (f : Front), (s.setFront f).ctxs = s.ctxs := fun _ => rfl
@[simp] theorem State.setFront_cores : ∀ (f : Front), (s.setFront f).cores = s.cores := fun _ => rfl
@[simp] theorem State.setFront_quires : ∀ (f : Front), (s.setFront f).quires = s.quires := fun _ => rfl
@[simp] theorem State.setFront_dies : ∀ (f : Front), (s.setFront f).dies = s.dies := fun _ => rfl
@[simp] theorem State.setFront_mem : ∀ (f : Front), (s.setFront f).mem = s.mem := fun _ => rfl
@[simp] theorem State.setFront_poison : ∀ (f : Front), (s.setFront f).poison = s.poison := fun _ => rfl
@[simp] theorem State.setFront_releases : ∀ (f : Front), (s.setFront f).releases = s.releases := fun _ => rfl
@[simp] theorem State.setFront_front : ∀ (f : Front), (s.setFront f).front = f := fun _ => rfl
@[simp] theorem State.setFront_dev : ∀ (f : Front), (s.setFront f).dev = s.dev := fun _ => rfl
@[simp] theorem State.setFront_assize : ∀ (f : Front), (s.setFront f).assize = s.assize := fun _ => rfl
@[simp] theorem State.setFront_fabric : ∀ (f : Front), (s.setFront f).fabric = s.fabric := fun _ => rfl

@[simp] theorem State.setPart_agenda : ∀ (n : Nat) (p : Part), (s.setPart n p).agenda = s.agenda := fun _ _ => rfl
@[simp] theorem State.setPart_cur : ∀ (n : Nat) (p : Part), (s.setPart n p).cur = s.cur := fun _ _ => rfl
@[simp] theorem State.setPart_issued : ∀ (n : Nat) (p : Part), (s.setPart n p).issued = s.issued := fun _ _ => rfl
@[simp] theorem State.setPart_shown : ∀ (n : Nat) (p : Part), (s.setPart n p).shown = s.shown := fun _ _ => rfl
@[simp] theorem State.setPart_taken : ∀ (n : Nat) (p : Part), (s.setPart n p).taken = s.taken := fun _ _ => rfl
@[simp] theorem State.setPart_freeCtr : ∀ (n : Nat) (p : Part), (s.setPart n p).freeCtr = s.freeCtr := fun _ _ => rfl
@[simp] theorem State.setPart_cyc : ∀ (n : Nat) (p : Part), (s.setPart n p).cyc = s.cyc := fun _ _ => rfl
@[simp] theorem State.setPart_ctxs : ∀ (n : Nat) (p : Part), (s.setPart n p).ctxs = s.ctxs := fun _ _ => rfl
@[simp] theorem State.setPart_cores : ∀ (n : Nat) (p : Part), (s.setPart n p).cores = s.cores := fun _ _ => rfl
@[simp] theorem State.setPart_quires : ∀ (n : Nat) (p : Part), (s.setPart n p).quires = s.quires := fun _ _ => rfl
@[simp] theorem State.setPart_dies : ∀ (n : Nat) (p : Part), (s.setPart n p).dies = s.dies := fun _ _ => rfl
@[simp] theorem State.setPart_mem : ∀ (n : Nat) (p : Part), (s.setPart n p).mem = s.mem := fun _ _ => rfl
@[simp] theorem State.setPart_poison : ∀ (n : Nat) (p : Part), (s.setPart n p).poison = s.poison := fun _ _ => rfl
@[simp] theorem State.setPart_releases : ∀ (n : Nat) (p : Part), (s.setPart n p).releases = s.releases := fun _ _ => rfl
@[simp] theorem State.setPart_front : ∀ (n : Nat) (p : Part), (s.setPart n p).front = { s.front with parts := Sparse.set Part.reset s.front.parts n p } := fun _ _ => rfl
@[simp] theorem State.setPart_dev : ∀ (n : Nat) (p : Part), (s.setPart n p).dev = s.dev := fun _ _ => rfl
@[simp] theorem State.setPart_assize : ∀ (n : Nat) (p : Part), (s.setPart n p).assize = s.assize := fun _ _ => rfl
@[simp] theorem State.setPart_fabric : ∀ (n : Nat) (p : Part), (s.setPart n p).fabric = s.fabric := fun _ _ => rfl

@[simp] theorem State.setMem_agenda : ∀ (m : Memory), (s.setMem m).agenda = s.agenda := fun _ => rfl
@[simp] theorem State.setMem_cur : ∀ (m : Memory), (s.setMem m).cur = s.cur := fun _ => rfl
@[simp] theorem State.setMem_issued : ∀ (m : Memory), (s.setMem m).issued = s.issued := fun _ => rfl
@[simp] theorem State.setMem_shown : ∀ (m : Memory), (s.setMem m).shown = s.shown := fun _ => rfl
@[simp] theorem State.setMem_taken : ∀ (m : Memory), (s.setMem m).taken = s.taken := fun _ => rfl
@[simp] theorem State.setMem_freeCtr : ∀ (m : Memory), (s.setMem m).freeCtr = s.freeCtr := fun _ => rfl
@[simp] theorem State.setMem_cyc : ∀ (m : Memory), (s.setMem m).cyc = s.cyc := fun _ => rfl
@[simp] theorem State.setMem_ctxs : ∀ (m : Memory), (s.setMem m).ctxs = s.ctxs := fun _ => rfl
@[simp] theorem State.setMem_cores : ∀ (m : Memory), (s.setMem m).cores = s.cores := fun _ => rfl
@[simp] theorem State.setMem_quires : ∀ (m : Memory), (s.setMem m).quires = s.quires := fun _ => rfl
@[simp] theorem State.setMem_dies : ∀ (m : Memory), (s.setMem m).dies = s.dies := fun _ => rfl
@[simp] theorem State.setMem_mem : ∀ (m : Memory), (s.setMem m).mem = m := fun _ => rfl
@[simp] theorem State.setMem_poison : ∀ (m : Memory), (s.setMem m).poison = s.poison := fun _ => rfl
@[simp] theorem State.setMem_releases : ∀ (m : Memory), (s.setMem m).releases = s.releases := fun _ => rfl
@[simp] theorem State.setMem_front : ∀ (m : Memory), (s.setMem m).front = s.front := fun _ => rfl
@[simp] theorem State.setMem_dev : ∀ (m : Memory), (s.setMem m).dev = s.dev := fun _ => rfl
@[simp] theorem State.setMem_assize : ∀ (m : Memory), (s.setMem m).assize = s.assize := fun _ => rfl
@[simp] theorem State.setMem_fabric : ∀ (m : Memory), (s.setMem m).fabric = s.fabric := fun _ => rfl

@[simp] theorem State.setDev_agenda : ∀ (d : Dev), (s.setDev d).agenda = s.agenda := fun _ => rfl
@[simp] theorem State.setDev_cur : ∀ (d : Dev), (s.setDev d).cur = s.cur := fun _ => rfl
@[simp] theorem State.setDev_issued : ∀ (d : Dev), (s.setDev d).issued = s.issued := fun _ => rfl
@[simp] theorem State.setDev_shown : ∀ (d : Dev), (s.setDev d).shown = s.shown := fun _ => rfl
@[simp] theorem State.setDev_taken : ∀ (d : Dev), (s.setDev d).taken = s.taken := fun _ => rfl
@[simp] theorem State.setDev_freeCtr : ∀ (d : Dev), (s.setDev d).freeCtr = s.freeCtr := fun _ => rfl
@[simp] theorem State.setDev_cyc : ∀ (d : Dev), (s.setDev d).cyc = s.cyc := fun _ => rfl
@[simp] theorem State.setDev_ctxs : ∀ (d : Dev), (s.setDev d).ctxs = s.ctxs := fun _ => rfl
@[simp] theorem State.setDev_cores : ∀ (d : Dev), (s.setDev d).cores = s.cores := fun _ => rfl
@[simp] theorem State.setDev_quires : ∀ (d : Dev), (s.setDev d).quires = s.quires := fun _ => rfl
@[simp] theorem State.setDev_dies : ∀ (d : Dev), (s.setDev d).dies = s.dies := fun _ => rfl
@[simp] theorem State.setDev_mem : ∀ (d : Dev), (s.setDev d).mem = s.mem := fun _ => rfl
@[simp] theorem State.setDev_poison : ∀ (d : Dev), (s.setDev d).poison = s.poison := fun _ => rfl
@[simp] theorem State.setDev_releases : ∀ (d : Dev), (s.setDev d).releases = s.releases := fun _ => rfl
@[simp] theorem State.setDev_front : ∀ (d : Dev), (s.setDev d).front = s.front := fun _ => rfl
@[simp] theorem State.setDev_dev : ∀ (d : Dev), (s.setDev d).dev = d := fun _ => rfl
@[simp] theorem State.setDev_assize : ∀ (d : Dev), (s.setDev d).assize = s.assize := fun _ => rfl
@[simp] theorem State.setDev_fabric : ∀ (d : Dev), (s.setDev d).fabric = s.fabric := fun _ => rfl

@[simp] theorem State.setFabric_agenda : ∀ (f : Fabric), (s.setFabric f).agenda = s.agenda := fun _ => rfl
@[simp] theorem State.setFabric_cur : ∀ (f : Fabric), (s.setFabric f).cur = s.cur := fun _ => rfl
@[simp] theorem State.setFabric_issued : ∀ (f : Fabric), (s.setFabric f).issued = s.issued := fun _ => rfl
@[simp] theorem State.setFabric_shown : ∀ (f : Fabric), (s.setFabric f).shown = s.shown := fun _ => rfl
@[simp] theorem State.setFabric_taken : ∀ (f : Fabric), (s.setFabric f).taken = s.taken := fun _ => rfl
@[simp] theorem State.setFabric_freeCtr : ∀ (f : Fabric), (s.setFabric f).freeCtr = s.freeCtr := fun _ => rfl
@[simp] theorem State.setFabric_cyc : ∀ (f : Fabric), (s.setFabric f).cyc = s.cyc := fun _ => rfl
@[simp] theorem State.setFabric_ctxs : ∀ (f : Fabric), (s.setFabric f).ctxs = s.ctxs := fun _ => rfl
@[simp] theorem State.setFabric_cores : ∀ (f : Fabric), (s.setFabric f).cores = s.cores := fun _ => rfl
@[simp] theorem State.setFabric_quires : ∀ (f : Fabric), (s.setFabric f).quires = s.quires := fun _ => rfl
@[simp] theorem State.setFabric_dies : ∀ (f : Fabric), (s.setFabric f).dies = s.dies := fun _ => rfl
@[simp] theorem State.setFabric_mem : ∀ (f : Fabric), (s.setFabric f).mem = s.mem := fun _ => rfl
@[simp] theorem State.setFabric_poison : ∀ (f : Fabric), (s.setFabric f).poison = s.poison := fun _ => rfl
@[simp] theorem State.setFabric_releases : ∀ (f : Fabric), (s.setFabric f).releases = s.releases := fun _ => rfl
@[simp] theorem State.setFabric_front : ∀ (f : Fabric), (s.setFabric f).front = s.front := fun _ => rfl
@[simp] theorem State.setFabric_dev : ∀ (f : Fabric), (s.setFabric f).dev = s.dev := fun _ => rfl
@[simp] theorem State.setFabric_assize : ∀ (f : Fabric), (s.setFabric f).assize = s.assize := fun _ => rfl
@[simp] theorem State.setFabric_fabric : ∀ (f : Fabric), (s.setFabric f).fabric = f := fun _ => rfl

@[simp] theorem State.setAssize_agenda : ∀ (a : Assize), (s.setAssize a).agenda = s.agenda := fun _ => rfl
@[simp] theorem State.setAssize_cur : ∀ (a : Assize), (s.setAssize a).cur = s.cur := fun _ => rfl
@[simp] theorem State.setAssize_issued : ∀ (a : Assize), (s.setAssize a).issued = s.issued := fun _ => rfl
@[simp] theorem State.setAssize_shown : ∀ (a : Assize), (s.setAssize a).shown = s.shown := fun _ => rfl
@[simp] theorem State.setAssize_taken : ∀ (a : Assize), (s.setAssize a).taken = s.taken := fun _ => rfl
@[simp] theorem State.setAssize_freeCtr : ∀ (a : Assize), (s.setAssize a).freeCtr = s.freeCtr := fun _ => rfl
@[simp] theorem State.setAssize_cyc : ∀ (a : Assize), (s.setAssize a).cyc = s.cyc := fun _ => rfl
@[simp] theorem State.setAssize_ctxs : ∀ (a : Assize), (s.setAssize a).ctxs = s.ctxs := fun _ => rfl
@[simp] theorem State.setAssize_cores : ∀ (a : Assize), (s.setAssize a).cores = s.cores := fun _ => rfl
@[simp] theorem State.setAssize_quires : ∀ (a : Assize), (s.setAssize a).quires = s.quires := fun _ => rfl
@[simp] theorem State.setAssize_dies : ∀ (a : Assize), (s.setAssize a).dies = s.dies := fun _ => rfl
@[simp] theorem State.setAssize_mem : ∀ (a : Assize), (s.setAssize a).mem = s.mem := fun _ => rfl
@[simp] theorem State.setAssize_poison : ∀ (a : Assize), (s.setAssize a).poison = s.poison := fun _ => rfl
@[simp] theorem State.setAssize_releases : ∀ (a : Assize), (s.setAssize a).releases = s.releases := fun _ => rfl
@[simp] theorem State.setAssize_front : ∀ (a : Assize), (s.setAssize a).front = s.front := fun _ => rfl
@[simp] theorem State.setAssize_dev : ∀ (a : Assize), (s.setAssize a).dev = s.dev := fun _ => rfl
@[simp] theorem State.setAssize_assize : ∀ (a : Assize), (s.setAssize a).assize = a := fun _ => rfl
@[simp] theorem State.setAssize_fabric : ∀ (a : Assize), (s.setAssize a).fabric = s.fabric := fun _ => rfl

@[simp] theorem State.setTask_agenda : ∀ (t : Task), (s.setTask t).agenda = s.agenda := fun _ => rfl
@[simp] theorem State.setTask_cur : ∀ (t : Task), (s.setTask t).cur = s.cur := fun _ => rfl
@[simp] theorem State.setTask_issued : ∀ (t : Task), (s.setTask t).issued = s.issued := fun _ => rfl
@[simp] theorem State.setTask_shown : ∀ (t : Task), (s.setTask t).shown = s.shown := fun _ => rfl
@[simp] theorem State.setTask_taken : ∀ (t : Task), (s.setTask t).taken = s.taken := fun _ => rfl
@[simp] theorem State.setTask_freeCtr : ∀ (t : Task), (s.setTask t).freeCtr = s.freeCtr := fun _ => rfl
@[simp] theorem State.setTask_cyc : ∀ (t : Task), (s.setTask t).cyc = s.cyc := fun _ => rfl
@[simp] theorem State.setTask_ctxs : ∀ (t : Task), (s.setTask t).ctxs = s.ctxs := fun _ => rfl
@[simp] theorem State.setTask_cores : ∀ (t : Task), (s.setTask t).cores = s.cores := fun _ => rfl
@[simp] theorem State.setTask_quires : ∀ (t : Task), (s.setTask t).quires = s.quires := fun _ => rfl
@[simp] theorem State.setTask_dies : ∀ (t : Task), (s.setTask t).dies = s.dies := fun _ => rfl
@[simp] theorem State.setTask_mem : ∀ (t : Task), (s.setTask t).mem = s.mem := fun _ => rfl
@[simp] theorem State.setTask_poison : ∀ (t : Task), (s.setTask t).poison = s.poison := fun _ => rfl
@[simp] theorem State.setTask_releases : ∀ (t : Task), (s.setTask t).releases = s.releases := fun _ => rfl
@[simp] theorem State.setTask_front : ∀ (t : Task), (s.setTask t).front = { s.front with tasks := s.front.tasks.map fun u => if u.tag = t.tag then t else u } := fun _ => rfl
@[simp] theorem State.setTask_dev : ∀ (t : Task), (s.setTask t).dev = s.dev := fun _ => rfl
@[simp] theorem State.setTask_assize : ∀ (t : Task), (s.setTask t).assize = s.assize := fun _ => rfl
@[simp] theorem State.setTask_fabric : ∀ (t : Task), (s.setTask t).fabric = s.fabric := fun _ => rfl

end

/-! ### Reads after writes -/

section
variable (s : State)

@[simp] theorem State.ctx_setCtx_same (p : Nat) (c : Ctx) : (s.setCtx p c).ctx p = c := Sparse.get_set_same _ _ _ _

theorem State.ctx_setCtx (p p' : Nat) (c : Ctx) : (s.setCtx p c).ctx p' = if p' = p then c else s.ctx p' := Sparse.get_set _ _ _ _ _

@[simp] theorem State.core_setCore_same (k : Nat) (c : Core) : (s.setCore k c).core k = c := Sparse.get_set_same _ _ _ _

theorem State.core_setCore (k k' : Nat) (c : Core) : (s.setCore k c).core k' = if k' = k then c else s.core k' := Sparse.get_set _ _ _ _ _

@[simp] theorem State.quire_setQuire_same (q : Nat) (x : Quire) : (s.setQuire q x).quire q = x := Sparse.get_set_same _ _ _ _

theorem State.quire_setQuire (q q' : Nat) (x : Quire) : (s.setQuire q x).quire q' = if q' = q then x else s.quire q' := Sparse.get_set _ _ _ _ _

@[simp] theorem State.die_setDie_same (d : Nat) (x : Die) : (s.setDie d x).die d = x := Sparse.get_set_same _ _ _ _

theorem State.die_setDie (d d' : Nat) (x : Die) : (s.setDie d x).die d' = if d' = d then x else s.die d' := Sparse.get_set _ _ _ _ _

@[simp] theorem State.part_setPart_same (n : Nat) (p : Part) : (s.setPart n p).part n = p := Sparse.get_set_same _ _ _ _

theorem State.part_setPart (n n' : Nat) (p : Part) : (s.setPart n p).part n' = if n' = n then p else s.part n' :=
  Sparse.get_set _ _ _ _ _

@[simp] theorem State.ctx_of_setCore : ∀ (k : Nat) (c : Core) (i : Nat), (s.setCore k c).ctx i = s.ctx i := fun _ _ _ => rfl
@[simp] theorem State.ctx_of_setQuire : ∀ (q : Nat) (x : Quire) (i : Nat), (s.setQuire q x).ctx i = s.ctx i := fun _ _ _ => rfl
@[simp] theorem State.ctx_of_setDie : ∀ (d : Nat) (x : Die) (i : Nat), (s.setDie d x).ctx i = s.ctx i := fun _ _ _ => rfl
@[simp] theorem State.ctx_of_setFront : ∀ (f : Front) (i : Nat), (s.setFront f).ctx i = s.ctx i := fun _ _ => rfl
@[simp] theorem State.ctx_of_setPart : ∀ (n : Nat) (p : Part) (i : Nat), (s.setPart n p).ctx i = s.ctx i := fun _ _ _ => rfl
@[simp] theorem State.ctx_of_setMem : ∀ (m : Memory) (i : Nat), (s.setMem m).ctx i = s.ctx i := fun _ _ => rfl
@[simp] theorem State.ctx_of_setDev : ∀ (d : Dev) (i : Nat), (s.setDev d).ctx i = s.ctx i := fun _ _ => rfl
@[simp] theorem State.ctx_of_setFabric : ∀ (f : Fabric) (i : Nat), (s.setFabric f).ctx i = s.ctx i := fun _ _ => rfl
@[simp] theorem State.ctx_of_setAssize : ∀ (a : Assize) (i : Nat), (s.setAssize a).ctx i = s.ctx i := fun _ _ => rfl
@[simp] theorem State.ctx_of_setTask : ∀ (t : Task) (i : Nat), (s.setTask t).ctx i = s.ctx i := fun _ _ => rfl

@[simp] theorem State.core_of_setCtx : ∀ (p : Nat) (c : Ctx) (i : Nat), (s.setCtx p c).core i = s.core i := fun _ _ _ => rfl
@[simp] theorem State.core_of_setQuire : ∀ (q : Nat) (x : Quire) (i : Nat), (s.setQuire q x).core i = s.core i := fun _ _ _ => rfl
@[simp] theorem State.core_of_setDie : ∀ (d : Nat) (x : Die) (i : Nat), (s.setDie d x).core i = s.core i := fun _ _ _ => rfl
@[simp] theorem State.core_of_setFront : ∀ (f : Front) (i : Nat), (s.setFront f).core i = s.core i := fun _ _ => rfl
@[simp] theorem State.core_of_setPart : ∀ (n : Nat) (p : Part) (i : Nat), (s.setPart n p).core i = s.core i := fun _ _ _ => rfl
@[simp] theorem State.core_of_setMem : ∀ (m : Memory) (i : Nat), (s.setMem m).core i = s.core i := fun _ _ => rfl
@[simp] theorem State.core_of_setDev : ∀ (d : Dev) (i : Nat), (s.setDev d).core i = s.core i := fun _ _ => rfl
@[simp] theorem State.core_of_setFabric : ∀ (f : Fabric) (i : Nat), (s.setFabric f).core i = s.core i := fun _ _ => rfl
@[simp] theorem State.core_of_setAssize : ∀ (a : Assize) (i : Nat), (s.setAssize a).core i = s.core i := fun _ _ => rfl
@[simp] theorem State.core_of_setTask : ∀ (t : Task) (i : Nat), (s.setTask t).core i = s.core i := fun _ _ => rfl

@[simp] theorem State.quire_of_setCtx : ∀ (p : Nat) (c : Ctx) (i : Nat), (s.setCtx p c).quire i = s.quire i := fun _ _ _ => rfl
@[simp] theorem State.quire_of_setCore : ∀ (k : Nat) (c : Core) (i : Nat), (s.setCore k c).quire i = s.quire i := fun _ _ _ => rfl
@[simp] theorem State.quire_of_setDie : ∀ (d : Nat) (x : Die) (i : Nat), (s.setDie d x).quire i = s.quire i := fun _ _ _ => rfl
@[simp] theorem State.quire_of_setFront : ∀ (f : Front) (i : Nat), (s.setFront f).quire i = s.quire i := fun _ _ => rfl
@[simp] theorem State.quire_of_setPart : ∀ (n : Nat) (p : Part) (i : Nat), (s.setPart n p).quire i = s.quire i := fun _ _ _ => rfl
@[simp] theorem State.quire_of_setMem : ∀ (m : Memory) (i : Nat), (s.setMem m).quire i = s.quire i := fun _ _ => rfl
@[simp] theorem State.quire_of_setDev : ∀ (d : Dev) (i : Nat), (s.setDev d).quire i = s.quire i := fun _ _ => rfl
@[simp] theorem State.quire_of_setFabric : ∀ (f : Fabric) (i : Nat), (s.setFabric f).quire i = s.quire i := fun _ _ => rfl
@[simp] theorem State.quire_of_setAssize : ∀ (a : Assize) (i : Nat), (s.setAssize a).quire i = s.quire i := fun _ _ => rfl
@[simp] theorem State.quire_of_setTask : ∀ (t : Task) (i : Nat), (s.setTask t).quire i = s.quire i := fun _ _ => rfl

@[simp] theorem State.die_of_setCtx : ∀ (p : Nat) (c : Ctx) (i : Nat), (s.setCtx p c).die i = s.die i := fun _ _ _ => rfl
@[simp] theorem State.die_of_setCore : ∀ (k : Nat) (c : Core) (i : Nat), (s.setCore k c).die i = s.die i := fun _ _ _ => rfl
@[simp] theorem State.die_of_setQuire : ∀ (q : Nat) (x : Quire) (i : Nat), (s.setQuire q x).die i = s.die i := fun _ _ _ => rfl
@[simp] theorem State.die_of_setFront : ∀ (f : Front) (i : Nat), (s.setFront f).die i = s.die i := fun _ _ => rfl
@[simp] theorem State.die_of_setPart : ∀ (n : Nat) (p : Part) (i : Nat), (s.setPart n p).die i = s.die i := fun _ _ _ => rfl
@[simp] theorem State.die_of_setMem : ∀ (m : Memory) (i : Nat), (s.setMem m).die i = s.die i := fun _ _ => rfl
@[simp] theorem State.die_of_setDev : ∀ (d : Dev) (i : Nat), (s.setDev d).die i = s.die i := fun _ _ => rfl
@[simp] theorem State.die_of_setFabric : ∀ (f : Fabric) (i : Nat), (s.setFabric f).die i = s.die i := fun _ _ => rfl
@[simp] theorem State.die_of_setAssize : ∀ (a : Assize) (i : Nat), (s.setAssize a).die i = s.die i := fun _ _ => rfl
@[simp] theorem State.die_of_setTask : ∀ (t : Task) (i : Nat), (s.setTask t).die i = s.die i := fun _ _ => rfl

@[simp] theorem State.part_of_setCtx : ∀ (p : Nat) (c : Ctx) (i : Nat), (s.setCtx p c).part i = s.part i := fun _ _ _ => rfl
@[simp] theorem State.part_of_setCore : ∀ (k : Nat) (c : Core) (i : Nat), (s.setCore k c).part i = s.part i := fun _ _ _ => rfl
@[simp] theorem State.part_of_setQuire : ∀ (q : Nat) (x : Quire) (i : Nat), (s.setQuire q x).part i = s.part i := fun _ _ _ => rfl
@[simp] theorem State.part_of_setDie : ∀ (d : Nat) (x : Die) (i : Nat), (s.setDie d x).part i = s.part i := fun _ _ _ => rfl
@[simp] theorem State.part_of_setMem : ∀ (m : Memory) (i : Nat), (s.setMem m).part i = s.part i := fun _ _ => rfl
@[simp] theorem State.part_of_setDev : ∀ (d : Dev) (i : Nat), (s.setDev d).part i = s.part i := fun _ _ => rfl
@[simp] theorem State.part_of_setFabric : ∀ (f : Fabric) (i : Nat), (s.setFabric f).part i = s.part i := fun _ _ => rfl
@[simp] theorem State.part_of_setAssize : ∀ (a : Assize) (i : Nat), (s.setAssize a).part i = s.part i := fun _ _ => rfl

end

/-! ### Fields of a context -/

section
variable (c : Ctx)

@[simp] theorem Ctx.setReg_pc : ∀ (r : Reg) (v : Word), (c.setReg r v).pc = c.pc := fun _ _ => rfl
@[simp] theorem Ctx.setReg_st : ∀ (r : Reg) (v : Word), (c.setReg r v).st = c.st := fun _ _ => rfl
@[simp] theorem Ctx.setReg_wid : ∀ (r : Reg) (v : Word), (c.setReg r v).wid = c.wid := fun _ _ => rfl
@[simp] theorem Ctx.setReg_levels : ∀ (r : Reg) (v : Word), (c.setReg r v).levels = c.levels := fun _ _ => rfl
@[simp] theorem Ctx.setReg_slotgen : ∀ (r : Reg) (v : Word), (c.setReg r v).slotgen = c.slotgen := fun _ _ => rfl
@[simp] theorem Ctx.setReg_seed : ∀ (r : Reg) (v : Word), (c.setReg r v).seed = c.seed := fun _ _ => rfl
@[simp] theorem Ctx.setReg_run : ∀ (r : Reg) (v : Word), (c.setReg r v).run = c.run := fun _ _ => rfl
@[simp] theorem Ctx.setReg_aborted : ∀ (r : Reg) (v : Word), (c.setReg r v).aborted = c.aborted := fun _ _ => rfl
@[simp] theorem Ctx.setReg_tag : ∀ (r : Reg) (v : Word), (c.setReg r v).tag = c.tag := fun _ _ => rfl
@[simp] theorem Ctx.setReg_task : ∀ (r : Reg) (v : Word), (c.setReg r v).task = c.task := fun _ _ => rfl
@[simp] theorem Ctx.setReg_part : ∀ (r : Reg) (v : Word), (c.setReg r v).part = c.part := fun _ _ => rfl
@[simp] theorem Ctx.setReg_block : ∀ (r : Reg) (v : Word), (c.setReg r v).block = c.block := fun _ _ => rfl
@[simp] theorem Ctx.setReg_ahead : ∀ (r : Reg) (v : Word), (c.setReg r v).ahead = c.ahead := fun _ _ => rfl
@[simp] theorem Ctx.setReg_port : ∀ (r : Reg) (v : Word), (c.setReg r v).port = c.port := fun _ _ => rfl
@[simp] theorem Ctx.setReg_wait : ∀ (r : Reg) (v : Word), (c.setReg r v).wait = c.wait := fun _ _ => rfl
@[simp] theorem Ctx.setReg_wakeBy : ∀ (r : Reg) (v : Word), (c.setReg r v).wakeBy = c.wakeBy := fun _ _ => rfl
@[simp] theorem Ctx.setReg_handle : ∀ (r : Reg) (v : Word), (c.setReg r v).handle = c.handle := fun _ _ => rfl
@[simp] theorem Ctx.setReg_refused : ∀ (r : Reg) (v : Word), (c.setReg r v).refused = c.refused := fun _ _ => rfl
@[simp] theorem Ctx.setPred_g : ∀ (p : Pred) (v : Bool), (c.setPred p v).g = c.g := fun _ _ => rfl
@[simp] theorem Ctx.setPred_pc : ∀ (p : Pred) (v : Bool), (c.setPred p v).pc = c.pc := fun _ _ => rfl
@[simp] theorem Ctx.setPred_st (p : Pred) (v : Bool) : (c.setPred p v).st = putPred c.st p v := rfl
@[simp] theorem Ctx.setPred_wid : ∀ (p : Pred) (v : Bool), (c.setPred p v).wid = c.wid := fun _ _ => rfl
@[simp] theorem Ctx.setPred_levels : ∀ (p : Pred) (v : Bool), (c.setPred p v).levels = c.levels := fun _ _ => rfl
@[simp] theorem Ctx.setPred_slotgen : ∀ (p : Pred) (v : Bool), (c.setPred p v).slotgen = c.slotgen := fun _ _ => rfl
@[simp] theorem Ctx.setPred_seed : ∀ (p : Pred) (v : Bool), (c.setPred p v).seed = c.seed := fun _ _ => rfl
@[simp] theorem Ctx.setPred_run : ∀ (p : Pred) (v : Bool), (c.setPred p v).run = c.run := fun _ _ => rfl
@[simp] theorem Ctx.setPred_aborted : ∀ (p : Pred) (v : Bool), (c.setPred p v).aborted = c.aborted := fun _ _ => rfl
@[simp] theorem Ctx.setPred_tag : ∀ (p : Pred) (v : Bool), (c.setPred p v).tag = c.tag := fun _ _ => rfl
@[simp] theorem Ctx.setPred_task : ∀ (p : Pred) (v : Bool), (c.setPred p v).task = c.task := fun _ _ => rfl
@[simp] theorem Ctx.setPred_part : ∀ (p : Pred) (v : Bool), (c.setPred p v).part = c.part := fun _ _ => rfl
@[simp] theorem Ctx.setPred_block : ∀ (p : Pred) (v : Bool), (c.setPred p v).block = c.block := fun _ _ => rfl
@[simp] theorem Ctx.setPred_ahead : ∀ (p : Pred) (v : Bool), (c.setPred p v).ahead = c.ahead := fun _ _ => rfl
@[simp] theorem Ctx.setPred_port : ∀ (p : Pred) (v : Bool), (c.setPred p v).port = c.port := fun _ _ => rfl
@[simp] theorem Ctx.setPred_wait : ∀ (p : Pred) (v : Bool), (c.setPred p v).wait = c.wait := fun _ _ => rfl
@[simp] theorem Ctx.setPred_wakeBy : ∀ (p : Pred) (v : Bool), (c.setPred p v).wakeBy = c.wakeBy := fun _ _ => rfl
@[simp] theorem Ctx.setPred_handle : ∀ (p : Pred) (v : Bool), (c.setPred p v).handle = c.handle := fun _ _ => rfl
@[simp] theorem Ctx.setPred_refused : ∀ (p : Pred) (v : Bool), (c.setPred p v).refused = c.refused := fun _ _ => rfl

@[simp] theorem Ctx.setReg_reg_same (r : Reg) (v : Word) : (c.setReg r v).reg r = v := by simp [Ctx.reg, Ctx.setReg]

theorem Ctx.setReg_reg (r r' : Reg) (v : Word) : (c.setReg r v).reg r' = if r' = r then v else c.reg r' := by
  unfold Ctx.reg Ctx.setReg
  rw [Vector.getElem_set]
  simp only [BitVec.toNat_inj, eq_comm]

@[simp] theorem Ctx.setPred_reg (p : Pred) (v : Bool) (r : Reg) : (c.setPred p v).reg r = c.reg r := rfl

end

end Sys2Proof.Machine
end

