-- ==== Sys2Proof/Laws/Ops.lean ====
section
/-! SUPPORT. What each shared operation can do, said once: counting, retiring, the guard. -/
namespace Sys2Proof.Machine
open Sys2Proof.Claims

section
variable (s : State)

/-! ### Counting (R369, R370) -/

theorem State.tally_some (n idx k : Nat) : s.tally (some n) idx k = if k = 0 then s else s.setAssize
    { total := Sparse.modify 0 s.assize.total (48 * n + idx) (· + BitVec.ofNat 64 k)
      recent := (s.cyc, 48 * n + idx, k) :: s.assize.recent.filter fun e => s.cyc < e.1 + 64 } := rfl

@[simp] theorem State.tally_none (idx k : Nat) : s.tally none idx k = s := rfl

/-- Counting touches only the Assize. -/
theorem State.tally_eq (p : Option Nat) (idx k : Nat) : ∃ a, s.tally p idx k = s.setAssize a := by
  cases p with
  | none => exact ⟨s.assize, rfl⟩
  | some n =>
    rw [State.tally_some]
    split
    · exact ⟨s.assize, rfl⟩
    · exact ⟨_, rfl⟩

@[simp] theorem State.tally_agenda (p : Option Nat) (idx k : Nat) : (s.tally p idx k).agenda = s.agenda := by
  obtain ⟨a, h⟩ := s.tally_eq p idx k
  rw [h, State.setAssize_agenda]

@[simp] theorem State.tally_cur (p : Option Nat) (idx k : Nat) : (s.tally p idx k).cur = s.cur := by
  obtain ⟨a, h⟩ := s.tally_eq p idx k
  rw [h, State.setAssize_cur]

@[simp] theorem State.tally_issued (p : Option Nat) (idx k : Nat) : (s.tally p idx k).issued = s.issued := by
  obtain ⟨a, h⟩ := s.tally_eq p idx k
  rw [h, State.setAssize_issued]

@[simp] theorem State.tally_shown (p : Option Nat) (idx k : Nat) : (s.tally p idx k).shown = s.shown := by
  obtain ⟨a, h⟩ := s.tally_eq p idx k
  rw [h, State.setAssize_shown]

@[simp] theorem State.tally_taken (p : Option Nat) (idx k : Nat) : (s.tally p idx k).taken = s.taken := by
  obtain ⟨a, h⟩ := s.tally_eq p idx k
  rw [h, State.setAssize_taken]

@[simp] theorem State.tally_freeCtr (p : Option Nat) (idx k : Nat) : (s.tally p idx k).freeCtr = s.freeCtr := by
  obtain ⟨a, h⟩ := s.tally_eq p idx k
  rw [h, State.setAssize_freeCtr]

@[simp] theorem State.tally_cyc (p : Option Nat) (idx k : Nat) : (s.tally p idx k).cyc = s.cyc := by
  obtain ⟨a, h⟩ := s.tally_eq p idx k
  rw [h, State.setAssize_cyc]

@[simp] theorem State.tally_ctxs (p : Option Nat) (idx k : Nat) : (s.tally p idx k).ctxs = s.ctxs := by
  obtain ⟨a, h⟩ := s.tally_eq p idx k
  rw [h, State.setAssize_ctxs]

@[simp] theorem State.tally_cores (p : Option Nat) (idx k : Nat) : (s.tally p idx k).cores = s.cores := by
  obtain ⟨a, h⟩ := s.tally_eq p idx k
  rw [h, State.setAssize_cores]

@[simp] theorem State.tally_quires (p : Option Nat) (idx k : Nat) : (s.tally p idx k).quires = s.quires := by
  obtain ⟨a, h⟩ := s.tally_eq p idx k
  rw [h, State.setAssize_quires]

@[simp] theorem State.tally_dies (p : Option Nat) (idx k : Nat) : (s.tally p idx k).dies = s.dies := by
  obtain ⟨a, h⟩ := s.tally_eq p idx k
  rw [h, State.setAssize_dies]

@[simp] theorem State.tally_mem (p : Option Nat) (idx k : Nat) : (s.tally p idx k).mem = s.mem := by
  obtain ⟨a, h⟩ := s.tally_eq p idx k
  rw [h, State.setAssize_mem]

@[simp] theorem State.tally_poison (p : Option Nat) (idx k : Nat) : (s.tally p idx k).poison = s.poison := by
  obtain ⟨a, h⟩ := s.tally_eq p idx k
  rw [h, State.setAssize_poison]

@[simp] theorem State.tally_releases (p : Option Nat) (idx k : Nat) : (s.tally p idx k).releases = s.releases := by
  obtain ⟨a, h⟩ := s.tally_eq p idx k
  rw [h, State.setAssize_releases]

@[simp] theorem State.tally_front (p : Option Nat) (idx k : Nat) : (s.tally p idx k).front = s.front := by
  obtain ⟨a, h⟩ := s.tally_eq p idx k
  rw [h, State.setAssize_front]

@[simp] theorem State.tally_dev (p : Option Nat) (idx k : Nat) : (s.tally p idx k).dev = s.dev := by
  obtain ⟨a, h⟩ := s.tally_eq p idx k
  rw [h, State.setAssize_dev]

@[simp] theorem State.tally_fabric (p : Option Nat) (idx k : Nat) : (s.tally p idx k).fabric = s.fabric := by
  obtain ⟨a, h⟩ := s.tally_eq p idx k
  rw [h, State.setAssize_fabric]

@[simp] theorem State.tally_ctx (p : Option Nat) (idx k i : Nat) : (s.tally p idx k).ctx i = s.ctx i := by
  obtain ⟨a, h⟩ := s.tally_eq p idx k
  rw [h, State.ctx_of_setAssize]

@[simp] theorem State.tally_core (p : Option Nat) (idx k i : Nat) : (s.tally p idx k).core i = s.core i := by
  obtain ⟨a, h⟩ := s.tally_eq p idx k
  rw [h, State.core_of_setAssize]

@[simp] theorem State.tally_quire (p : Option Nat) (idx k i : Nat) : (s.tally p idx k).quire i = s.quire i := by
  obtain ⟨a, h⟩ := s.tally_eq p idx k
  rw [h, State.quire_of_setAssize]

@[simp] theorem State.tally_die (p : Option Nat) (idx k i : Nat) : (s.tally p idx k).die i = s.die i := by
  obtain ⟨a, h⟩ := s.tally_eq p idx k
  rw [h, State.die_of_setAssize]

@[simp] theorem State.tally_part (p : Option Nat) (idx k i : Nat) : (s.tally p idx k).part i = s.part i := by
  obtain ⟨a, h⟩ := s.tally_eq p idx k
  rw [h, State.part_of_setAssize]

/-- A counter after counting. -/
theorem State.tally_counted (p : Option Nat) (idx k : Nat) (hi : idx < 48) : Counted s (s.tally p idx k) p idx k := by
  intro n i hi'
  cases p with
  | none => simp
  | some m =>
    rw [State.tally_some]
    split
    · next h => simp [h]
    · simp only [counter, State.setAssize_assize, Sparse.modify, Sparse.get_set, Option.some.injEq]
      by_cases h : m = n ∧ i = idx
      · obtain ⟨rfl, rfl⟩ := h
        simp
      · rw [if_neg (by omega), if_neg h]

/-! ### Retiring (R76, R370) -/

theorem partOf_congr {s t : State} {p : Nat} (hf : t.front = s.front) (h1 : (t.ctx p).task = (s.ctx p).task)
    (h2 : (t.ctx p).part = (s.ctx p).part) : partOf t p = partOf s p := by
  have h : taskOf t = taskOf s := by
    funext tag
    simp only [taskOf, hf]
  simp only [partOf, h, partOfQuire, hf, h1, h2]

/-- What retiring does. -/
theorem retire_spec (c : Ctx) (len : Nat) (ht : c.task = (here s).task) (hp : c.part = (here s).part) :
    Retires s (retire s c len) c len := by
  have hpart : partOf (s.setCtx s.cur c) s.cur = partOf s s.cur := partOf_congr rfl (by simpa using ht) (by simpa using hp)
  simp only [retire, retireAt, hpart, State.ctx_setCtx_same]
  refine ⟨by simp [here], fun p hp => by simp [State.ctx_setCtx, hp], by simp [SameElsewhere, SameButQuires, SameMemory, SameTime], fun n i hi => ?_⟩
  exact State.tally_counted _ (partOf s s.cur) 32 1 (by decide) n i hi

end

/-! ### The guard (R64, R76, R80) -/

/-- An instruction that issues has its body's effect. -/
theorem guarded_issues {g : Guard} {len : Nat} {s : State} (body : Ctx → Eff) (h : Issues g s) :
    guarded g false len s body = .next (settle s.cur (body (here s))) := by
  have h1 : stPP (s.ctx s.cur).st = false := h.1
  have h2 : guardHolds g (s.ctx s.cur).st = true := h.2
  simp [guarded, here, h1, h2]

theorem guarded_issuesVm {g : Guard} {len : Nat} {s : State} (body : Ctx → Eff) (h : IssuesVm g s) :
    guarded g true len s body = .next (settle s.cur (body (here s))) := by
  have h2 : guardHolds g (s.ctx s.cur).st = true := h
  simp [guarded, here, h2]

@[simp] theorem settle_ok (p : Nat) (s : State) : settle p (ok s) = s := rfl
@[simp] theorem settle_bad (p : Nat) (s : State) (t : Trap) : settle p (bad s t) = takeTrap s p t := rfl

/-- An instruction whose effect is to retire with a changed context. -/
theorem guarded_retires {g : Guard} {s : State} {c : Ctx} {len : Nat} {body : Ctx → Eff} (h : Issues g s)
    (hb : body (here s) = ok (retire s c len)) (ht : c.task = (here s).task) (hp : c.part = (here s).part) :
    ∃ t, guarded g false len s body = .next t ∧ Retires s t c len := by
  refine ⟨retire s c len, ?_, retire_spec s c len ht hp⟩
  rw [guarded_issues body h, hb, settle_ok]

/-- An instruction whose effect is a trap. -/
theorem guarded_traps {g : Guard} {s : State} {len : Nat} {body : Ctx → Eff} {x : Trap} (h : Issues g s)
    (hb : body (here s) = bad s x) : guarded g false len s body = .next (takeTrap s s.cur x) := by
  rw [guarded_issues body h, hb, settle_bad]

end Sys2Proof.Machine
end

