-- ==== Sys2Proof/Laws/Home.lean ====
section
/-! SUPPORT. What the operations at the Home can do to the rest of the machine: they move bytes, poison, copies, cached lines
and counters, and wake waiters; nothing else changes (R151, R185, R199, R312). -/
namespace Sys2Proof.Machine

/-- A context as a write leaves it: as it was, or woken from a WAITLINE or a BAR.WAIT. -/
def Woken (c d : Ctx) : Prop :=
  d = c ∨ (∃ t b, c.wait = .waitline t false ∧ d = { c with wait := .waitline t true, wakeBy := b })
    ∨ ∃ t b, c.wait = .barWait t false ∧ d = { c with wait := .barWait t true, wakeBy := b }

theorem Woken.trans {c d e : Ctx} (h : Woken c d) (h' : Woken d e) : Woken c e := by
  rcases h with rfl | ⟨t, b, h1, rfl⟩ | ⟨t, b, h1, rfl⟩
  · exact h'
  all_goals
    rcases h' with rfl | ⟨t', b', h2, -⟩ | ⟨t', b', h2, -⟩
    · first
        | exact .inr (.inl ⟨t, b, h1, rfl⟩)
        | exact .inr (.inr ⟨t, b, h1, rfl⟩)
    all_goals simp at h2

/-- Everything is as before but memory, poison, caches, the Write Queues, counters and woken contexts. -/
structure HomeOnly (s t : State) : Prop where
  agenda : t.agenda = s.agenda
  cur : t.cur = s.cur
  issued : t.issued = s.issued
  shown : t.shown = s.shown
  taken : t.taken = s.taken
  freeCtr : t.freeCtr = s.freeCtr
  cyc : t.cyc = s.cyc
  releases : t.releases = s.releases
  front : t.front = s.front
  dev : t.dev = s.dev
  fabric : t.fabric = s.fabric
  ctx : ∀ p, Woken (s.ctx p) (t.ctx p)

theorem HomeOnly.refl (s : State) : HomeOnly s s := by
  constructor
  all_goals first
    | rfl
    | exact fun _ => .inl rfl

theorem HomeOnly.trans {s t u : State} (h : HomeOnly s t) (h' : HomeOnly t u) : HomeOnly s u where
  agenda := h'.agenda.trans h.agenda
  cur := h'.cur.trans h.cur
  issued := h'.issued.trans h.issued
  shown := h'.shown.trans h.shown
  taken := h'.taken.trans h.taken
  freeCtr := h'.freeCtr.trans h.freeCtr
  cyc := h'.cyc.trans h.cyc
  releases := h'.releases.trans h.releases
  front := h'.front.trans h.front
  dev := h'.dev.trans h.dev
  fabric := h'.fabric.trans h.fabric
  ctx p := (h.ctx p).trans (h'.ctx p)

/-- What changes no field of the frame keeps it. -/
theorem HomeOnly.of_parts {s t : State} (h : t = { s with cores := t.cores, quires := t.quires, dies := t.dies, mem := t.mem, poison := t.poison, assize := t.assize }) : HomeOnly s t := by
  rw [h]
  constructor
  all_goals first
    | rfl
    | exact fun _ => .inl rfl

/-- A fold of such moves is one. -/
theorem HomeOnly.foldl {α : Type} {f : State → α → State} (h : ∀ s a, HomeOnly s (f s a)) (l : List α) (s : State) :
    HomeOnly s (l.foldl f s) := by
  induction l generalizing s with
  | nil => exact .refl s
  | cons a r ih => exact (h s a).trans (ih _)

theorem homeOnly_tally (s : State) (p : Option Nat) (i k : Nat) : HomeOnly s (s.tally p i k) := by
  obtain ⟨a, h⟩ := s.tally_eq p i k
  exact .of_parts (by rw [h]; rfl)

theorem homeOnly_countBytes (s : State) (p : Option Nat) (pa n : Nat) (w : Bool) : HomeOnly s (countBytes s p pa n w) := by
  unfold countBytes
  split
  · exact homeOnly_tally ..
  · exact homeOnly_tally ..
  · exact homeOnly_tally ..
  · exact .refl s

/-- A key's value in a list whose values are mapped. -/
theorem get_map {α : Type} {R : α → α → Prop} (d : α) (hd : R d d) (f : Nat × α → Nat × α) (h : ∀ e, (f e).1 = e.1 ∧ R e.2 (f e).2)
    (l : Sparse α) (k : Nat) : R (Sparse.get d l k) (Sparse.get d (l.map f) k) := by
  induction l with
  | nil => exact hd
  | cons e r ih =>
    obtain ⟨i, x⟩ := e
    obtain ⟨h1, h2⟩ := h (i, x)
    rw [List.map_cons]
    generalize hf : f (i, x) = y at h1 h2
    obtain ⟨j, y⟩ := y
    subst h1
    simp only [Sparse.get]
    split
    · exact h2
    · exact ih

theorem homeOnly_wakeAt (s : State) (pa n : Nat) (place : Nat → Coh → Bool) (base : Option Nat) : HomeOnly s (wakeAt s pa n place base) := by
  unfold wakeAt
  extract_lets hit due
  clear_value hit due
  constructor
  all_goals try rfl
  intro p
  refine get_map (R := Woken) Ctx.reset (.inl rfl) _ (fun e => ?_) s.ctxs p
  split
  · split
    · next h => exact ⟨rfl, .inr (.inl ⟨_, _, h, rfl⟩)⟩
    · next h => exact ⟨rfl, .inr (.inr ⟨_, _, h, rfl⟩)⟩
    · exact ⟨rfl, .inl rfl⟩
  · exact ⟨rfl, .inl rfl⟩

/-- A write at the Home. -/
theorem homeOnly_putHome (s : State) (pa : Nat) (data : List Byte) (base : Option Nat) : HomeOnly s (putHome s pa data base) := by
  unfold putHome
  exact .trans (.of_parts rfl) (homeOnly_wakeAt ..)

theorem homeOnly_dropRdcLine (s : State) (die line : Nat) : HomeOnly s (dropRdcLine s die line) := .of_parts rfl

theorem homeOnly_evictRdc (s : State) (die line : Nat) : HomeOnly s (evictRdc s die line) := .of_parts rfl

theorem homeOnly_fillRdc (s : State) (die line : Nat) (part : Option Nat) (h : Hold) (ver : BitVec 8) :
    HomeOnly s (fillRdc s die line part h ver) := by
  unfold fillRdc
  dsimp only
  split
  · exact .refl s
  · split
    · split
      · exact (homeOnly_evictRdc ..).trans (.of_parts rfl)
      · exact .of_parts rfl
    · exact .of_parts rfl

theorem homeOnly_setDir (s : State) (line : Nat) (x : Dir) : HomeOnly s (setDir s line x) := .of_parts rfl

theorem homeOnly_dropSharers (s : State) (home line keep : Nat) : HomeOnly s (dropSharers s home line keep) := by
  unfold dropSharers
  refine .foldl (fun s e => ?_) _ _
  split
  · exact homeOnly_dropRdcLine ..
  · exact .refl s

theorem homeOnly_afterRecall (s : State) (owner line : Nat) (kind : CohKind) : HomeOnly s (afterRecall s owner line kind) := by
  unfold afterRecall
  dsimp only
  split
  · exact .trans (.of_parts rfl) (homeOnly_setDir ..)
  · exact (homeOnly_dropRdcLine ..).trans (homeOnly_setDir ..)

theorem homeOnly_applyDir (s : State) (home : Nat) (r : CohReq) : HomeOnly s (applyDir s home r) := by
  unfold applyDir
  dsimp only
  split
  · split
    · exact .refl s
    · exact (homeOnly_setDir ..).trans (homeOnly_fillRdc ..)
  · have h := homeOnly_dropSharers s home r.line r.die
    split
    · exact h.trans (homeOnly_setDir ..)
    · split
      · exact h
      · split
        · exact h.trans (homeOnly_setDir ..)
        · exact (h.trans (homeOnly_setDir ..)).trans (homeOnly_fillRdc ..)
  all_goals exact .refl s

theorem homeOnly_takeHome (s : State) (home : Nat) (r : CohReq) : HomeOnly s (takeHome s home r) := by
  unfold takeHome
  extract_lets s1 s2
  have h1 : HomeOnly s s1 := by
    show HomeOnly s (match otherOwner s r.die r.line with
      | some o => afterRecall s o r.line r.kind
      | none => s)
    split
    · exact homeOnly_afterRecall ..
    · exact .refl s
  have h2 : HomeOnly s s2 := (h1.trans (homeOnly_applyDir s1 home r)).trans (.of_parts rfl)
  split
  · exact h2.trans (.of_parts rfl)
  · exact h2

/-- A party that reads or writes a line at its Home takes it from its owner. -/
theorem homeOnly_claimLine (s : State) (kind : CohKind) (line : Nat) : HomeOnly s (claimLine s kind line) := by
  unfold claimLine
  split
  · exact homeOnly_takeHome ..
  · exact .refl s

theorem homeOnly_performPend (s : State) (p : Pend) : HomeOnly s (performPend s p) := by
  unfold performPend
  dsimp only
  split
  · exact .refl s
  · exact ((homeOnly_countBytes ..).trans (homeOnly_putHome ..)).trans (homeOnly_countBytes ..)

/-- The pending reductions on a line performed. -/
theorem homeOnly_drainLine (s : State) (line : Nat) : HomeOnly s (drainLine s line) := by
  unfold drainLine
  extract_lets t
  have h : HomeOnly s t := by
    show HomeOnly s (if _ then claimLine s .own line else s)
    split
    · exact homeOnly_claimLine ..
    · exact .refl s
  refine h.trans (.foldl (fun s e => ?_) _ _)
  dsimp only
  split
  · exact .refl s
  · exact .trans (.of_parts rfl) (.foldl homeOnly_performPend _ _)

/-- A line without pending reductions stays as it is. -/
theorem drainLine_none {s : State} {line : Nat} (h : ∀ e ∈ s.quires, ∀ p ∈ e.2.pend, lineOf p.pa ≠ line) : drainLine s line = s := by
  have h1 : ∀ e ∈ s.quires, (e.2.pend.filter fun p => lineOf p.pa == line) = [] := fun e he => by
    rw [List.filter_eq_nil_iff]
    exact fun p hp => by simpa using h e he p hp
  have h2 : (s.quires.any fun e => e.2.pend.any fun p => lineOf p.pa == line) = false := by
    simp only [List.any_eq_false]
    intro e he
    simpa using h e he
  unfold drainLine
  rw [h2]
  dsimp only
  rw [if_neg (by decide)]
  generalize s.quires = l at h1
  revert h1
  generalize s = t
  intro h1
  induction l with
  | nil => rfl
  | cons e r ih =>
    rw [List.foldl_cons, h1 e List.mem_cons_self]
    exact ih fun e he => h1 e (List.mem_cons_of_mem _ he)

end Sys2Proof.Machine
end

