-- ==== Sys2Proof/Laws/PerInstr.lean ====
section
/-! SUPPORT. For every instruction: encoding it and decoding the word again gives it back (R61, R65 to R83). The family is
EncodeRoundTrip; an event has no encoding, so its lemma holds for want of one. -/
namespace Sys2Proof.Laws.EncodeRoundTrip

/-- Encoding and decoding again gives the instruction, at the length its first two bits name. -/
def Statement (i : Instr) : Prop :=
  i.wf = true → ∀ e, encode i = some e →
    ∃ l, l < 3 ∧ e.1 = 64 + 32 * l ∧ bits e.2 0 2 = l ∧ e.2 < 2 ^ e.1 ∧ decodeWord l e.2 = .ok i

theorem statement_of {i : Instr} (l maj min : Nat) (g : Guard) (r : List (Nat × Nat)) (hl : l < 3) (hmaj : bits maj 0 8
    = maj)
    (hmin : bits min 0 4 = min) (hg : g.wf = true) (hlen : (lengthsOf maj).contains l = true) (hm : minorOk maj min =
        true)
    (hr : (r.map (·.1)).sum = 46 + 32 * l)
    (h : ∀ w, (∀ lo k, bits w lo k = ext (hdr l maj min g ++ r) lo k) → decodeBody maj min l w g = .ok i) :
    ∃ l', l' < 3 ∧ 64 + 32 * l = 64 + 32 * l' ∧ bits (pack (hdr l maj min g ++ r)) 0 2 = l'
      ∧ pack (hdr l maj min g ++ r) < 2 ^ (64 + 32 * l) ∧ decodeWord l' (pack (hdr l maj min g ++ r)) = .ok i := by
  refine ⟨l, hl, rfl, ?_, ?_, ?_⟩
  · rw [bits_pack]
    show bits l 0 2 = l
    simp [bits]; omega
  · refine Nat.lt_of_lt_of_le (pack_lt _) (Nat.le_of_eq ?_)
    rw [List.map_append, List.sum_append, hr]
    show 2 ^ (18 + (46 + 32 * l)) = _
    congr 1; omega
  · rw [decodeWord_hdr _ _ _ _ _ _ hmaj hmin hg hlen hm]
    exact h _ fun lo k => bits_pack _ lo k

set_option linter.unusedSimpArgs false
/-- The two-source integer entries. -/
theorem intBin {i : Instr} {maj : Nat} {mk : Guard → IntBin → Instr} {sfOk : Bool} {g : Guard} {o : IntBin}
    (he : encode i = some (encIntBin maj g o)) (hi : i = mk g o) (hmk : intBinOf maj = some (mk, sfOk))
    (hmaj : bits maj 0 8 = maj ∧ 0x10 ≤ maj ∧ maj < 0x20 ∧ (∀ l < 3, (lengthsOf maj).contains l = true) ∧ minorOk maj 0
        = true)
    (hg : g.wf = true) (hsf : sfOk = true ∨ o.sf = false) : Statement i := by
  intro _ e he'
  obtain rfl := Option.some.inj (he.symm.trans he')
  subst hi
  obtain ⟨h1, h2, h3, hl, hm⟩ := hmaj
  obtain ⟨ty, rd, ra, b, sf⟩ := o
  have hs : (sfOk || bit1 sf == 0) = true := by rcases hsf with h | h <;> simp_all [bit1]
  rcases b with rb | v | v | v
  on_goal 1 => refine statement_of 0 maj 0 _ _ (by decide) h1 (by decide) hg (hl 0 (by decide)) hm rfl fun w hb => ?_
  on_goal 2 => refine statement_of 0 maj 0 _ _ (by decide) h1 (by decide) hg (hl 0 (by decide)) hm rfl fun w hb => ?_
  on_goal 3 => refine statement_of 1 maj 0 _ _ (by decide) h1 (by decide) hg (hl 1 (by decide)) hm rfl fun w hb => ?_
  on_goal 4 => refine statement_of 2 maj 0 _ _ (by decide) h1 (by decide) hg (hl 2 (by decide)) hm rfl fun w hb => ?_
  all_goals rw [body_int h2 (by omega)]
  all_goals simp only [decodeInt, hmk, srcAt, immAt, zeros, regAt, predAt, handleAt, flagAt, accept, hb, hdr,
      List.cons_append, List.nil_append, ext, Nat.reduceLeDiff, Nat.reduceSub, Nat.reduceAdd, ↓reduceIte]
  all_goals simp [ofNat_bits, ITy.bits_code, ITy.of_code, bits_bit1, bit1_beq, bits_zero_left, bits_1_1, hs]

/-- The length code of a memory operand's form (R67). -/
def lenOf : Addr → Nat
  | .base8 .. => 0
  | .base40 .. => 1
  | .index .. => 0
  | .abs .. => 2

/-- What the decoding of a Format M entry may read of the word: base8. -/
theorem mem_base8 {i : Instr} {maj min rd rb rc sz sc po pd : Nat} {g : Guard} (r : Reg) (d vw : BitVec 8)
    (he : encode i = some (encM maj min g rd rb rc sz sc po pd (.base8 r d vw))) (hg : g.wf = true) (ha : Addr.wf
        (.base8 r d vw) = true)
    (hmaj : bits maj 0 8 = maj ∧ (∀ l < 3, (lengthsOf maj).contains l = true)) (hmin : bits min 0 4 = min ∧ minorOk maj
        min = true)
    (h : ∀ l w, addrAt l w = some (.base8 r d vw) → (rb = 0 → rbFree w = true) → bits w 18 4 = bits rd 0 4 →
      (Addr.noIndex (.base8 r d vw) = true → bits w 26 4 = bits rb 0 4) → bits w 30 4 = bits rc 0 4 → bits w 34 2 =
          bits sz 0 2 →
      bits w 36 2 = bits sc 0 2 → bits w 38 2 = bits po 0 2 → bits w 45 3 = bits pd 0 3 →
      (rc = 0 → sz = 0 → sc = 0 → bits w 30 8 = 0) → (rc = 0 → sz = 0 → sc = 0 → po = 0 → bits w 30 10 = 0) →
      (sz = 0 → sc = 0 → po = 0 → bits w 34 6 = 0) → decodeBody maj min l w g = .ok i) : Statement i := by
  intro _ e he'
  obtain rfl := Option.some.inj (he.symm.trans he')
  have hv : vwOk vw = true := ha
  refine statement_of 0 maj min _ _ (by decide) hmaj.1 hmin.1 hg (hmaj.2 0 (by decide)) hmin.2 rfl fun w hb => h _ w ?_
      ?_ ?_ ?_ ?_ ?_ ?_ ?_ ?_ ?_ ?_ ?_
  all_goals simp only [addrAt, rbFree, regAt, handleAt, hb, hdr, List.cons_append, List.nil_append, ext,
      Nat.reduceLeDiff, Nat.reduceSub, Nat.reduceAdd, ↓reduceIte]
  all_goals simp +contextual [ofNat_bits, bits_toNat, bits_zero_left, bits_lit, Addr.noIndex, hv]

/-- What the decoding of a Format M entry may read of the word: base40. -/
theorem mem_base40 {i : Instr} {maj min rd rb rc sz sc po pd : Nat} {g : Guard} (r : Reg) (d : BitVec 40) (vw : BitVec
    8)
    (he : encode i = some (encM maj min g rd rb rc sz sc po pd (.base40 r d vw))) (hg : g.wf = true) (ha : Addr.wf
        (.base40 r d vw) = true)
    (hmaj : bits maj 0 8 = maj ∧ (∀ l < 3, (lengthsOf maj).contains l = true)) (hmin : bits min 0 4 = min ∧ minorOk maj
        min = true)
    (h : ∀ l w, addrAt l w = some (.base40 r d vw) → (rb = 0 → rbFree w = true) → bits w 18 4 = bits rd 0 4 →
      (Addr.noIndex (.base40 r d vw) = true → bits w 26 4 = bits rb 0 4) → bits w 30 4 = bits rc 0 4 → bits w 34 2 =
          bits sz 0 2 →
      bits w 36 2 = bits sc 0 2 → bits w 38 2 = bits po 0 2 → bits w 45 3 = bits pd 0 3 →
      (rc = 0 → sz = 0 → sc = 0 → bits w 30 8 = 0) → (rc = 0 → sz = 0 → sc = 0 → po = 0 → bits w 30 10 = 0) →
      (sz = 0 → sc = 0 → po = 0 → bits w 34 6 = 0) → decodeBody maj min l w g = .ok i) : Statement i := by
  intro _ e he'
  obtain rfl := Option.some.inj (he.symm.trans he')
  have hv : vwOk vw = true := ha
  refine statement_of 1 maj min _ _ (by decide) hmaj.1 hmin.1 hg (hmaj.2 1 (by decide)) hmin.2 rfl fun w hb => h _ w ?_
      ?_ ?_ ?_ ?_ ?_ ?_ ?_ ?_ ?_ ?_ ?_
  all_goals simp only [addrAt, rbFree, regAt, handleAt, hb, hdr, List.cons_append, List.nil_append, ext,
      Nat.reduceLeDiff, Nat.reduceSub, Nat.reduceAdd, ↓reduceIte]
  all_goals simp +contextual [ofNat_bits, bits_toNat, bits_zero_left, bits_lit, Addr.noIndex, hv]

/-- What the decoding of a Format M entry may read of the word: index. -/
theorem mem_index {i : Instr} {maj min rd rb rc sz sc po pd : Nat} {g : Guard} (r x : Reg) (k : BitVec 3) (vw : BitVec
    8)
    (he : encode i = some (encM maj min g rd rb rc sz sc po pd (.index r x k vw))) (hg : g.wf = true) (ha : Addr.wf
        (.index r x k vw) = true)
    (hmaj : bits maj 0 8 = maj ∧ (∀ l < 3, (lengthsOf maj).contains l = true)) (hmin : bits min 0 4 = min ∧ minorOk maj
        min = true)
    (h : ∀ l w, addrAt l w = some (.index r x k vw) → (rb = 0 → rbFree w = true) → bits w 18 4 = bits rd 0 4 →
      (Addr.noIndex (.index r x k vw) = true → bits w 26 4 = bits rb 0 4) → bits w 30 4 = bits rc 0 4 → bits w 34 2 =
          bits sz 0 2 →
      bits w 36 2 = bits sc 0 2 → bits w 38 2 = bits po 0 2 → bits w 45 3 = bits pd 0 3 →
      (rc = 0 → sz = 0 → sc = 0 → bits w 30 8 = 0) → (rc = 0 → sz = 0 → sc = 0 → po = 0 → bits w 30 10 = 0) →
      (sz = 0 → sc = 0 → po = 0 → bits w 34 6 = 0) → decodeBody maj min l w g = .ok i) : Statement i := by
  intro _ e he'
  obtain rfl := Option.some.inj (he.symm.trans he')
  have hv : vwOk vw = true := (Bool.and_eq_true_iff.mp ha).2
  have hk : k.toNat ≤ 5 := of_decide_eq_true (Bool.and_eq_true_iff.mp ha).1
  refine statement_of 0 maj min _ _ (by decide) hmaj.1 hmin.1 hg (hmaj.2 0 (by decide)) hmin.2 rfl fun w hb => h _ w ?_
      ?_ ?_ ?_ ?_ ?_ ?_ ?_ ?_ ?_ ?_ ?_
  all_goals simp only [addrAt, rbFree, regAt, handleAt, hb, hdr, List.cons_append, List.nil_append, ext,
      Nat.reduceLeDiff, Nat.reduceSub, Nat.reduceAdd, ↓reduceIte]
  all_goals simp +contextual [ofNat_bits, bits_toNat, bits_zero_left, bits_lit, Addr.noIndex, hv, hk]

/-- What the decoding of a Format M entry may read of the word: abs. -/
theorem mem_abs {i : Instr} {maj min rd rb rc sz sc po pd : Nat} {g : Guard} (d : Word) (vw : BitVec 8)
    (he : encode i = some (encM maj min g rd rb rc sz sc po pd (.abs d vw))) (hg : g.wf = true) (ha : Addr.wf (.abs d
        vw) = true)
    (hmaj : bits maj 0 8 = maj ∧ (∀ l < 3, (lengthsOf maj).contains l = true)) (hmin : bits min 0 4 = min ∧ minorOk maj
        min = true)
    (h : ∀ l w, addrAt l w = some (.abs d vw) → (rb = 0 → rbFree w = true) → bits w 18 4 = bits rd 0 4 →
      (Addr.noIndex (.abs d vw) = true → bits w 26 4 = bits rb 0 4) → bits w 30 4 = bits rc 0 4 → bits w 34 2 = bits sz
          0 2 →
      bits w 36 2 = bits sc 0 2 → bits w 38 2 = bits po 0 2 → bits w 45 3 = bits pd 0 3 →
      (rc = 0 → sz = 0 → sc = 0 → bits w 30 8 = 0) → (rc = 0 → sz = 0 → sc = 0 → po = 0 → bits w 30 10 = 0) →
      (sz = 0 → sc = 0 → po = 0 → bits w 34 6 = 0) → decodeBody maj min l w g = .ok i) : Statement i := by
  intro _ e he'
  obtain rfl := Option.some.inj (he.symm.trans he')
  have hv : vwOk vw = true := ha
  refine statement_of 2 maj min _ _ (by decide) hmaj.1 hmin.1 hg (hmaj.2 2 (by decide)) hmin.2 rfl fun w hb => h _ w ?_
      ?_ ?_ ?_ ?_ ?_ ?_ ?_ ?_ ?_ ?_ ?_
  all_goals simp only [addrAt, rbFree, regAt, handleAt, hb, hdr, List.cons_append, List.nil_append, ext,
      Nat.reduceLeDiff, Nat.reduceSub, Nat.reduceAdd, ↓reduceIte]
  all_goals simp +contextual [ofNat_bits, bits_toNat, bits_zero_left, bits_lit, Addr.noIndex, hv]

/-- What the decoding of a Format M entry may read of the word. -/
theorem memStmt {i : Instr} {maj min rd rb rc sz sc po pd : Nat} {g : Guard} {a : Addr}
    (he : encode i = some (encM maj min g rd rb rc sz sc po pd a)) (hg : g.wf = true) (ha : Addr.wf a = true)
    (hmaj : bits maj 0 8 = maj ∧ (∀ l < 3, (lengthsOf maj).contains l = true)) (hmin : bits min 0 4 = min ∧ minorOk maj
        min = true)
    (h : ∀ l w, addrAt l w = some a → (rb = 0 → rbFree w = true) → bits w 18 4 = bits rd 0 4 →
      (Addr.noIndex a = true → bits w 26 4 = bits rb 0 4) → bits w 30 4 = bits rc 0 4 → bits w 34 2 = bits sz 0 2 →
      bits w 36 2 = bits sc 0 2 → bits w 38 2 = bits po 0 2 → bits w 45 3 = bits pd 0 3 →
      (rc = 0 → sz = 0 → sc = 0 → bits w 30 8 = 0) → (rc = 0 → sz = 0 → sc = 0 → po = 0 → bits w 30 10 = 0) →
      (sz = 0 → sc = 0 → po = 0 → bits w 34 6 = 0) → decodeBody maj min l w g = .ok i) : Statement i := by
  rcases a with ⟨r, d, v⟩ | ⟨r, d, v⟩ | ⟨r, x, k, v⟩ | ⟨d, v⟩
  · exact mem_base8 r d v he hg ha hmaj hmin h
  · exact mem_base40 r d v he hg ha hmaj hmin h
  · exact mem_index r x k v he hg ha hmaj hmin h
  · exact mem_abs d v he hg ha hmaj hmin h

/-- The vector entries with a tile or scalar B. -/
theorem vecBin {i : Instr} {maj : Nat} {mk : Guard → VecBin → Instr} {g : Guard} {o : VecBin}
    (he : encode i = some (encVecB maj g o.td o.ta o.b o.sf 0)) (hi : i = mk g o)
    (hmaj : bits maj 0 8 = maj ∧ 0x60 ≤ maj ∧ maj < 0x80 ∧ (lengthsOf maj).contains 0 = true ∧ minorOk maj 0 = true)
    (hd : ∀ w, decodeVec maj 0 w g = decodeVecB w g mk) (hg : g.wf = true) : Statement i := by
  intro _ e he'
  obtain rfl := Option.some.inj (he.symm.trans he')
  subst hi
  obtain ⟨h1, h2, h3, hl, hm⟩ := hmaj
  obtain ⟨td, ta, b, sf⟩ := o
  rcases b with t | r
  all_goals refine statement_of 0 maj 0 _ _ (by decide) h1 (by decide) hg hl hm rfl fun w hb => ?_
  all_goals rw [body_vec h2 h3, hd]
  all_goals simp only [decodeVecB, tsrcB, zeros, regAt, handleAt, flagAt, accept, acceptWith, hb, hdr,
      List.cons_append, List.nil_append, ext, Nat.reduceLeDiff, Nat.reduceSub, Nat.reduceAdd, ↓reduceIte]
  all_goals simp [ofNat_bits, bits_toNat, bits_zero_left, bits_bit1, bit1_beq, bits_lit]

/-- The one-source vector entries. -/
theorem vecUn {i : Instr} {maj : Nat} {mk : Guard → VecUn → Instr} {sfOk : Bool} {g : Guard} {o : VecUn}
    (he : encode i = some (encVecUn maj g o)) (hi : i = mk g o)
    (hmaj : bits maj 0 8 = maj ∧ 0x60 ≤ maj ∧ maj < 0x80 ∧ (lengthsOf maj).contains 0 = true ∧ minorOk maj 0 = true)
    (hd : ∀ w, decodeVec maj 0 w g = decodeVecUn w g sfOk mk) (hg : g.wf = true) (hsf : sfOk = true ∨ o.sf = false) :
    Statement i := by
  intro _ e he'
  obtain rfl := Option.some.inj (he.symm.trans he')
  subst hi
  obtain ⟨h1, h2, h3, hl, hm⟩ := hmaj
  obtain ⟨td, ta, sf⟩ := o
  have hs : (sfOk || bit1 sf == 0) = true := by rcases hsf with h | h <;> simp_all [bit1]
  refine statement_of 0 maj 0 _ _ (by decide) h1 (by decide) hg hl hm rfl fun w hb => ?_
  rw [body_vec h2 h3, hd]
  simp only [decodeVecUn, zeros, handleAt, flagAt, accept, hb, hdr, List.cons_append, List.nil_append, ext,
      Nat.reduceLeDiff, Nat.reduceSub, Nat.reduceAdd, ↓reduceIte]
  simp [ofNat_bits, bits_zero_left, bits_bit1, bit1_beq, hs]

/-- VRED and VSCAN. -/
theorem vecRed {i : Instr} {maj : Nat} {mk : Guard → VecRed → Instr} {g : Guard} {o : VecRed}
    (he : encode i = some (encT maj g o.td.toNat o.ta.toNat 0 0 0 (bit1 o.sf) (o.axis.toNat + 8 * o.op.code))) (hi : i
        = mk g o)
    (hmaj : bits maj 0 8 = maj ∧ 0x60 ≤ maj ∧ maj < 0x80 ∧ (lengthsOf maj).contains 0 = true ∧ minorOk maj 0 = true)
    (hd : ∀ w, decodeVec maj 0 w g = decodeVecRed w g mk) (hw : (g.wf && axisOk o.axis) = true) : Statement i := by
  intro _ e he'
  obtain ⟨hg, hx⟩ := Bool.and_eq_true_iff.mp hw
  obtain rfl := Option.some.inj (he.symm.trans he')
  subst hi
  obtain ⟨h1, h2, h3, hl, hm⟩ := hmaj
  obtain ⟨op, td, ta, axis, sf⟩ := o
  have ho : bits (axis.toNat + 8 * op.code) 6 3 = 0 := by
    have h := axis.isLt
    cases op <;> simp only [bits, RedOp.code] <;> omega
  refine statement_of 0 maj 0 _ _ (by decide) h1 (by decide) hg hl hm rfl fun w hb => ?_
  rw [body_vec h2 h3, hd]
  simp only [decodeVecRed, zeros, handleAt, predAt, flagAt, accept, acceptWith, hb, hdr, List.cons_append,
      List.nil_append, ext, Nat.reduceLeDiff, Nat.reduceSub, Nat.reduceAdd, ↓reduceIte]
  simp [ofNat_bits, bits_toNat, bits_zero_left, bits_bit1, bit1_beq, bits_join0, bits_join1, RedOp.bits_code,
      RedOp.of_code, ho,
    of_decide_eq_true hx]

set_option linter.unusedSimpArgs false
theorem nop (g : Guard) : Statement (.nop g) := by
  intro hw e he
  have hg : g.wf = true := hw
  obtain rfl := Option.some.inj he
  refine statement_of 0 0x01 0 _ _ (by decide) (by decide) (by decide) hg (by decide) (by decide) rfl fun w hb => ?_
  rw [body_control (by decide)]
  simp only [decodeControl, zeros, regAt, predAt, handleAt, flagAt, accept, acceptWith, hb, hdr, List.cons_append,
      List.nil_append, ext, Nat.reduceLeDiff, Nat.reduceSub, Nat.reduceAdd, ↓reduceIte]
  simp [ofNat_bits, bits_toNat, bits_zero_left, bits_bit1, bit1_beq, bit1_beq_zero, bits_lit, bits_past,
      bits_bit1_past, bits_join0, bits_join1]

theorem br (g : Guard) (off : BitVec 34) : Statement (.br g off) := by
  intro hw e he
  have hg : g.wf = true := hw
  obtain rfl := Option.some.inj he
  refine statement_of 0 0x02 0 _ _ (by decide) (by decide) (by decide) hg (by decide) (by decide) rfl fun w hb => ?_
  rw [body_control (by decide)]
  simp only [decodeControl, zeros, regAt, predAt, handleAt, flagAt, accept, acceptWith, hb, hdr, List.cons_append,
      List.nil_append, ext, Nat.reduceLeDiff, Nat.reduceSub, Nat.reduceAdd, ↓reduceIte]
  simp [ofNat_bits, bits_toNat, bits_zero_left, bits_bit1, bit1_beq, bit1_beq_zero, bits_lit, bits_past,
      bits_bit1_past, bits_join0, bits_join1]

theorem brTile (g : Guard) (t : Handle) (cv : BitVec 3) (cn : Bool) (off : BitVec 34) : Statement (.brTile g t cv cn
    off) := by
  intro hw e he
  obtain ⟨hg, h1⟩ := Bool.and_eq_true_iff.mp hw
  obtain rfl := Option.some.inj he
  refine statement_of 0 0x02 1 _ _ (by decide) (by decide) (by decide) hg (by decide) (by decide) rfl fun w hb => ?_
  rw [body_control (by decide)]
  simp only [decodeControl, zeros, regAt, predAt, handleAt, flagAt, accept, acceptWith, hb, hdr, List.cons_append,
      List.nil_append, ext, Nat.reduceLeDiff, Nat.reduceSub, Nat.reduceAdd, ↓reduceIte]
  simp [ofNat_bits, bits_toNat, bits_zero_left, bits_bit1, bit1_beq, bit1_beq_zero, bits_lit, bits_past,
      bits_bit1_past, bits_join0, bits_join1, of_decide_eq_true h1]

theorem brChan (g : Guard) (ch : BitVec 3) (cv : BitVec 3) (cn : Bool) (off : BitVec 34) : Statement (.brChan g ch cv
    cn off) := by
  intro hw e he
  obtain ⟨hg, h1⟩ := Bool.and_eq_true_iff.mp hw
  obtain rfl := Option.some.inj he
  refine statement_of 0 0x02 2 _ _ (by decide) (by decide) (by decide) hg (by decide) (by decide) rfl fun w hb => ?_
  rw [body_control (by decide)]
  simp only [decodeControl, zeros, regAt, predAt, handleAt, flagAt, accept, acceptWith, hb, hdr, List.cons_append,
      List.nil_append, ext, Nat.reduceLeDiff, Nat.reduceSub, Nat.reduceAdd, ↓reduceIte]
  simp [ofNat_bits, bits_toNat, bits_zero_left, bits_bit1, bit1_beq, bit1_beq_zero, bits_lit, bits_past,
      bits_bit1_past, bits_join0, bits_join1, of_decide_eq_true h1]

theorem jmp (g : Guard) (n : Reg) : Statement (.jmp g n) := by
  intro hw e he
  have hg : g.wf = true := hw
  obtain rfl := Option.some.inj he
  refine statement_of 0 0x03 0 _ _ (by decide) (by decide) (by decide) hg (by decide) (by decide) rfl fun w hb => ?_
  rw [body_control (by decide)]
  simp only [decodeControl, zeros, regAt, predAt, handleAt, flagAt, accept, acceptWith, hb, hdr, List.cons_append,
      List.nil_append, ext, Nat.reduceLeDiff, Nat.reduceSub, Nat.reduceAdd, ↓reduceIte]
  simp [ofNat_bits, bits_toNat, bits_zero_left, bits_bit1, bit1_beq, bit1_beq_zero, bits_lit, bits_past,
      bits_bit1_past, bits_join0, bits_join1]

theorem call (g : Guard) (off : BitVec 34) : Statement (.call g off) := by
  intro hw e he
  have hg : g.wf = true := hw
  obtain rfl := Option.some.inj he
  refine statement_of 0 0x04 0 _ _ (by decide) (by decide) (by decide) hg (by decide) (by decide) rfl fun w hb => ?_
  rw [body_control (by decide)]
  simp only [decodeControl, zeros, regAt, predAt, handleAt, flagAt, accept, acceptWith, hb, hdr, List.cons_append,
      List.nil_append, ext, Nat.reduceLeDiff, Nat.reduceSub, Nat.reduceAdd, ↓reduceIte]
  simp [ofNat_bits, bits_toNat, bits_zero_left, bits_bit1, bit1_beq, bit1_beq_zero, bits_lit, bits_past,
      bits_bit1_past, bits_join0, bits_join1]

theorem callReg (g : Guard) (n : Reg) : Statement (.callReg g n) := by
  intro hw e he
  have hg : g.wf = true := hw
  obtain rfl := Option.some.inj he
  refine statement_of 0 0x04 1 _ _ (by decide) (by decide) (by decide) hg (by decide) (by decide) rfl fun w hb => ?_
  rw [body_control (by decide)]
  simp only [decodeControl, zeros, regAt, predAt, handleAt, flagAt, accept, acceptWith, hb, hdr, List.cons_append,
      List.nil_append, ext, Nat.reduceLeDiff, Nat.reduceSub, Nat.reduceAdd, ↓reduceIte]
  simp [ofNat_bits, bits_toNat, bits_zero_left, bits_bit1, bit1_beq, bit1_beq_zero, bits_lit, bits_past,
      bits_bit1_past, bits_join0, bits_join1]

theorem ret (g : Guard) : Statement (.ret g) := by
  intro hw e he
  have hg : g.wf = true := hw
  obtain rfl := Option.some.inj he
  refine statement_of 0 0x05 0 _ _ (by decide) (by decide) (by decide) hg (by decide) (by decide) rfl fun w hb => ?_
  rw [body_control (by decide)]
  simp only [decodeControl, zeros, regAt, predAt, handleAt, flagAt, accept, acceptWith, hb, hdr, List.cons_append,
      List.nil_append, ext, Nat.reduceLeDiff, Nat.reduceSub, Nat.reduceAdd, ↓reduceIte]
  simp [ofNat_bits, bits_toNat, bits_zero_left, bits_bit1, bit1_beq, bit1_beq_zero, bits_lit, bits_past,
      bits_bit1_past, bits_join0, bits_join1]

theorem align (g : Guard) (limit : BitVec 20) : Statement (.align g limit) := by
  intro hw e he
  have hg : g.wf = true := hw
  obtain rfl := Option.some.inj he
  refine statement_of 0 0x06 0 _ _ (by decide) (by decide) (by decide) hg (by decide) (by decide) rfl fun w hb => ?_
  rw [body_control (by decide)]
  simp only [decodeControl, zeros, regAt, predAt, handleAt, flagAt, accept, acceptWith, hb, hdr, List.cons_append,
      List.nil_append, ext, Nat.reduceLeDiff, Nat.reduceSub, Nat.reduceAdd, ↓reduceIte]
  simp [ofNat_bits, bits_toNat, bits_zero_left, bits_bit1, bit1_beq, bit1_beq_zero, bits_lit, bits_past,
      bits_bit1_past, bits_join0, bits_join1]

theorem gchunk (g : Guard) (pd : Pred) (rd : Reg) (n : BitVec 2) : Statement (.gchunk g pd rd n) := by
  intro hw e he
  have hg : g.wf = true := hw
  obtain rfl := Option.some.inj he
  refine statement_of 0 0x07 0 _ _ (by decide) (by decide) (by decide) hg (by decide) (by decide) rfl fun w hb => ?_
  rw [body_control (by decide)]
  simp only [decodeControl, zeros, regAt, predAt, handleAt, flagAt, accept, acceptWith, hb, hdr, List.cons_append,
      List.nil_append, ext, Nat.reduceLeDiff, Nat.reduceSub, Nat.reduceAdd, ↓reduceIte]
  simp [ofNat_bits, bits_toNat, bits_zero_left, bits_bit1, bit1_beq, bit1_beq_zero, bits_lit, bits_past,
      bits_bit1_past, bits_join0, bits_join1]

theorem gchunkInit (g : Guard) (n : BitVec 2) (ra : Reg) (rb : Reg) (rc : Reg) : Statement (.gchunkInit g n ra rb rc)
    := by
  intro hw e he
  have hn := n.isLt
  have x1 : bits (n.toNat + 4) 2 1 = 1 := by
    simp only [bits]
    omega
  have x2 : bits (n.toNat + 4) 3 17 = 0 := by
    simp only [bits]
    omega
  have x3 : bits (n.toNat + 4) 0 2 = n.toNat := by
    simp only [bits]
    omega
  have hg : g.wf = true := hw
  obtain rfl := Option.some.inj he
  refine statement_of 0 0x07 0 _ _ (by decide) (by decide) (by decide) hg (by decide) (by decide) rfl fun w hb => ?_
  rw [body_control (by decide)]
  simp only [decodeControl, zeros, regAt, predAt, handleAt, flagAt, accept, acceptWith, hb, hdr, List.cons_append,
      List.nil_append, ext, Nat.reduceLeDiff, Nat.reduceSub, Nat.reduceAdd, ↓reduceIte]
  simp [ofNat_bits, bits_toNat, bits_zero_left, bits_bit1, bit1_beq, bit1_beq_zero, bits_lit, bits_past,
      bits_bit1_past, bits_join0, bits_join1, x1, x2, x3, BitVec.ofNat_toNat]

theorem fmt (p : FmtPay) : Statement (.fmt p) := by
  intro hw e he
  obtain rfl := Option.some.inj he
  refine statement_of 0 0x08 0 ⟨0, false⟩ _ (by decide) (by decide) (by decide) (by decide) (by decide) (by decide) rfl
      fun w hb => ?_
  rw [body_control (by decide)]
  simp only [decodeControl, zeros, regAt, predAt, handleAt, flagAt, accept, acceptWith, hb, hdr, List.cons_append,
      List.nil_append, ext, Nat.reduceLeDiff, Nat.reduceSub, Nat.reduceAdd, ↓reduceIte]
  simp [ofNat_bits, bits_toNat, bits_zero_left, bits_bit1, bit1_beq, bit1_beq_zero, bits_lit, bits_past,
      bits_bit1_past, bits_join0, bits_join1, show bit1 false = 0 from rfl, show p.wf = true from hw]

theorem add (g : Guard) (o : IntBin) : Statement (.add g o) := fun hw =>
  intBin rfl rfl rfl (by decide) hw (.inl rfl) hw

theorem sub (g : Guard) (o : IntBin) : Statement (.sub g o) := fun hw =>
  intBin rfl rfl rfl (by decide) hw (.inl rfl) hw

theorem mul (g : Guard) (o : IntBin) : Statement (.mul g o) := fun hw =>
  intBin rfl rfl rfl (by decide) hw (.inl rfl) hw

theorem mulh (g : Guard) (o : IntBin) : Statement (.mulh g o) := fun hw =>
  intBin rfl rfl rfl (by decide) (Bool.and_eq_true_iff.mp hw).1 (.inr (by simpa using (Bool.and_eq_true_iff.mp hw).2))
      hw

theorem div (g : Guard) (o : IntBin) : Statement (.div g o) := fun hw =>
  intBin rfl rfl rfl (by decide) hw (.inl rfl) hw

theorem rem (g : Guard) (o : IntBin) : Statement (.rem g o) := fun hw =>
  intBin rfl rfl rfl (by decide) (Bool.and_eq_true_iff.mp hw).1 (.inr (by simpa using (Bool.and_eq_true_iff.mp hw).2))
      hw

theorem and (g : Guard) (o : IntBin) : Statement (.and g o) := fun hw =>
  intBin rfl rfl rfl (by decide) (Bool.and_eq_true_iff.mp hw).1 (.inr (by simpa using (Bool.and_eq_true_iff.mp hw).2))
      hw

theorem or (g : Guard) (o : IntBin) : Statement (.or g o) := fun hw =>
  intBin rfl rfl rfl (by decide) (Bool.and_eq_true_iff.mp hw).1 (.inr (by simpa using (Bool.and_eq_true_iff.mp hw).2))
      hw

theorem xor (g : Guard) (o : IntBin) : Statement (.xor g o) := fun hw =>
  intBin rfl rfl rfl (by decide) (Bool.and_eq_true_iff.mp hw).1 (.inr (by simpa using (Bool.and_eq_true_iff.mp hw).2))
      hw

theorem andn (g : Guard) (o : IntBin) : Statement (.andn g o) := fun hw =>
  intBin rfl rfl rfl (by decide) (Bool.and_eq_true_iff.mp hw).1 (.inr (by simpa using (Bool.and_eq_true_iff.mp hw).2))
      hw

theorem shl (g : Guard) (o : IntBin) : Statement (.shl g o) := fun hw =>
  intBin rfl rfl rfl (by decide) (Bool.and_eq_true_iff.mp hw).1 (.inr (by simpa using (Bool.and_eq_true_iff.mp hw).2))
      hw

theorem shr (g : Guard) (o : IntBin) : Statement (.shr g o) := fun hw =>
  intBin rfl rfl rfl (by decide) (Bool.and_eq_true_iff.mp hw).1 (.inr (by simpa using (Bool.and_eq_true_iff.mp hw).2))
      hw

theorem sha (g : Guard) (o : IntBin) : Statement (.sha g o) := fun hw =>
  intBin rfl rfl rfl (by decide) (Bool.and_eq_true_iff.mp hw).1 (.inr (by simpa using (Bool.and_eq_true_iff.mp hw).2))
      hw

theorem rot (g : Guard) (o : IntBin) : Statement (.rot g o) := fun hw =>
  intBin rfl rfl rfl (by decide) (Bool.and_eq_true_iff.mp hw).1 (.inr (by simpa using (Bool.and_eq_true_iff.mp hw).2))
      hw

theorem min (g : Guard) (o : IntBin) : Statement (.min g o) := fun hw =>
  intBin rfl rfl rfl (by decide) (Bool.and_eq_true_iff.mp hw).1 (.inr (by simpa using (Bool.and_eq_true_iff.mp hw).2))
      hw

theorem max (g : Guard) (o : IntBin) : Statement (.max g o) := fun hw =>
  intBin rfl rfl rfl (by decide) (Bool.and_eq_true_iff.mp hw).1 (.inr (by simpa using (Bool.and_eq_true_iff.mp hw).2))
      hw

theorem clz (g : Guard) (o : IntUn) : Statement (.clz g o) := by
  intro hw e he
  have hg : g.wf = true := hw
  obtain ⟨ty, rd, ra⟩ := o
  obtain rfl := Option.some.inj he
  refine statement_of 0 0x20 0 _ _ (by decide) (by decide) (by decide) hg (by decide) (by decide) rfl fun w hb => ?_
  rw [body_int (by decide) (by decide)]
  simp only [decodeInt, intBinOf, zeros, regAt, predAt, handleAt, flagAt, accept, acceptWith, hb, hdr,
      List.cons_append, List.nil_append, ext, Nat.reduceLeDiff, Nat.reduceSub, Nat.reduceAdd, ↓reduceIte]
  simp [ofNat_bits, bits_toNat, bits_zero_left, bits_bit1, bit1_beq, bit1_beq_zero, bits_lit, bits_past,
      bits_bit1_past, bits_join0, bits_join1, ITy.bits_code, ITy.of_code]

theorem ctz (g : Guard) (o : IntUn) : Statement (.ctz g o) := by
  intro hw e he
  have hg : g.wf = true := hw
  obtain ⟨ty, rd, ra⟩ := o
  obtain rfl := Option.some.inj he
  refine statement_of 0 0x21 0 _ _ (by decide) (by decide) (by decide) hg (by decide) (by decide) rfl fun w hb => ?_
  rw [body_int (by decide) (by decide)]
  simp only [decodeInt, intBinOf, zeros, regAt, predAt, handleAt, flagAt, accept, acceptWith, hb, hdr,
      List.cons_append, List.nil_append, ext, Nat.reduceLeDiff, Nat.reduceSub, Nat.reduceAdd, ↓reduceIte]
  simp [ofNat_bits, bits_toNat, bits_zero_left, bits_bit1, bit1_beq, bit1_beq_zero, bits_lit, bits_past,
      bits_bit1_past, bits_join0, bits_join1, ITy.bits_code, ITy.of_code]

theorem popc (g : Guard) (o : IntUn) : Statement (.popc g o) := by
  intro hw e he
  have hg : g.wf = true := hw
  obtain ⟨ty, rd, ra⟩ := o
  obtain rfl := Option.some.inj he
  refine statement_of 0 0x22 0 _ _ (by decide) (by decide) (by decide) hg (by decide) (by decide) rfl fun w hb => ?_
  rw [body_int (by decide) (by decide)]
  simp only [decodeInt, intBinOf, zeros, regAt, predAt, handleAt, flagAt, accept, acceptWith, hb, hdr,
      List.cons_append, List.nil_append, ext, Nat.reduceLeDiff, Nat.reduceSub, Nat.reduceAdd, ↓reduceIte]
  simp [ofNat_bits, bits_toNat, bits_zero_left, bits_bit1, bit1_beq, bit1_beq_zero, bits_lit, bits_past,
      bits_bit1_past, bits_join0, bits_join1, ITy.bits_code, ITy.of_code]

theorem bfx (g : Guard) (ty : BfxTy) (rd : Reg) (ra : Reg) (pos : BitVec 6) (len : BitVec 7) : Statement (.bfx g ty rd
    ra pos len) := by
  intro hw e he
  have hg : g.wf = true := hw
  obtain rfl := Option.some.inj he
  refine statement_of 0 0x23 0 _ _ (by decide) (by decide) (by decide) hg (by decide) (by decide) rfl fun w hb => ?_
  rw [body_int (by decide) (by decide)]
  simp only [decodeInt, intBinOf, zeros, regAt, predAt, handleAt, flagAt, accept, acceptWith, hb, hdr,
      List.cons_append, List.nil_append, ext, Nat.reduceLeDiff, Nat.reduceSub, Nat.reduceAdd, ↓reduceIte]
  simp [ofNat_bits, bits_toNat, bits_zero_left, bits_bit1, bit1_beq, bit1_beq_zero, bits_lit, bits_past,
      bits_bit1_past, bits_join0, bits_join1, BfxTy.bits_code, BfxTy.of_code, bits_pack, ext]

theorem bfi (g : Guard) (rd : Reg) (ra : Reg) (pos : BitVec 6) (len : BitVec 7) : Statement (.bfi g rd ra pos len) := by
  intro hw e he
  have hg : g.wf = true := hw
  obtain rfl := Option.some.inj he
  refine statement_of 0 0x24 0 _ _ (by decide) (by decide) (by decide) hg (by decide) (by decide) rfl fun w hb => ?_
  rw [body_int (by decide) (by decide)]
  simp only [decodeInt, intBinOf, zeros, regAt, predAt, handleAt, flagAt, accept, acceptWith, hb, hdr,
      List.cons_append, List.nil_append, ext, Nat.reduceLeDiff, Nat.reduceSub, Nat.reduceAdd, ↓reduceIte]
  simp [ofNat_bits, bits_toNat, bits_zero_left, bits_bit1, bit1_beq, bit1_beq_zero, bits_lit, bits_past,
      bits_bit1_past, bits_join0, bits_join1, bits_pack, ext]

theorem sext (g : Guard) (ty : ExtTy) (rd : Reg) (ra : Reg) : Statement (.sext g ty rd ra) := by
  intro hw e he
  have hg : g.wf = true := hw
  obtain rfl := Option.some.inj he
  refine statement_of 0 0x25 0 _ _ (by decide) (by decide) (by decide) hg (by decide) (by decide) rfl fun w hb => ?_
  rw [body_int (by decide) (by decide)]
  simp only [decodeInt, intBinOf, zeros, regAt, predAt, handleAt, flagAt, accept, acceptWith, hb, hdr,
      List.cons_append, List.nil_append, ext, Nat.reduceLeDiff, Nat.reduceSub, Nat.reduceAdd, ↓reduceIte]
  simp [ofNat_bits, bits_toNat, bits_zero_left, bits_bit1, bit1_beq, bit1_beq_zero, bits_lit, bits_past,
      bits_bit1_past, bits_join0, bits_join1, ExtTy.bits_code, ExtTy.of_code]

theorem zext (g : Guard) (ty : ExtTy) (rd : Reg) (ra : Reg) : Statement (.zext g ty rd ra) := by
  intro hw e he
  have hg : g.wf = true := hw
  obtain rfl := Option.some.inj he
  refine statement_of 0 0x26 0 _ _ (by decide) (by decide) (by decide) hg (by decide) (by decide) rfl fun w hb => ?_
  rw [body_int (by decide) (by decide)]
  simp only [decodeInt, intBinOf, zeros, regAt, predAt, handleAt, flagAt, accept, acceptWith, hb, hdr,
      List.cons_append, List.nil_append, ext, Nat.reduceLeDiff, Nat.reduceSub, Nat.reduceAdd, ↓reduceIte]
  simp [ofNat_bits, bits_toNat, bits_zero_left, bits_bit1, bit1_beq, bit1_beq_zero, bits_lit, bits_past,
      bits_bit1_past, bits_join0, bits_join1, ExtTy.bits_code, ExtTy.of_code]

theorem mov (g : Guard) (rd : Reg) (ra : Reg) : Statement (.mov g rd ra) := by
  intro hw e he
  have hg : g.wf = true := hw
  obtain rfl := Option.some.inj he
  refine statement_of 0 0x27 0 _ _ (by decide) (by decide) (by decide) hg (by decide) (by decide) rfl fun w hb => ?_
  rw [body_int (by decide) (by decide)]
  simp only [decodeInt, intBinOf, zeros, regAt, predAt, handleAt, flagAt, accept, acceptWith, hb, hdr,
      List.cons_append, List.nil_append, ext, Nat.reduceLeDiff, Nat.reduceSub, Nat.reduceAdd, ↓reduceIte]
  simp [ofNat_bits, bits_toNat, bits_zero_left, bits_bit1, bit1_beq, bit1_beq_zero, bits_lit, bits_past,
      bits_bit1_past, bits_join0, bits_join1]

theorem movi (g : Guard) (rd : Reg) (i : Imm) : Statement (.movi g rd i) := by
  intro hw e he
  have hg : g.wf = true := hw
  rcases i with v | v | v
  all_goals obtain rfl := Option.some.inj he
  on_goal 1 => refine statement_of 0 0x28 0 _ _ (by decide) (by decide) (by decide) hg (by decide) (by decide) rfl fun
      w hb => ?_
  on_goal 2 => refine statement_of 1 0x28 0 _ _ (by decide) (by decide) (by decide) hg (by decide) (by decide) rfl fun
      w hb => ?_
  on_goal 3 => refine statement_of 2 0x28 0 _ _ (by decide) (by decide) (by decide) hg (by decide) (by decide) rfl fun
      w hb => ?_
  all_goals rw [body_int (by decide) (by decide)]
  all_goals simp only [decodeInt, intBinOf, immAt, zeros, regAt, predAt, handleAt, flagAt, accept, acceptWith, hb, hdr,
      List.cons_append, List.nil_append, ext, Nat.reduceLeDiff, Nat.reduceSub, Nat.reduceAdd, ↓reduceIte]
  all_goals simp [ofNat_bits, bits_toNat, bits_zero_left, bits_bit1, bit1_beq, bit1_beq_zero, bits_lit, bits_past,
      bits_bit1_past, bits_join0, bits_join1]

theorem cmp (g : Guard) (c : ICond) (ty : ITy) (pd : Pred) (ra : Reg) (b : Src) : Statement (.cmp g c ty pd ra b) := by
  intro hw e he
  have hg : g.wf = true := hw
  rcases b with rb | v | v | v
  all_goals obtain rfl := Option.some.inj he
  on_goal 1 => refine statement_of 0 0x29 0 _ _ (by decide) (by decide) (by decide) hg (by decide) (by decide) rfl fun
      w hb => ?_
  on_goal 2 => refine statement_of 0 0x29 0 _ _ (by decide) (by decide) (by decide) hg (by decide) (by decide) rfl fun
      w hb => ?_
  on_goal 3 => refine statement_of 1 0x29 0 _ _ (by decide) (by decide) (by decide) hg (by decide) (by decide) rfl fun
      w hb => ?_
  on_goal 4 => refine statement_of 2 0x29 0 _ _ (by decide) (by decide) (by decide) hg (by decide) (by decide) rfl fun
      w hb => ?_
  all_goals rw [body_int (by decide) (by decide)]
  all_goals simp only [decodeInt, intBinOf, srcAt, immAt, zeros, regAt, predAt, handleAt, flagAt, accept, acceptWith,
      hb, hdr, List.cons_append, List.nil_append, ext, Nat.reduceLeDiff, Nat.reduceSub, Nat.reduceAdd, ↓reduceIte]
  all_goals simp [ofNat_bits, bits_toNat, bits_zero_left, bits_bit1, bit1_beq, bit1_beq_zero, bits_lit, bits_past,
      bits_bit1_past, bits_join0, bits_join1, ICond.bits_code, ICond.of_code, ITy.bits_code, ITy.of_code]

theorem sel (g : Guard) (rd : Reg) (pn : Pred) (ra : Reg) (rb : Reg) : Statement (.sel g rd pn ra rb) := by
  intro hw e he
  have hg : g.wf = true := hw
  obtain rfl := Option.some.inj he
  refine statement_of 0 0x2a 0 _ _ (by decide) (by decide) (by decide) hg (by decide) (by decide) rfl fun w hb => ?_
  rw [body_int (by decide) (by decide)]
  simp only [decodeInt, intBinOf, zeros, regAt, predAt, handleAt, flagAt, accept, acceptWith, hb, hdr,
      List.cons_append, List.nil_append, ext, Nat.reduceLeDiff, Nat.reduceSub, Nat.reduceAdd, ↓reduceIte]
  simp [ofNat_bits, bits_toNat, bits_zero_left, bits_bit1, bit1_beq, bit1_beq_zero, bits_lit, bits_past,
      bits_bit1_past, bits_join0, bits_join1]

theorem lea (g : Guard) (rd : Reg) (a : Addr) : Statement (.lea g rd a) := by
  intro hw
  obtain ⟨hg, ha⟩ := Bool.and_eq_true_iff.mp hw
  refine memStmt rfl hg ha ⟨rfl, by decide⟩ ⟨rfl, rfl⟩ (fun l w h1 h2 h3 h4 h5 h6 h7 h8 h9 h10 h11 h12 => ?_) hw
  rw [body_int (by decide) (by decide)]
  simp [decodeInt, intBinOf, zeros, regAt, predAt, accept, acceptWith, h1, h2, h3, h4, h5, h6, h7, h8, h9, h10, h11,
      h12, ofNat_bits, bits_toNat, bits_zero_left]

theorem vqual (g : Guard) (rd : Reg) (ra : Reg) (die : Bool) : Statement (.vqual g rd ra die) := by
  intro hw e he
  have hg : g.wf = true := hw
  obtain rfl := Option.some.inj he
  refine statement_of 0 0x2c 0 _ _ (by decide) (by decide) (by decide) hg (by decide) (by decide) rfl fun w hb => ?_
  rw [body_int (by decide) (by decide)]
  simp only [decodeInt, intBinOf, zeros, regAt, predAt, handleAt, flagAt, accept, acceptWith, hb, hdr,
      List.cons_append, List.nil_append, ext, Nat.reduceLeDiff, Nat.reduceSub, Nat.reduceAdd, ↓reduceIte]
  simp [ofNat_bits, bits_toNat, bits_zero_left, bits_bit1, bit1_beq, bit1_beq_zero, bits_lit, bits_past,
      bits_bit1_past, bits_join0, bits_join1]

theorem vset (g : Guard) (rd : Reg) (ra : Reg) (v : VwSrc) : Statement (.vset g rd ra v) := by
  intro hw e he
  have x1 : ∀ v : BitVec 8, bits (v.toNat + 256) 8 1 = 1 := by
    intro v
    have hv := v.isLt
    simp only [bits]
    omega
  have x2 : ∀ v : BitVec 8, bits (v.toNat + 256) 9 11 = 0 := by
    intro v
    have hv := v.isLt
    simp only [bits]
    omega
  have x3 : ∀ v : BitVec 8, bits (v.toNat + 256) 0 8 = v.toNat := by
    intro v
    have hv := v.isLt
    simp only [bits]
    omega
  have hg : g.wf = true := hw
  rcases v with r | v
  all_goals obtain rfl := Option.some.inj he
  on_goal 1 => refine statement_of 0 0x2d 0 _ _ (by decide) (by decide) (by decide) hg (by decide) (by decide) rfl fun
      w hb => ?_
  on_goal 2 => refine statement_of 0 0x2d 0 _ _ (by decide) (by decide) (by decide) hg (by decide) (by decide) rfl fun
      w hb => ?_
  all_goals rw [body_int (by decide) (by decide)]
  all_goals simp only [decodeInt, intBinOf, zeros, regAt, predAt, handleAt, flagAt, accept, acceptWith, hb, hdr,
      List.cons_append, List.nil_append, ext, Nat.reduceLeDiff, Nat.reduceSub, Nat.reduceAdd, ↓reduceIte]
  all_goals simp [ofNat_bits, bits_toNat, bits_zero_left, bits_bit1, bit1_beq, bit1_beq_zero, bits_lit, bits_past,
      bits_bit1_past, bits_join0, bits_join1, x1, x2, x3]

theorem vget (g : Guard) (rd : Reg) (ra : Reg) : Statement (.vget g rd ra) := by
  intro hw e he
  have hg : g.wf = true := hw
  obtain rfl := Option.some.inj he
  refine statement_of 0 0x2e 0 _ _ (by decide) (by decide) (by decide) hg (by decide) (by decide) rfl fun w hb => ?_
  rw [body_int (by decide) (by decide)]
  simp only [decodeInt, intBinOf, zeros, regAt, predAt, handleAt, flagAt, accept, acceptWith, hb, hdr,
      List.cons_append, List.nil_append, ext, Nat.reduceLeDiff, Nat.reduceSub, Nat.reduceAdd, ↓reduceIte]
  simp [ofNat_bits, bits_toNat, bits_zero_left, bits_bit1, bit1_beq, bit1_beq_zero, bits_lit, bits_past,
      bits_bit1_past, bits_join0, bits_join1]

theorem vclr (g : Guard) (rd : Reg) (ra : Reg) : Statement (.vclr g rd ra) := by
  intro hw e he
  have hg : g.wf = true := hw
  obtain rfl := Option.some.inj he
  refine statement_of 0 0x2f 0 _ _ (by decide) (by decide) (by decide) hg (by decide) (by decide) rfl fun w hb => ?_
  rw [body_int (by decide) (by decide)]
  simp only [decodeInt, intBinOf, zeros, regAt, predAt, handleAt, flagAt, accept, acceptWith, hb, hdr,
      List.cons_append, List.nil_append, ext, Nat.reduceLeDiff, Nat.reduceSub, Nat.reduceAdd, ↓reduceIte]
  simp [ofNat_bits, bits_toNat, bits_zero_left, bits_bit1, bit1_beq, bit1_beq_zero, bits_lit, bits_past,
      bits_bit1_past, bits_join0, bits_join1]

theorem fadd (g : Guard) (o : FltBin) : Statement (.fadd g o) := by
  intro hw e he
  have hg : g.wf = true := hw
  obtain ⟨ty, rd, ra, rb⟩ := o
  obtain rfl := Option.some.inj he
  refine statement_of 0 0x30 0 _ _ (by decide) (by decide) (by decide) hg (by decide) (by decide) rfl fun w hb => ?_
  rw [body_flt (by decide) (by decide)]
  simp only [decodeFlt, decodeFltBin, zeros, regAt, predAt, handleAt, flagAt, accept, acceptWith, hb, hdr,
      List.cons_append, List.nil_append, ext, Nat.reduceLeDiff, Nat.reduceSub, Nat.reduceAdd, ↓reduceIte]
  simp [ofNat_bits, bits_toNat, bits_zero_left, bits_bit1, bit1_beq, bit1_beq_zero, bits_lit, bits_past,
      bits_bit1_past, bits_join0, bits_join1, Fmt.bits_code, Fmt.of_code]

theorem fsub (g : Guard) (o : FltBin) : Statement (.fsub g o) := by
  intro hw e he
  have hg : g.wf = true := hw
  obtain ⟨ty, rd, ra, rb⟩ := o
  obtain rfl := Option.some.inj he
  refine statement_of 0 0x31 0 _ _ (by decide) (by decide) (by decide) hg (by decide) (by decide) rfl fun w hb => ?_
  rw [body_flt (by decide) (by decide)]
  simp only [decodeFlt, decodeFltBin, zeros, regAt, predAt, handleAt, flagAt, accept, acceptWith, hb, hdr,
      List.cons_append, List.nil_append, ext, Nat.reduceLeDiff, Nat.reduceSub, Nat.reduceAdd, ↓reduceIte]
  simp [ofNat_bits, bits_toNat, bits_zero_left, bits_bit1, bit1_beq, bit1_beq_zero, bits_lit, bits_past,
      bits_bit1_past, bits_join0, bits_join1, Fmt.bits_code, Fmt.of_code]

theorem fmul (g : Guard) (o : FltBin) : Statement (.fmul g o) := by
  intro hw e he
  have hg : g.wf = true := hw
  obtain ⟨ty, rd, ra, rb⟩ := o
  obtain rfl := Option.some.inj he
  refine statement_of 0 0x32 0 _ _ (by decide) (by decide) (by decide) hg (by decide) (by decide) rfl fun w hb => ?_
  rw [body_flt (by decide) (by decide)]
  simp only [decodeFlt, decodeFltBin, zeros, regAt, predAt, handleAt, flagAt, accept, acceptWith, hb, hdr,
      List.cons_append, List.nil_append, ext, Nat.reduceLeDiff, Nat.reduceSub, Nat.reduceAdd, ↓reduceIte]
  simp [ofNat_bits, bits_toNat, bits_zero_left, bits_bit1, bit1_beq, bit1_beq_zero, bits_lit, bits_past,
      bits_bit1_past, bits_join0, bits_join1, Fmt.bits_code, Fmt.of_code]

theorem fma (g : Guard) (ty : Fmt) (rd : Reg) (ra : Reg) (rb : Reg) (rc : Reg) : Statement (.fma g ty rd ra rb rc) := by
  intro hw e he
  have hg : g.wf = true := hw
  obtain rfl := Option.some.inj he
  refine statement_of 0 0x33 0 _ _ (by decide) (by decide) (by decide) hg (by decide) (by decide) rfl fun w hb => ?_
  rw [body_flt (by decide) (by decide)]
  simp only [decodeFlt, decodeFltBin, zeros, regAt, predAt, handleAt, flagAt, accept, acceptWith, hb, hdr,
      List.cons_append, List.nil_append, ext, Nat.reduceLeDiff, Nat.reduceSub, Nat.reduceAdd, ↓reduceIte]
  simp [ofNat_bits, bits_toNat, bits_zero_left, bits_bit1, bit1_beq, bit1_beq_zero, bits_lit, bits_past,
      bits_bit1_past, bits_join0, bits_join1, Fmt.bits_code, Fmt.of_code]

theorem fdiv (g : Guard) (o : FltBin) : Statement (.fdiv g o) := by
  intro hw e he
  have hg : g.wf = true := hw
  obtain ⟨ty, rd, ra, rb⟩ := o
  obtain rfl := Option.some.inj he
  refine statement_of 0 0x34 0 _ _ (by decide) (by decide) (by decide) hg (by decide) (by decide) rfl fun w hb => ?_
  rw [body_flt (by decide) (by decide)]
  simp only [decodeFlt, decodeFltBin, zeros, regAt, predAt, handleAt, flagAt, accept, acceptWith, hb, hdr,
      List.cons_append, List.nil_append, ext, Nat.reduceLeDiff, Nat.reduceSub, Nat.reduceAdd, ↓reduceIte]
  simp [ofNat_bits, bits_toNat, bits_zero_left, bits_bit1, bit1_beq, bit1_beq_zero, bits_lit, bits_past,
      bits_bit1_past, bits_join0, bits_join1, Fmt.bits_code, Fmt.of_code]

theorem fsqrt (g : Guard) (ty : Fmt) (rd : Reg) (ra : Reg) : Statement (.fsqrt g ty rd ra) := by
  intro hw e he
  have hg : g.wf = true := hw
  obtain rfl := Option.some.inj he
  refine statement_of 0 0x35 0 _ _ (by decide) (by decide) (by decide) hg (by decide) (by decide) rfl fun w hb => ?_
  rw [body_flt (by decide) (by decide)]
  simp only [decodeFlt, decodeFltBin, zeros, regAt, predAt, handleAt, flagAt, accept, acceptWith, hb, hdr,
      List.cons_append, List.nil_append, ext, Nat.reduceLeDiff, Nat.reduceSub, Nat.reduceAdd, ↓reduceIte]
  simp [ofNat_bits, bits_toNat, bits_zero_left, bits_bit1, bit1_beq, bit1_beq_zero, bits_lit, bits_past,
      bits_bit1_past, bits_join0, bits_join1, Fmt.bits_code, Fmt.of_code]

theorem fmin (g : Guard) (o : FltBin) : Statement (.fmin g o) := by
  intro hw e he
  have hg : g.wf = true := hw
  obtain ⟨ty, rd, ra, rb⟩ := o
  obtain rfl := Option.some.inj he
  refine statement_of 0 0x36 0 _ _ (by decide) (by decide) (by decide) hg (by decide) (by decide) rfl fun w hb => ?_
  rw [body_flt (by decide) (by decide)]
  simp only [decodeFlt, decodeFltBin, zeros, regAt, predAt, handleAt, flagAt, accept, acceptWith, hb, hdr,
      List.cons_append, List.nil_append, ext, Nat.reduceLeDiff, Nat.reduceSub, Nat.reduceAdd, ↓reduceIte]
  simp [ofNat_bits, bits_toNat, bits_zero_left, bits_bit1, bit1_beq, bit1_beq_zero, bits_lit, bits_past,
      bits_bit1_past, bits_join0, bits_join1, Fmt.bits_code, Fmt.of_code]

theorem fmax (g : Guard) (o : FltBin) : Statement (.fmax g o) := by
  intro hw e he
  have hg : g.wf = true := hw
  obtain ⟨ty, rd, ra, rb⟩ := o
  obtain rfl := Option.some.inj he
  refine statement_of 0 0x37 0 _ _ (by decide) (by decide) (by decide) hg (by decide) (by decide) rfl fun w hb => ?_
  rw [body_flt (by decide) (by decide)]
  simp only [decodeFlt, decodeFltBin, zeros, regAt, predAt, handleAt, flagAt, accept, acceptWith, hb, hdr,
      List.cons_append, List.nil_append, ext, Nat.reduceLeDiff, Nat.reduceSub, Nat.reduceAdd, ↓reduceIte]
  simp [ofNat_bits, bits_toNat, bits_zero_left, bits_bit1, bit1_beq, bit1_beq_zero, bits_lit, bits_past,
      bits_bit1_past, bits_join0, bits_join1, Fmt.bits_code, Fmt.of_code]

theorem fcmp (g : Guard) (c : FCond) (ty : Fmt) (pd : Pred) (ra : Reg) (rb : Reg) : Statement (.fcmp g c ty pd ra rb)
    := by
  intro hw e he
  have hg : g.wf = true := hw
  obtain rfl := Option.some.inj he
  refine statement_of 0 0x38 0 _ _ (by decide) (by decide) (by decide) hg (by decide) (by decide) rfl fun w hb => ?_
  rw [body_flt (by decide) (by decide)]
  simp only [decodeFlt, decodeFltBin, zeros, regAt, predAt, handleAt, flagAt, accept, acceptWith, hb, hdr,
      List.cons_append, List.nil_append, ext, Nat.reduceLeDiff, Nat.reduceSub, Nat.reduceAdd, ↓reduceIte]
  simp [ofNat_bits, bits_toNat, bits_zero_left, bits_bit1, bit1_beq, bit1_beq_zero, bits_lit, bits_past,
      bits_bit1_past, bits_join0, bits_join1, FCond.bits_code, FCond.of_code, Fmt.bits_code, Fmt.of_code]

theorem fcvt (g : Guard) (dst : Fmt) (src : Fmt) (sf : Bool) (rd : Reg) (ra : Reg) : Statement (.fcvt g dst src sf rd
    ra) := by
  intro hw e he
  have hg : g.wf = true := hw
  obtain rfl := Option.some.inj he
  refine statement_of 0 0x39 0 _ _ (by decide) (by decide) (by decide) hg (by decide) (by decide) rfl fun w hb => ?_
  rw [body_flt (by decide) (by decide)]
  simp only [decodeFlt, decodeFltBin, zeros, regAt, predAt, handleAt, flagAt, accept, acceptWith, hb, hdr,
      List.cons_append, List.nil_append, ext, Nat.reduceLeDiff, Nat.reduceSub, Nat.reduceAdd, ↓reduceIte]
  simp [ofNat_bits, bits_toNat, bits_zero_left, bits_bit1, bit1_beq, bit1_beq_zero, bits_lit, bits_past,
      bits_bit1_past, bits_join0, bits_join1, Fmt.bits_code, Fmt.of_code, show bits src.code 5 15 = 0 from by cases src
      <;> rfl]

theorem fclass (g : Guard) (ty : Fmt) (rd : Reg) (ra : Reg) : Statement (.fclass g ty rd ra) := by
  intro hw e he
  have hg : g.wf = true := hw
  obtain rfl := Option.some.inj he
  refine statement_of 0 0x3a 0 _ _ (by decide) (by decide) (by decide) hg (by decide) (by decide) rfl fun w hb => ?_
  rw [body_flt (by decide) (by decide)]
  simp only [decodeFlt, decodeFltBin, zeros, regAt, predAt, handleAt, flagAt, accept, acceptWith, hb, hdr,
      List.cons_append, List.nil_append, ext, Nat.reduceLeDiff, Nat.reduceSub, Nat.reduceAdd, ↓reduceIte]
  simp [ofNat_bits, bits_toNat, bits_zero_left, bits_bit1, bit1_beq, bit1_beq_zero, bits_lit, bits_past,
      bits_bit1_past, bits_join0, bits_join1, Fmt.bits_code, Fmt.of_code]

theorem ld (g : Guard) (sz : Sz) (po : Pol) (rd : Reg) (a : Addr) : Statement (.ld g sz po rd a) := by
  intro hw
  obtain ⟨hg, ha⟩ := Bool.and_eq_true_iff.mp hw
  refine memStmt rfl hg ha ⟨rfl, by decide⟩ ⟨rfl, rfl⟩ (fun l w h1 h2 h3 h4 h5 h6 h7 h8 h9 h10 h11 h12 => ?_) hw
  rw [body_mem (by decide) (by decide)]
  simp [decodeMem, zeros, regAt, predAt, accept, acceptWith, h1, h2, h3, h4, h5, h6, h7, h8, h9, h10, h11, h12,
      ofNat_bits, bits_toNat, bits_zero_left, Sz.bits_code, Sz.of_code, Pol.bits_code, Pol.of_code]

theorem ldx (g : Guard) (sz : Sz) (po : Pol) (rd : Reg) (a : Addr) : Statement (.ldx g sz po rd a) := by
  intro hw
  obtain ⟨hg, ha⟩ := Bool.and_eq_true_iff.mp hw
  refine memStmt rfl hg ha ⟨rfl, by decide⟩ ⟨rfl, rfl⟩ (fun l w h1 h2 h3 h4 h5 h6 h7 h8 h9 h10 h11 h12 => ?_) hw
  rw [body_mem (by decide) (by decide)]
  simp [decodeMem, zeros, regAt, predAt, accept, acceptWith, h1, h2, h3, h4, h5, h6, h7, h8, h9, h10, h11, h12,
      ofNat_bits, bits_toNat, bits_zero_left, Sz.bits_code, Sz.of_code, Pol.bits_code, Pol.of_code]

theorem st (g : Guard) (sz : Sz) (po : Pol) (rd : Reg) (a : Addr) : Statement (.st g sz po rd a) := by
  intro hw
  obtain ⟨hg, ha⟩ := Bool.and_eq_true_iff.mp hw
  refine memStmt rfl hg ha ⟨rfl, by decide⟩ ⟨rfl, rfl⟩ (fun l w h1 h2 h3 h4 h5 h6 h7 h8 h9 h10 h11 h12 => ?_) hw
  rw [body_mem (by decide) (by decide)]
  simp [decodeMem, zeros, regAt, predAt, accept, acceptWith, h1, h2, h3, h4, h5, h6, h7, h8, h9, h10, h11, h12,
      ofNat_bits, bits_toNat, bits_zero_left, Sz.bits_code, Sz.of_code, Pol.bits_code, Pol.of_code]

theorem ldp (g : Guard) (po : Pol) (rd : Reg) (a : Addr) : Statement (.ldp g po rd a) := by
  intro hw
  obtain ⟨hg, ha⟩ := Bool.and_eq_true_iff.mp hw
  refine memStmt rfl hg ha ⟨rfl, by decide⟩ ⟨rfl, rfl⟩ (fun l w h1 h2 h3 h4 h5 h6 h7 h8 h9 h10 h11 h12 => ?_) hw
  rw [body_mem (by decide) (by decide)]
  simp [decodeMem, zeros, regAt, predAt, accept, acceptWith, h1, h2, h3, h4, h5, h6, h7, h8, h9, h10, h11, h12,
      ofNat_bits, bits_toNat, bits_zero_left, Pol.bits_code, Pol.of_code]

theorem stp (g : Guard) (po : Pol) (rd : Reg) (a : Addr) : Statement (.stp g po rd a) := by
  intro hw
  obtain ⟨hg, ha⟩ := Bool.and_eq_true_iff.mp hw
  refine memStmt rfl hg ha ⟨rfl, by decide⟩ ⟨rfl, rfl⟩ (fun l w h1 h2 h3 h4 h5 h6 h7 h8 h9 h10 h11 h12 => ?_) hw
  rw [body_mem (by decide) (by decide)]
  simp [decodeMem, zeros, regAt, predAt, accept, acceptWith, h1, h2, h3, h4, h5, h6, h7, h8, h9, h10, h11, h12,
      ofNat_bits, bits_toNat, bits_zero_left, Pol.bits_code, Pol.of_code]

theorem pref (g : Guard) (po : Pol) (a : Addr) : Statement (.pref g po a) := by
  intro hw
  obtain ⟨hg, ha⟩ := Bool.and_eq_true_iff.mp hw
  refine memStmt rfl hg ha ⟨rfl, by decide⟩ ⟨rfl, rfl⟩ (fun l w h1 h2 h3 h4 h5 h6 h7 h8 h9 h10 h11 h12 => ?_) hw
  rw [body_mem (by decide) (by decide)]
  simp [decodeMem, zeros, regAt, predAt, accept, acceptWith, h1, h2, h3, h4, h5, h6, h7, h8, h9, h10, h11, h12,
      ofNat_bits, bits_toNat, bits_zero_left, Pol.bits_code, Pol.of_code]

theorem waitline (g : Guard) (sz : Sz) (po : Pol) (rd : Reg) (pd : Pred) (rc : Reg) (a : Addr) : Statement (.waitline g
    sz po rd pd rc a) := by
  intro hw
  obtain ⟨hg, ha⟩ := Bool.and_eq_true_iff.mp hw
  refine memStmt rfl hg ha ⟨rfl, by decide⟩ ⟨rfl, rfl⟩ (fun l w h1 h2 h3 h4 h5 h6 h7 h8 h9 h10 h11 h12 => ?_) hw
  rw [body_mem (by decide) (by decide)]
  simp [decodeMem, zeros, regAt, predAt, accept, acceptWith, h1, h2, h3, h4, h5, h6, h7, h8, h9, h10, h11, h12,
      ofNat_bits, bits_toNat, bits_zero_left, Sz.bits_code, Sz.of_code, Pol.bits_code, Pol.of_code]

theorem atom (g : Guard) (op : AtomOp) (sz : Sz) (sc : Scope) (po : Pol) (rd : Reg) (rc : Reg) (a : Addr) : Statement
    (.atom g op sz sc po rd rc a) := by
  intro hw
  obtain ⟨hx, hc⟩ := Bool.and_eq_true_iff.mp hw
  obtain ⟨hg, ha⟩ := Bool.and_eq_true_iff.mp hx
  refine memStmt rfl hg ha ⟨rfl, by decide⟩ ⟨by cases op <;> rfl, by cases op <;> rfl⟩ (fun l w h1 h2 h3 h4 h5 h6 h7 h8
      h9 h10 h11 h12 => ?_) hw
  rw [body_mem (by decide) (by decide)]
  simp [decodeMem, zeros, regAt, predAt, accept, acceptWith, h1, h2, h3, h4, h5, h6, h7, h8, h9, h10, h11, h12,
      ofNat_bits, bits_toNat, bits_zero_left, AtomOp.of_code, Sz.bits_code, Sz.of_code, Scope.bits_code, Scope.of_code,
      Pol.bits_code, Pol.of_code, hc]

theorem cas (g : Guard) (sz : Sz) (sc : Scope) (po : Pol) (rd : Reg) (pd : Pred) (rc : Reg) (rb : Reg) (a : Addr) :
    Statement (.cas g sz sc po rd pd rc rb a) := by
  intro hw
  obtain ⟨hx, hc⟩ := Bool.and_eq_true_iff.mp hw
  obtain ⟨hg, ha⟩ := Bool.and_eq_true_iff.mp hx
  refine memStmt rfl hg ha ⟨rfl, by decide⟩ ⟨rfl, rfl⟩ (fun l w h1 h2 h3 h4 h5 h6 h7 h8 h9 h10 h11 h12 => ?_) hw
  rw [body_mem (by decide) (by decide)]
  have h4 := h4 hc
  simp [decodeMem, zeros, regAt, predAt, accept, acceptWith, h1, h2, h3, h4, h5, h6, h7, h8, h9, h10, h11, h12,
      ofNat_bits, bits_toNat, bits_zero_left, Sz.bits_code, Sz.of_code, Scope.bits_code, Scope.of_code, Pol.bits_code,
      Pol.of_code, hc]

theorem cas2 (g : Guard) (sc : Scope) (po : Pol) (rd : Reg) (pd : Pred) (rc : Reg) (rb : Reg) (a : Addr) : Statement
    (.cas2 g sc po rd pd rc rb a) := by
  intro hw
  obtain ⟨hx, hc⟩ := Bool.and_eq_true_iff.mp hw
  obtain ⟨hg, ha⟩ := Bool.and_eq_true_iff.mp hx
  refine memStmt rfl hg ha ⟨rfl, by decide⟩ ⟨rfl, rfl⟩ (fun l w h1 h2 h3 h4 h5 h6 h7 h8 h9 h10 h11 h12 => ?_) hw
  rw [body_mem (by decide) (by decide)]
  have h4 := h4 hc
  simp [decodeMem, zeros, regAt, predAt, accept, acceptWith, h1, h2, h3, h4, h5, h6, h7, h8, h9, h10, h11, h12,
      ofNat_bits, bits_toNat, bits_zero_left, Scope.bits_code, Scope.of_code, Pol.bits_code, Pol.of_code, hc]

theorem red (g : Guard) (op : AtomOp) (sz : Sz) (sc : Scope) (po : Pol) (rc : Reg) (a : Addr) : Statement (.red g op sz
    sc po rc a) := by
  intro hw
  obtain ⟨hy, hd⟩ := Bool.and_eq_true_iff.mp hw
  obtain ⟨hx, hc⟩ := Bool.and_eq_true_iff.mp hy
  obtain ⟨hg, ha⟩ := Bool.and_eq_true_iff.mp hx
  refine memStmt rfl hg ha ⟨rfl, by decide⟩ ⟨by cases op <;> rfl, by cases op <;> first | rfl | exact absurd hd (by
      decide)⟩ (fun l w h1 h2 h3 h4 h5 h6 h7 h8 h9 h10 h11 h12 => ?_) hw
  rw [body_mem (by decide) (by decide)]
  simp [decodeMem, zeros, regAt, predAt, accept, acceptWith, h1, h2, h3, h4, h5, h6, h7, h8, h9, h10, h11, h12,
      ofNat_bits, bits_toNat, bits_zero_left, AtomOp.of_code, Sz.bits_code, Sz.of_code, Scope.bits_code, Scope.of_code,
      Pol.bits_code, Pol.of_code, hc]

theorem lease (g : Guard) (pd : Pred) (n : BitVec 4) (a : Addr) : Statement (.lease g pd n a) := by
  intro hw
  obtain ⟨hg, ha⟩ := Bool.and_eq_true_iff.mp hw
  refine memStmt rfl hg ha ⟨rfl, by decide⟩ ⟨rfl, rfl⟩ (fun l w h1 h2 h3 h4 h5 h6 h7 h8 h9 h10 h11 h12 => ?_) hw
  rw [body_mem (by decide) (by decide)]
  simp [decodeMem, zeros, regAt, predAt, accept, acceptWith, h1, h2, h3, h4, h5, h6, h7, h8, h9, h10, h11, h12,
      ofNat_bits, bits_toNat, bits_zero_left]

theorem lend (g : Guard) (pd : Pred) : Statement (.lend g pd) := by
  intro hw e he
  have hg : g.wf = true := hw
  obtain rfl := Option.some.inj he
  refine statement_of 0 0x4c 0 _ _ (by decide) (by decide) (by decide) hg (by decide) (by decide) rfl fun w hb => ?_
  rw [body_mem (by decide) (by decide)]
  simp only [decodeMem, addrAt, rbFree, zeros, regAt, predAt, handleAt, flagAt, accept, acceptWith, hb, hdr,
      List.cons_append, List.nil_append, ext, Nat.reduceLeDiff, Nat.reduceSub, Nat.reduceAdd, ↓reduceIte]
  simp [ofNat_bits, bits_toNat, bits_zero_left, bits_bit1, bit1_beq, bit1_beq_zero, bits_lit, bits_past,
      bits_bit1_past, bits_join0, bits_join1]

theorem fence (g : Guard) (sc : Scope) : Statement (.fence g sc) := by
  intro hw e he
  have hg : g.wf = true := hw
  obtain rfl := Option.some.inj he
  refine statement_of 0 0x4d 0 _ _ (by decide) (by decide) (by decide) hg (by decide) (by decide) rfl fun w hb => ?_
  rw [body_mem (by decide) (by decide)]
  simp only [decodeMem, addrAt, rbFree, zeros, regAt, predAt, handleAt, flagAt, accept, acceptWith, hb, hdr,
      List.cons_append, List.nil_append, ext, Nat.reduceLeDiff, Nat.reduceSub, Nat.reduceAdd, ↓reduceIte]
  simp [ofNat_bits, bits_toNat, bits_zero_left, bits_bit1, bit1_beq, bit1_beq_zero, bits_lit, bits_past,
      bits_bit1_past, bits_join0, bits_join1, Scope.bits_code, Scope.of_code]

theorem barArrive (g : Guard) (rd : Reg) (a : Addr) : Statement (.barArrive g rd a) := by
  intro hw
  obtain ⟨hg, ha⟩ := Bool.and_eq_true_iff.mp hw
  refine memStmt rfl hg ha ⟨rfl, by decide⟩ ⟨rfl, rfl⟩ (fun l w h1 h2 h3 h4 h5 h6 h7 h8 h9 h10 h11 h12 => ?_) hw
  rw [body_mem (by decide) (by decide)]
  simp [decodeMem, zeros, regAt, predAt, accept, acceptWith, h1, h2, h3, h4, h5, h6, h7, h8, h9, h10, h11, h12,
      ofNat_bits, bits_toNat, bits_zero_left]

theorem barWait (g : Guard) (rd : Reg) (a : Addr) : Statement (.barWait g rd a) := by
  intro hw
  obtain ⟨hg, ha⟩ := Bool.and_eq_true_iff.mp hw
  refine memStmt rfl hg ha ⟨rfl, by decide⟩ ⟨rfl, rfl⟩ (fun l w h1 h2 h3 h4 h5 h6 h7 h8 h9 h10 h11 h12 => ?_) hw
  rw [body_mem (by decide) (by decide)]
  simp [decodeMem, zeros, regAt, predAt, accept, acceptWith, h1, h2, h3, h4, h5, h6, h7, h8, h9, h10, h11, h12,
      ofNat_bits, bits_toNat, bits_zero_left]

theorem spawn (g : Guard) (rd : Reg) (n : BitVec 4) (ra : Reg) (rb : Reg) : Statement (.spawn g rd n ra rb) := by
  intro hw e he
  have hg : g.wf = true := hw
  obtain rfl := Option.some.inj he
  refine statement_of 0 0x50 0 _ _ (by decide) (by decide) (by decide) hg (by decide) (by decide) rfl fun w hb => ?_
  rw [body_sys (by decide) (by decide)]
  simp only [decodeSys, zeros, regAt, predAt, handleAt, flagAt, accept, acceptWith, hb, hdr, List.cons_append,
      List.nil_append, ext, Nat.reduceLeDiff, Nat.reduceSub, Nat.reduceAdd, ↓reduceIte]
  simp [ofNat_bits, bits_toNat, bits_zero_left, bits_bit1, bit1_beq, bit1_beq_zero, bits_lit, bits_past,
      bits_bit1_past, bits_join0, bits_join1]

theorem reap (g : Guard) (rd : Reg) (n : BitVec 4) (wait : Bool) : Statement (.reap g rd n wait) := by
  intro hw e he
  have hn := n.isLt
  have x2 : bits (n.toNat + 16 * bit1 wait) 5 15 = 0 := by cases wait <;> simp only [bits, bit1] <;> simp <;> omega
  have hg : g.wf = true := hw
  obtain rfl := Option.some.inj he
  refine statement_of 0 0x51 0 _ _ (by decide) (by decide) (by decide) hg (by decide) (by decide) rfl fun w hb => ?_
  rw [body_sys (by decide) (by decide)]
  simp only [decodeSys, zeros, regAt, predAt, handleAt, flagAt, accept, acceptWith, hb, hdr, List.cons_append,
      List.nil_append, ext, Nat.reduceLeDiff, Nat.reduceSub, Nat.reduceAdd, ↓reduceIte]
  simp [ofNat_bits, bits_toNat, bits_zero_left, bits_bit1, bit1_beq, bit1_beq_zero, bits_lit, bits_past,
      bits_bit1_past, bits_join0, bits_join1, x2]

theorem halt (g : Guard) : Statement (.halt g) := by
  intro hw e he
  have hg : g.wf = true := hw
  obtain rfl := Option.some.inj he
  refine statement_of 0 0x52 0 _ _ (by decide) (by decide) (by decide) hg (by decide) (by decide) rfl fun w hb => ?_
  rw [body_sys (by decide) (by decide)]
  simp only [decodeSys, zeros, regAt, predAt, handleAt, flagAt, accept, acceptWith, hb, hdr, List.cons_append,
      List.nil_append, ext, Nat.reduceLeDiff, Nat.reduceSub, Nat.reduceAdd, ↓reduceIte]
  simp [ofNat_bits, bits_toNat, bits_zero_left, bits_bit1, bit1_beq, bit1_beq_zero, bits_lit, bits_past,
      bits_bit1_past, bits_join0, bits_join1]

theorem wfw (g : Guard) (rd : Reg) : Statement (.wfw g rd) := by
  intro hw e he
  have hg : g.wf = true := hw
  obtain rfl := Option.some.inj he
  refine statement_of 0 0x53 0 _ _ (by decide) (by decide) (by decide) hg (by decide) (by decide) rfl fun w hb => ?_
  rw [body_sys (by decide) (by decide)]
  simp only [decodeSys, zeros, regAt, predAt, handleAt, flagAt, accept, acceptWith, hb, hdr, List.cons_append,
      List.nil_append, ext, Nat.reduceLeDiff, Nat.reduceSub, Nat.reduceAdd, ↓reduceIte]
  simp [ofNat_bits, bits_toNat, bits_zero_left, bits_bit1, bit1_beq, bit1_beq_zero, bits_lit, bits_past,
      bits_bit1_past, bits_join0, bits_join1]

theorem migr (g : Guard) (rd : Reg) (ra : Reg) (quire : BitVec 7) (named : Bool) : Statement (.migr g rd ra quire
    named) := by
  intro hw e he
  have hn := quire.isLt
  have x2 : bits (quire.toNat + 128 * bit1 named) 8 12 = 0 := by cases named <;> simp only [bits, bit1] <;> simp <;>
      omega
  have hg : g.wf = true := hw
  obtain rfl := Option.some.inj he
  refine statement_of 0 0x54 0 _ _ (by decide) (by decide) (by decide) hg (by decide) (by decide) rfl fun w hb => ?_
  rw [body_sys (by decide) (by decide)]
  simp only [decodeSys, zeros, regAt, predAt, handleAt, flagAt, accept, acceptWith, hb, hdr, List.cons_append,
      List.nil_append, ext, Nat.reduceLeDiff, Nat.reduceSub, Nat.reduceAdd, ↓reduceIte]
  simp [ofNat_bits, bits_toNat, bits_zero_left, bits_bit1, bit1_beq, bit1_beq_zero, bits_lit, bits_past,
      bits_bit1_past, bits_join0, bits_join1, x2]

theorem talloc (g : Guard) (ready : Bool) (td : Handle) (dk : Handle) (voff : BitVec 16) (len : BitVec 16) : Statement
    (.talloc g ready td dk voff len) := by
  intro hw e he
  have hg : g.wf = true := hw
  obtain rfl := Option.some.inj he
  refine statement_of 1 0x55 0 _ _ (by decide) (by decide) (by decide) hg (by decide) (by decide) rfl fun w hb => ?_
  rw [body_tile (by decide) (by decide) (by decide)]
  simp only [decodeTile, zeros, regAt, predAt, handleAt, flagAt, accept, acceptWith, hb, hdr, List.cons_append,
      List.nil_append, ext, Nat.reduceLeDiff, Nat.reduceSub, Nat.reduceAdd, ↓reduceIte]
  simp [ofNat_bits, bits_toNat, bits_zero_left, bits_bit1, bit1_beq, bit1_beq_zero, bits_lit, bits_past,
      bits_bit1_past, bits_join0, bits_join1]

theorem tallocProd (g : Guard) (td : Handle) (slot : BitVec 2) (rx : Reg) : Statement (.tallocProd g td slot rx) := by
  intro hw e he
  have hn := slot.isLt
  have x1 : bits (2 + 4 * slot.toNat) 4 5 = 0 := by
    simp only [bits]
    omega
  have x2 : bits (2 + 4 * slot.toNat) 0 2 = 2 := by
    simp only [bits]
    omega
  have x3 : bits (2 + 4 * slot.toNat) 2 2 = slot.toNat := by
    simp only [bits]
    omega
  have hg : g.wf = true := hw
  obtain rfl := Option.some.inj he
  refine statement_of 0 0x55 0 _ _ (by decide) (by decide) (by decide) hg (by decide) (by decide) rfl fun w hb => ?_
  rw [body_tile (by decide) (by decide) (by decide)]
  simp only [decodeTile, zeros, regAt, predAt, handleAt, flagAt, accept, acceptWith, hb, hdr, List.cons_append,
      List.nil_append, ext, Nat.reduceLeDiff, Nat.reduceSub, Nat.reduceAdd, ↓reduceIte]
  simp [ofNat_bits, bits_toNat, bits_zero_left, bits_bit1, bit1_beq, bit1_beq_zero, bits_lit, bits_past,
      bits_bit1_past, bits_join0, bits_join1, x1, x2, x3]

theorem tfree (g : Guard) (t : Handle) : Statement (.tfree g t) := by
  intro hw e he
  have hg : g.wf = true := hw
  obtain rfl := Option.some.inj he
  refine statement_of 0 0x56 0 _ _ (by decide) (by decide) (by decide) hg (by decide) (by decide) rfl fun w hb => ?_
  rw [body_tile (by decide) (by decide) (by decide)]
  simp only [decodeTile, zeros, regAt, predAt, handleAt, flagAt, accept, acceptWith, hb, hdr, List.cons_append,
      List.nil_append, ext, Nat.reduceLeDiff, Nat.reduceSub, Nat.reduceAdd, ↓reduceIte]
  simp [ofNat_bits, bits_toNat, bits_zero_left, bits_bit1, bit1_beq, bit1_beq_zero, bits_lit, bits_past,
      bits_bit1_past, bits_join0, bits_join1]

theorem tstate (g : Guard) (rx : Reg) (pd : Pred) (t : Handle) : Statement (.tstate g rx pd t) := by
  intro hw e he
  have hg : g.wf = true := hw
  obtain rfl := Option.some.inj he
  refine statement_of 0 0x57 0 _ _ (by decide) (by decide) (by decide) hg (by decide) (by decide) rfl fun w hb => ?_
  rw [body_tile (by decide) (by decide) (by decide)]
  simp only [decodeTile, zeros, regAt, predAt, handleAt, flagAt, accept, acceptWith, hb, hdr, List.cons_append,
      List.nil_append, ext, Nat.reduceLeDiff, Nat.reduceSub, Nat.reduceAdd, ↓reduceIte]
  simp [ofNat_bits, bits_toNat, bits_zero_left, bits_bit1, bit1_beq, bit1_beq_zero, bits_lit, bits_past,
      bits_bit1_past, bits_join0, bits_join1]

theorem twait (g : Guard) (t : Handle) (st : BitVec 3) : Statement (.twait g t st) := by
  intro hw e he
  obtain ⟨hg, h1⟩ := Bool.and_eq_true_iff.mp hw
  obtain rfl := Option.some.inj he
  refine statement_of 0 0x58 0 _ _ (by decide) (by decide) (by decide) hg (by decide) (by decide) rfl fun w hb => ?_
  rw [body_tile (by decide) (by decide) (by decide)]
  simp only [decodeTile, zeros, regAt, predAt, handleAt, flagAt, accept, acceptWith, hb, hdr, List.cons_append,
      List.nil_append, ext, Nat.reduceLeDiff, Nat.reduceSub, Nat.reduceAdd, ↓reduceIte]
  simp [ofNat_bits, bits_toNat, bits_zero_left, bits_bit1, bit1_beq, bit1_beq_zero, bits_lit, bits_past,
      bits_bit1_past, bits_join0, bits_join1, of_decide_eq_true h1]

theorem dkld (g : Guard) (dn : Handle) (ra : Reg) (disp : BitVec 32) : Statement (.dkld g dn ra disp) := by
  intro hw e he
  have hg : g.wf = true := hw
  obtain rfl := Option.some.inj he
  refine statement_of 1 0x59 0 _ _ (by decide) (by decide) (by decide) hg (by decide) (by decide) rfl fun w hb => ?_
  rw [body_dkld rfl]
  simp only [decodeCopy, zeros, regAt, predAt, handleAt, flagAt, accept, acceptWith, hb, hdr, List.cons_append,
      List.nil_append, ext, Nat.reduceLeDiff, Nat.reduceSub, Nat.reduceAdd, ↓reduceIte]
  simp [ofNat_bits, bits_toNat, bits_zero_left, bits_bit1, bit1_beq, bit1_beq_zero, bits_lit, bits_past,
      bits_bit1_past, bits_join0, bits_join1]

theorem dkset (g : Guard) (dn : Handle) (f : DkField) (src : DkSrc) : Statement (.dkset g dn f src) := by
  intro hw e he
  have hg : g.wf = true := hw
  rcases src with r | v
  all_goals obtain rfl := Option.some.inj he
  on_goal 1 => refine statement_of 0 0x5a 0 _ _ (by decide) (by decide) (by decide) hg (by decide) (by decide) rfl fun
      w hb => ?_
  on_goal 2 => refine statement_of 1 0x5a 0 _ _ (by decide) (by decide) (by decide) hg (by decide) (by decide) rfl fun
      w hb => ?_
  all_goals rw [body_tile (by decide) (by decide) (by decide)]
  all_goals simp only [decodeTile, zeros, regAt, predAt, handleAt, flagAt, accept, acceptWith, hb, hdr,
      List.cons_append, List.nil_append, ext, Nat.reduceLeDiff, Nat.reduceSub, Nat.reduceAdd, ↓reduceIte]
  all_goals simp [ofNat_bits, bits_toNat, bits_zero_left, bits_bit1, bit1_beq, bit1_beq_zero, bits_lit, bits_past,
      bits_bit1_past, bits_join0, bits_join1, DkField.bits_code, DkField.of_code, show bits f.code 5 4 = 0 from by
      cases f <;> rfl, show bits f.code 4 1 = 0 from by cases f <;> rfl, show bits (f.code + 16) 5 4 = 0 from by cases
      f <;> rfl, show bits (f.code + 16) 4 1 = 1 from by cases f <;> rfl, show bits (f.code + 16) 0 4 = f.code from by
      cases f <;> rfl]

theorem copyIn (g : Guard) (td : Handle) (dk : Handle) (ch : Handle) : Statement (.copyIn g td dk ch) := by
  intro hw e he
  have hg : g.wf = true := hw
  obtain rfl := Option.some.inj he
  refine statement_of 1 0x5b 0 _ _ (by decide) (by decide) (by decide) hg (by decide) (by decide) rfl fun w hb => ?_
  rw [body_copy (by decide) (by decide)]
  simp only [decodeCopy, zeros, regAt, predAt, handleAt, flagAt, accept, acceptWith, hb, hdr, List.cons_append,
      List.nil_append, ext, Nat.reduceLeDiff, Nat.reduceSub, Nat.reduceAdd, ↓reduceIte]
  simp [ofNat_bits, bits_toNat, bits_zero_left, bits_bit1, bit1_beq, bit1_beq_zero, bits_lit, bits_past,
      bits_bit1_past, bits_join0, bits_join1]

theorem copyOut (g : Guard) (ts : Handle) (dk : Handle) (ch : Handle) : Statement (.copyOut g ts dk ch) := by
  intro hw e he
  have hg : g.wf = true := hw
  obtain rfl := Option.some.inj he
  refine statement_of 1 0x5b 1 _ _ (by decide) (by decide) (by decide) hg (by decide) (by decide) rfl fun w hb => ?_
  rw [body_copy (by decide) (by decide)]
  simp only [decodeCopy, zeros, regAt, predAt, handleAt, flagAt, accept, acceptWith, hb, hdr, List.cons_append,
      List.nil_append, ext, Nat.reduceLeDiff, Nat.reduceSub, Nat.reduceAdd, ↓reduceIte]
  simp [ofNat_bits, bits_toNat, bits_zero_left, bits_bit1, bit1_beq, bit1_beq_zero, bits_lit, bits_past,
      bits_bit1_past, bits_join0, bits_join1]

theorem copyr (g : Guard) (ch : Handle) (ra : Reg) (quire : BitVec 7) (td : Handle) (ts : Handle) : Statement (.copyr g
    ch ra quire td ts) := by
  intro hw e he
  have hg : g.wf = true := hw
  obtain rfl := Option.some.inj he
  refine statement_of 1 0x5c 0 _ _ (by decide) (by decide) (by decide) hg (by decide) (by decide) rfl fun w hb => ?_
  rw [body_copy (by decide) (by decide)]
  simp only [decodeCopy, zeros, regAt, predAt, handleAt, flagAt, accept, acceptWith, hb, hdr, List.cons_append,
      List.nil_append, ext, Nat.reduceLeDiff, Nat.reduceSub, Nat.reduceAdd, ↓reduceIte]
  simp [ofNat_bits, bits_toNat, bits_zero_left, bits_bit1, bit1_beq, bit1_beq_zero, bits_lit, bits_past,
      bits_bit1_past, bits_join0, bits_join1]

theorem copym (g : Guard) (ts : Handle) (dk : Handle) (ch : Handle) : Statement (.copym g ts dk ch) := by
  intro hw e he
  have hg : g.wf = true := hw
  obtain rfl := Option.some.inj he
  refine statement_of 1 0x5d 0 _ _ (by decide) (by decide) (by decide) hg (by decide) (by decide) rfl fun w hb => ?_
  rw [body_copy (by decide) (by decide)]
  simp only [decodeCopy, zeros, regAt, predAt, handleAt, flagAt, accept, acceptWith, hb, hdr, List.cons_append,
      List.nil_append, ext, Nat.reduceLeDiff, Nat.reduceSub, Nat.reduceAdd, ↓reduceIte]
  simp [ofNat_bits, bits_toNat, bits_zero_left, bits_bit1, bit1_beq, bit1_beq_zero, bits_lit, bits_past,
      bits_bit1_past, bits_join0, bits_join1]

theorem wmark (g : Guard) (ch : Handle) (ra : Reg) (rb : Reg) : Statement (.wmark g ch ra rb) := by
  intro hw e he
  have hg : g.wf = true := hw
  obtain rfl := Option.some.inj he
  refine statement_of 1 0x5e 0 _ _ (by decide) (by decide) (by decide) hg (by decide) (by decide) rfl fun w hb => ?_
  rw [body_copy (by decide) (by decide)]
  simp only [decodeCopy, zeros, regAt, predAt, handleAt, flagAt, accept, acceptWith, hb, hdr, List.cons_append,
      List.nil_append, ext, Nat.reduceLeDiff, Nat.reduceSub, Nat.reduceAdd, ↓reduceIte]
  simp [ofNat_bits, bits_toNat, bits_zero_left, bits_bit1, bit1_beq, bit1_beq_zero, bits_lit, bits_past,
      bits_bit1_past, bits_join0, bits_join1]

theorem wmarkGet (g : Guard) (gd : Reg) (ch : Handle) : Statement (.wmarkGet g gd ch) := by
  intro hw e he
  have hg : g.wf = true := hw
  obtain rfl := Option.some.inj he
  refine statement_of 1 0x5e 0 _ _ (by decide) (by decide) (by decide) hg (by decide) (by decide) rfl fun w hb => ?_
  rw [body_copy (by decide) (by decide)]
  simp only [decodeCopy, zeros, regAt, predAt, handleAt, flagAt, accept, acceptWith, hb, hdr, List.cons_append,
      List.nil_append, ext, Nat.reduceLeDiff, Nat.reduceSub, Nat.reduceAdd, ↓reduceIte]
  simp [ofNat_bits, bits_toNat, bits_zero_left, bits_bit1, bit1_beq, bit1_beq_zero, bits_lit, bits_past,
      bits_bit1_past, bits_join0, bits_join1]

theorem chwait (g : Guard) (ch : Handle) : Statement (.chwait g ch) := by
  intro hw e he
  have hg : g.wf = true := hw
  obtain rfl := Option.some.inj he
  refine statement_of 1 0x5f 0 _ _ (by decide) (by decide) (by decide) hg (by decide) (by decide) rfl fun w hb => ?_
  rw [body_copy (by decide) (by decide)]
  simp only [decodeCopy, zeros, regAt, predAt, handleAt, flagAt, accept, acceptWith, hb, hdr, List.cons_append,
      List.nil_append, ext, Nat.reduceLeDiff, Nat.reduceSub, Nat.reduceAdd, ↓reduceIte]
  simp [ofNat_bits, bits_toNat, bits_zero_left, bits_bit1, bit1_beq, bit1_beq_zero, bits_lit, bits_past,
      bits_bit1_past, bits_join0, bits_join1]

theorem vadd (g : Guard) (o : VecBin) : Statement (.vadd g o) := fun hw =>
  vecBin rfl rfl ⟨rfl, by decide, by decide, rfl, rfl⟩ (fun _ => rfl) hw hw

theorem vsub (g : Guard) (o : VecBin) : Statement (.vsub g o) := fun hw =>
  vecBin rfl rfl ⟨rfl, by decide, by decide, rfl, rfl⟩ (fun _ => rfl) hw hw

theorem vmul (g : Guard) (o : VecBin) : Statement (.vmul g o) := fun hw =>
  vecBin rfl rfl ⟨rfl, by decide, by decide, rfl, rfl⟩ (fun _ => rfl) hw hw

theorem vfma (g : Guard) (td : Handle) (ta : Handle) (bc : FmaSrc) : Statement (.vfma g td ta bc) := by
  intro hw e he
  have hg : g.wf = true := hw
  rcases bc with ⟨tb, tc⟩ | ⟨rx, tc⟩ | ⟨tb, rx⟩
  all_goals obtain rfl := Option.some.inj he
  on_goal 1 => refine statement_of 0 0x63 0 _ _ (by decide) (by decide) (by decide) hg (by decide) (by decide) rfl fun
      w hb => ?_
  on_goal 2 => refine statement_of 0 0x63 0 _ _ (by decide) (by decide) (by decide) hg (by decide) (by decide) rfl fun
      w hb => ?_
  on_goal 3 => refine statement_of 0 0x63 0 _ _ (by decide) (by decide) (by decide) hg (by decide) (by decide) rfl fun
      w hb => ?_
  all_goals rw [body_vec (by decide) (by decide)]
  all_goals simp only [decodeVec, decodeVecB, decodeVecUn, decodeVecRed, tsrcB, zeros, regAt, predAt, handleAt, flagAt,
      accept, acceptWith, hb, hdr, List.cons_append, List.nil_append, ext, Nat.reduceLeDiff, Nat.reduceSub,
      Nat.reduceAdd, ↓reduceIte]
  all_goals simp [ofNat_bits, bits_toNat, bits_zero_left, bits_bit1, bit1_beq, bit1_beq_zero, bits_lit, bits_past,
      bits_bit1_past, bits_join0, bits_join1]

theorem vdiv (g : Guard) (o : VecBin) : Statement (.vdiv g o) := fun hw =>
  vecBin rfl rfl ⟨rfl, by decide, by decide, rfl, rfl⟩ (fun _ => rfl) hw hw

theorem vsqrt (g : Guard) (o : VecUn) : Statement (.vsqrt g o) := fun hw =>
  vecUn rfl rfl ⟨rfl, by decide, by decide, rfl, rfl⟩ (fun _ => rfl) (Bool.and_eq_true_iff.mp hw).1
    (.inr (by simpa using (Bool.and_eq_true_iff.mp hw).2)) hw

theorem vrsqrt (g : Guard) (o : VecUn) : Statement (.vrsqrt g o) := fun hw =>
  vecUn rfl rfl ⟨rfl, by decide, by decide, rfl, rfl⟩ (fun _ => rfl) (Bool.and_eq_true_iff.mp hw).1
    (.inr (by simpa using (Bool.and_eq_true_iff.mp hw).2)) hw

theorem vexp2 (g : Guard) (o : VecUn) : Statement (.vexp2 g o) := fun hw =>
  vecUn rfl rfl ⟨rfl, by decide, by decide, rfl, rfl⟩ (fun _ => rfl) (Bool.and_eq_true_iff.mp hw).1
    (.inr (by simpa using (Bool.and_eq_true_iff.mp hw).2)) hw

theorem vlog2 (g : Guard) (o : VecUn) : Statement (.vlog2 g o) := fun hw =>
  vecUn rfl rfl ⟨rfl, by decide, by decide, rfl, rfl⟩ (fun _ => rfl) (Bool.and_eq_true_iff.mp hw).1
    (.inr (by simpa using (Bool.and_eq_true_iff.mp hw).2)) hw

theorem vmin (g : Guard) (o : VecBin) : Statement (.vmin g o) := fun hw =>
  vecBin rfl rfl ⟨rfl, by decide, by decide, rfl, rfl⟩ (fun _ => rfl) hw hw

theorem vmax (g : Guard) (o : VecBin) : Statement (.vmax g o) := fun hw =>
  vecBin rfl rfl ⟨rfl, by decide, by decide, rfl, rfl⟩ (fun _ => rfl) hw hw

theorem vabs (g : Guard) (o : VecUn) : Statement (.vabs g o) := fun hw =>
  vecUn rfl rfl ⟨rfl, by decide, by decide, rfl, rfl⟩ (fun _ => rfl) hw (.inl rfl) hw

theorem vneg (g : Guard) (o : VecUn) : Statement (.vneg g o) := fun hw =>
  vecUn rfl rfl ⟨rfl, by decide, by decide, rfl, rfl⟩ (fun _ => rfl) hw (.inl rfl) hw

theorem vcmp (g : Guard) (c : FCond) (td : Handle) (ta : Handle) (b : TSrc) : Statement (.vcmp g c td ta b) := by
  intro hw e he
  have hg : g.wf = true := hw
  rcases b with t | r
  all_goals obtain rfl := Option.some.inj he
  on_goal 1 => refine statement_of 0 0x6d 0 _ _ (by decide) (by decide) (by decide) hg (by decide) (by decide) rfl fun
      w hb => ?_
  on_goal 2 => refine statement_of 0 0x6d 0 _ _ (by decide) (by decide) (by decide) hg (by decide) (by decide) rfl fun
      w hb => ?_
  all_goals rw [body_vec (by decide) (by decide)]
  all_goals simp only [decodeVec, decodeVecB, decodeVecUn, decodeVecRed, tsrcB, zeros, regAt, predAt, handleAt, flagAt,
      accept, acceptWith, hb, hdr, List.cons_append, List.nil_append, ext, Nat.reduceLeDiff, Nat.reduceSub,
      Nat.reduceAdd, ↓reduceIte]
  all_goals simp [ofNat_bits, bits_toNat, bits_zero_left, bits_bit1, bit1_beq, bit1_beq_zero, bits_lit, bits_past,
      bits_bit1_past, bits_join0, bits_join1, FCond.bits_code, FCond.of_code, show bits (2 * c.code) 1 4 = c.code from
      by cases c <;> rfl, show bits (2 * c.code) 0 1 = 0 from by cases c <;> rfl, show bits (2 * c.code) 5 4 = 0 from
      by cases c <;> rfl, show bits (2 * c.code + 1) 1 4 = c.code from by cases c <;> rfl, show bits (2 * c.code + 1) 0
      1 = 1 from by cases c <;> rfl, show bits (2 * c.code + 1) 5 4 = 0 from by cases c <;> rfl]

theorem vsel (g : Guard) (td : Handle) (ta : Handle) (tb : Handle) (c : TSrc) : Statement (.vsel g td ta tb c) := by
  intro hw e he
  have hg : g.wf = true := hw
  rcases c with t | r
  all_goals obtain rfl := Option.some.inj he
  on_goal 1 => refine statement_of 0 0x6e 0 _ _ (by decide) (by decide) (by decide) hg (by decide) (by decide) rfl fun
      w hb => ?_
  on_goal 2 => refine statement_of 0 0x6e 0 _ _ (by decide) (by decide) (by decide) hg (by decide) (by decide) rfl fun
      w hb => ?_
  all_goals rw [body_vec (by decide) (by decide)]
  all_goals simp only [decodeVec, decodeVecB, decodeVecUn, decodeVecRed, tsrcB, zeros, regAt, predAt, handleAt, flagAt,
      accept, acceptWith, hb, hdr, List.cons_append, List.nil_append, ext, Nat.reduceLeDiff, Nat.reduceSub,
      Nat.reduceAdd, ↓reduceIte]
  all_goals simp [ofNat_bits, bits_toNat, bits_zero_left, bits_bit1, bit1_beq, bit1_beq_zero, bits_lit, bits_past,
      bits_bit1_past, bits_join0, bits_join1]

theorem vcvt (g : Guard) (o : VecUn) : Statement (.vcvt g o) := fun hw =>
  vecUn rfl rfl ⟨rfl, by decide, by decide, rfl, rfl⟩ (fun _ => rfl) hw (.inl rfl) hw

theorem vquant (g : Guard) (o : VecUn) : Statement (.vquant g o) := fun hw =>
  vecUn rfl rfl ⟨rfl, by decide, by decide, rfl, rfl⟩ (fun _ => rfl) hw (.inl rfl) hw

theorem vred (g : Guard) (o : VecRed) : Statement (.vred g o) := fun hw =>
  vecRed rfl rfl ⟨rfl, by decide, by decide, rfl, rfl⟩ (fun _ => rfl) hw hw

theorem vscan (g : Guard) (o : VecRed) : Statement (.vscan g o) := fun hw =>
  vecRed rfl rfl ⟨rfl, by decide, by decide, rfl, rfl⟩ (fun _ => rfl) hw hw

theorem vtrans (g : Guard) (td : Handle) (ta : Handle) (axa : BitVec 3) (axb : BitVec 3) : Statement (.vtrans g td ta
    axa axb) := by
  intro hw e he
  have hn := axb.isLt
  have hm := axa.isLt
  have x1 : bits (axa.toNat + 8 * axb.toNat) 6 3 = 0 := by
    simp only [bits]
    omega
  obtain ⟨hx, h2⟩ := Bool.and_eq_true_iff.mp hw
  obtain ⟨hg, h1⟩ := Bool.and_eq_true_iff.mp hx
  obtain rfl := Option.some.inj he
  refine statement_of 0 0x73 0 _ _ (by decide) (by decide) (by decide) hg (by decide) (by decide) rfl fun w hb => ?_
  rw [body_vec (by decide) (by decide)]
  simp only [decodeVec, decodeVecB, decodeVecUn, decodeVecRed, tsrcB, zeros, regAt, predAt, handleAt, flagAt, accept,
      acceptWith, hb, hdr, List.cons_append, List.nil_append, ext, Nat.reduceLeDiff, Nat.reduceSub, Nat.reduceAdd,
      ↓reduceIte]
  simp [ofNat_bits, bits_toNat, bits_zero_left, bits_bit1, bit1_beq, bit1_beq_zero, bits_lit, bits_past,
      bits_bit1_past, bits_join0, bits_join1, of_decide_eq_true h1, of_decide_eq_true h2, x1]

theorem vperm (g : Guard) (td : Handle) (ta : Handle) (tb : Handle) (axis : BitVec 3) : Statement (.vperm g td ta tb
    axis) := by
  intro hw e he
  obtain ⟨hg, h1⟩ := Bool.and_eq_true_iff.mp hw
  obtain rfl := Option.some.inj he
  refine statement_of 0 0x74 0 _ _ (by decide) (by decide) (by decide) hg (by decide) (by decide) rfl fun w hb => ?_
  rw [body_vec (by decide) (by decide)]
  simp only [decodeVec, decodeVecB, decodeVecUn, decodeVecRed, tsrcB, zeros, regAt, predAt, handleAt, flagAt, accept,
      acceptWith, hb, hdr, List.cons_append, List.nil_append, ext, Nat.reduceLeDiff, Nat.reduceSub, Nat.reduceAdd,
      ↓reduceIte]
  simp [ofNat_bits, bits_toNat, bits_zero_left, bits_bit1, bit1_beq, bit1_beq_zero, bits_lit, bits_past,
      bits_bit1_past, bits_join0, bits_join1, of_decide_eq_true h1]

theorem vgath (g : Guard) (td : Handle) (ta : Handle) (rx : Reg) (scale : BitVec 3) : Statement (.vgath g td ta rx
    scale) := by
  intro hw e he
  obtain ⟨hg, h1⟩ := Bool.and_eq_true_iff.mp hw
  obtain rfl := Option.some.inj he
  refine statement_of 0 0x75 0 _ _ (by decide) (by decide) (by decide) hg (by decide) (by decide) rfl fun w hb => ?_
  rw [body_vec (by decide) (by decide)]
  simp only [decodeVec, decodeVecB, decodeVecUn, decodeVecRed, tsrcB, zeros, regAt, predAt, handleAt, flagAt, accept,
      acceptWith, hb, hdr, List.cons_append, List.nil_append, ext, Nat.reduceLeDiff, Nat.reduceSub, Nat.reduceAdd,
      ↓reduceIte]
  simp [ofNat_bits, bits_toNat, bits_zero_left, bits_bit1, bit1_beq, bit1_beq_zero, bits_lit, bits_past,
      bits_bit1_past, bits_join0, bits_join1, of_decide_eq_true h1]

theorem vscat (g : Guard) (ta : Handle) (tb : Handle) (rx : Reg) (scale : BitVec 3) : Statement (.vscat g ta tb rx
    scale) := by
  intro hw e he
  obtain ⟨hg, h1⟩ := Bool.and_eq_true_iff.mp hw
  obtain rfl := Option.some.inj he
  refine statement_of 0 0x76 0 _ _ (by decide) (by decide) (by decide) hg (by decide) (by decide) rfl fun w hb => ?_
  rw [body_vec (by decide) (by decide)]
  simp only [decodeVec, decodeVecB, decodeVecUn, decodeVecRed, tsrcB, zeros, regAt, predAt, handleAt, flagAt, accept,
      acceptWith, hb, hdr, List.cons_append, List.nil_append, ext, Nat.reduceLeDiff, Nat.reduceSub, Nat.reduceAdd,
      ↓reduceIte]
  simp [ofNat_bits, bits_toNat, bits_zero_left, bits_bit1, bit1_beq, bit1_beq_zero, bits_lit, bits_past,
      bits_bit1_past, bits_join0, bits_join1, of_decide_eq_true h1]

theorem vbcast (g : Guard) (td : Handle) (a : TSrc) : Statement (.vbcast g td a) := by
  intro hw e he
  have hg : g.wf = true := hw
  rcases a with t | r
  all_goals obtain rfl := Option.some.inj he
  on_goal 1 => refine statement_of 0 0x77 0 _ _ (by decide) (by decide) (by decide) hg (by decide) (by decide) rfl fun
      w hb => ?_
  on_goal 2 => refine statement_of 0 0x77 0 _ _ (by decide) (by decide) (by decide) hg (by decide) (by decide) rfl fun
      w hb => ?_
  all_goals rw [body_vec (by decide) (by decide)]
  all_goals simp only [decodeVec, decodeVecB, decodeVecUn, decodeVecRed, tsrcB, zeros, regAt, predAt, handleAt, flagAt,
      accept, acceptWith, hb, hdr, List.cons_append, List.nil_append, ext, Nat.reduceLeDiff, Nat.reduceSub,
      Nat.reduceAdd, ↓reduceIte]
  all_goals simp [ofNat_bits, bits_toNat, bits_zero_left, bits_bit1, bit1_beq, bit1_beq_zero, bits_lit, bits_past,
      bits_bit1_past, bits_join0, bits_join1]

theorem vext (g : Guard) (rx : Reg) (ta : Handle) (i : VIdx) : Statement (.vext g rx ta i) := by
  intro hw e he
  have hg : g.wf = true := hw
  rcases i with v | v
  all_goals obtain rfl := Option.some.inj he
  on_goal 1 => refine statement_of 0 0x78 0 _ _ (by decide) (by decide) (by decide) hg (by decide) (by decide) rfl fun
      w hb => ?_
  on_goal 2 => refine statement_of 1 0x78 0 _ _ (by decide) (by decide) (by decide) hg (by decide) (by decide) rfl fun
      w hb => ?_
  all_goals rw [body_vec (by decide) (by decide)]
  all_goals simp only [decodeVec, decodeVecB, decodeVecUn, decodeVecRed, tsrcB, zeros, regAt, predAt, handleAt, flagAt,
      accept, acceptWith, hb, hdr, List.cons_append, List.nil_append, ext, Nat.reduceLeDiff, Nat.reduceSub,
      Nat.reduceAdd, ↓reduceIte]
  all_goals simp [ofNat_bits, bits_toNat, bits_zero_left, bits_bit1, bit1_beq, bit1_beq_zero, bits_lit, bits_past,
      bits_bit1_past, bits_join0, bits_join1]

theorem vins (g : Guard) (td : Handle) (rx : Reg) (i : VIdx) : Statement (.vins g td rx i) := by
  intro hw e he
  have hg : g.wf = true := hw
  rcases i with v | v
  all_goals obtain rfl := Option.some.inj he
  on_goal 1 => refine statement_of 0 0x79 0 _ _ (by decide) (by decide) (by decide) hg (by decide) (by decide) rfl fun
      w hb => ?_
  on_goal 2 => refine statement_of 1 0x79 0 _ _ (by decide) (by decide) (by decide) hg (by decide) (by decide) rfl fun
      w hb => ?_
  all_goals rw [body_vec (by decide) (by decide)]
  all_goals simp only [decodeVec, decodeVecB, decodeVecUn, decodeVecRed, tsrcB, zeros, regAt, predAt, handleAt, flagAt,
      accept, acceptWith, hb, hdr, List.cons_append, List.nil_append, ext, Nat.reduceLeDiff, Nat.reduceSub,
      Nat.reduceAdd, ↓reduceIte]
  all_goals simp [ofNat_bits, bits_toNat, bits_zero_left, bits_bit1, bit1_beq, bit1_beq_zero, bits_lit, bits_past,
      bits_bit1_past, bits_join0, bits_join1]

theorem vshift (g : Guard) (td : Handle) (ta : Handle) (axis : BitVec 3) (amt : VAmt) (fill : Option Reg) : Statement
    (.vshift g td ta axis amt fill) := by
  intro hw e he
  have hx := axis.isLt
  have x0 : ∀ v : BitVec 5, bits (axis.toNat + 16 * v.toNat) 0 3 = axis.toNat := by
    intro v
    have hv := v.isLt
    simp only [bits]
    omega
  have x1 : ∀ v : BitVec 5, bits (axis.toNat + 16 * v.toNat) 3 1 = 0 := by
    intro v
    have hv := v.isLt
    simp only [bits]
    omega
  have x2 : ∀ v : BitVec 5, bits (axis.toNat + 16 * v.toNat) 4 5 = v.toNat := by
    intro v
    have hv := v.isLt
    simp only [bits]
    omega
  have x3 : ∀ v : BitVec 5, bits (axis.toNat + 8 + 16 * v.toNat) 0 3 = axis.toNat := by
    intro v
    have hv := v.isLt
    simp only [bits]
    omega
  have x4 : ∀ v : BitVec 5, bits (axis.toNat + 8 + 16 * v.toNat) 3 1 = 1 := by
    intro v
    have hv := v.isLt
    simp only [bits]
    omega
  have x5 : ∀ v : BitVec 5, bits (axis.toNat + 8 + 16 * v.toNat) 4 5 = v.toNat := by
    intro v
    have hv := v.isLt
    simp only [bits]
    omega
  have y0 : bits (axis.toNat + 8) 0 3 = axis.toNat := by
    simp only [bits]
    omega
  have y1 : bits (axis.toNat + 8) 3 1 = 1 := by
    simp only [bits]
    omega
  have y2 : bits (axis.toNat + 8) 4 5 = 0 := by
    simp only [bits]
    omega
  obtain ⟨hg, h1⟩ := Bool.and_eq_true_iff.mp hw
  rcases amt with v | v
  all_goals rcases fill with _ | r
  all_goals obtain rfl := Option.some.inj he
  on_goal 1 => refine statement_of 0 0x7a 0 _ _ (by decide) (by decide) (by decide) hg (by decide) (by decide) rfl fun
      w hb => ?_
  on_goal 2 => refine statement_of 0 0x7a 0 _ _ (by decide) (by decide) (by decide) hg (by decide) (by decide) rfl fun
      w hb => ?_
  on_goal 3 => refine statement_of 1 0x7a 0 _ _ (by decide) (by decide) (by decide) hg (by decide) (by decide) rfl fun
      w hb => ?_
  on_goal 4 => refine statement_of 1 0x7a 0 _ _ (by decide) (by decide) (by decide) hg (by decide) (by decide) rfl fun
      w hb => ?_
  all_goals rw [body_vec (by decide) (by decide)]
  all_goals simp only [decodeVec, decodeVecB, decodeVecUn, decodeVecRed, tsrcB, zeros, regAt, predAt, handleAt, flagAt,
      accept, acceptWith, hb, hdr, List.cons_append, List.nil_append, ext, Nat.reduceLeDiff, Nat.reduceSub,
      Nat.reduceAdd, ↓reduceIte]
  all_goals simp [ofNat_bits, bits_toNat, bits_zero_left, bits_bit1, bit1_beq, bit1_beq_zero, bits_lit, bits_past,
      bits_bit1_past, bits_join0, bits_join1, of_decide_eq_true h1, x0, x1, x2, x3, x4, x5, y0, y1, y2]

theorem mma (g : Guard) (acc : Bool) (ta : Handle) (b : MatB) (tsa : Handle) (tsw : Handle) (row0 : BitVec 16) (col0 :
    BitVec 16) : Statement (.mma g acc ta b tsa tsw row0 col0) := by
  intro hw e he
  have hg : g.wf = true := hw
  rcases b with t | d
  all_goals obtain rfl := Option.some.inj he
  on_goal 1 => refine statement_of 1 0x80 0 _ _ (by decide) (by decide) (by decide) hg (by decide) (by decide) rfl fun
      w hb => ?_
  on_goal 2 => refine statement_of 1 0x80 0 _ _ (by decide) (by decide) (by decide) hg (by decide) (by decide) rfl fun
      w hb => ?_
  all_goals rw [body_mat (by decide) (by decide)]
  all_goals simp only [decodeMat, matBAt, zeros, regAt, predAt, handleAt, flagAt, accept, acceptWith, hb, hdr,
      List.cons_append, List.nil_append, ext, Nat.reduceLeDiff, Nat.reduceSub, Nat.reduceAdd, ↓reduceIte]
  all_goals simp [ofNat_bits, bits_toNat, bits_zero_left, bits_bit1, bit1_beq, bit1_beq_zero, bits_lit, bits_past,
      bits_bit1_past, bits_join0, bits_join1]

theorem mmas (g : Guard) (keep : Keep) (acc : Bool) (ta : Handle) (b : MatB) (tm : Handle) (row0 : BitVec 16) (col0 :
    BitVec 16) : Statement (.mmas g keep acc ta b tm row0 col0) := by
  intro hw e he
  have hg : g.wf = true := hw
  rcases b with t | d
  all_goals obtain rfl := Option.some.inj he
  on_goal 1 => refine statement_of 1 0x81 0 _ _ (by decide) (by decide) (by decide) hg (by decide) (by decide) rfl fun
      w hb => ?_
  on_goal 2 => refine statement_of 1 0x81 0 _ _ (by decide) (by decide) (by decide) hg (by decide) (by decide) rfl fun
      w hb => ?_
  all_goals rw [body_mat (by decide) (by decide)]
  all_goals simp only [decodeMat, matBAt, zeros, regAt, predAt, handleAt, flagAt, accept, acceptWith, hb, hdr,
      List.cons_append, List.nil_append, ext, Nat.reduceLeDiff, Nat.reduceSub, Nat.reduceAdd, ↓reduceIte]
  all_goals simp [ofNat_bits, bits_toNat, bits_zero_left, bits_bit1, bit1_beq, bit1_beq_zero, bits_lit, bits_past,
      bits_bit1_past, bits_join0, bits_join1, Keep.bits_code, Keep.of_code]

theorem mmg (g : Guard) (mem : Bool) (acc : Bool) (ta : Handle) (tg : Handle) (row0 : BitVec 16) (col0 : BitVec 16) :
    Statement (.mmg g mem acc ta tg row0 col0) := by
  intro hw e he
  have hg : g.wf = true := hw
  obtain rfl := Option.some.inj he
  refine statement_of 1 0x82 0 _ _ (by decide) (by decide) (by decide) hg (by decide) (by decide) rfl fun w hb => ?_
  rw [body_mat (by decide) (by decide)]
  simp only [decodeMat, matBAt, zeros, regAt, predAt, handleAt, flagAt, accept, acceptWith, hb, hdr, List.cons_append,
      List.nil_append, ext, Nat.reduceLeDiff, Nat.reduceSub, Nat.reduceAdd, ↓reduceIte]
  simp [ofNat_bits, bits_toNat, bits_zero_left, bits_bit1, bit1_beq, bit1_beq_zero, bits_lit, bits_past,
      bits_bit1_past, bits_join0, bits_join1]

theorem mzero (g : Guard) (acc : Bool) : Statement (.mzero g acc) := by
  intro hw e he
  have hg : g.wf = true := hw
  obtain rfl := Option.some.inj he
  refine statement_of 1 0x83 0 _ _ (by decide) (by decide) (by decide) hg (by decide) (by decide) rfl fun w hb => ?_
  rw [body_mat (by decide) (by decide)]
  simp only [decodeMat, matBAt, zeros, regAt, predAt, handleAt, flagAt, accept, acceptWith, hb, hdr, List.cons_append,
      List.nil_append, ext, Nat.reduceLeDiff, Nat.reduceSub, Nat.reduceAdd, ↓reduceIte]
  simp [ofNat_bits, bits_toNat, bits_zero_left, bits_bit1, bit1_beq, bit1_beq_zero, bits_lit, bits_past,
      bits_bit1_past, bits_join0, bits_join1]

theorem mst (g : Guard) (s32 : Bool) (sf : Bool) (acc : Bool) (td : Handle) (row0 : BitVec 16) (col0 : BitVec 16) :
    Statement (.mst g s32 sf acc td row0 col0) := by
  intro hw e he
  have x1 : bits (bit1 sf + 2 * bit1 s32) 2 2 = 0 := by cases sf <;> cases s32 <;> rfl
  have x2 : bits (bit1 sf + 2 * bit1 s32) 1 1 = bit1 s32 := by cases sf <;> cases s32 <;> rfl
  have x3 : bits (bit1 sf + 2 * bit1 s32) 0 1 = bit1 sf := by cases sf <;> cases s32 <;> rfl
  have hg : g.wf = true := hw
  obtain rfl := Option.some.inj he
  refine statement_of 1 0x84 0 _ _ (by decide) (by decide) (by decide) hg (by decide) (by decide) rfl fun w hb => ?_
  rw [body_mat (by decide) (by decide)]
  simp only [decodeMat, matBAt, zeros, regAt, predAt, handleAt, flagAt, accept, acceptWith, hb, hdr, List.cons_append,
      List.nil_append, ext, Nat.reduceLeDiff, Nat.reduceSub, Nat.reduceAdd, ↓reduceIte]
  simp [ofNat_bits, bits_toNat, bits_zero_left, bits_bit1, bit1_beq, bit1_beq_zero, bits_lit, bits_past,
      bits_bit1_past, bits_join0, bits_join1, x1, x2, x3]

theorem mwait (g : Guard) : Statement (.mwait g) := by
  intro hw e he
  have hg : g.wf = true := hw
  obtain rfl := Option.some.inj he
  refine statement_of 1 0x85 0 _ _ (by decide) (by decide) (by decide) hg (by decide) (by decide) rfl fun w hb => ?_
  rw [body_mat (by decide) (by decide)]
  simp only [decodeMat, matBAt, zeros, regAt, predAt, handleAt, flagAt, accept, acceptWith, hb, hdr, List.cons_append,
      List.nil_append, ext, Nat.reduceLeDiff, Nat.reduceSub, Nat.reduceAdd, ↓reduceIte]
  simp [ofNat_bits, bits_toNat, bits_zero_left, bits_bit1, bit1_beq, bit1_beq_zero, bits_lit, bits_past,
      bits_bit1_past, bits_join0, bits_join1]

theorem srd (g : Guard) (rd : Reg) (spec : BitVec 12) : Statement (.srd g rd spec) := by
  intro hw e he
  have hg : g.wf = true := hw
  obtain rfl := Option.some.inj he
  refine statement_of 0 0x90 0 _ _ (by decide) (by decide) (by decide) hg (by decide) (by decide) rfl fun w hb => ?_
  rw [body_sys_high (by decide)]
  simp only [decodeSys, zeros, regAt, predAt, handleAt, flagAt, accept, acceptWith, hb, hdr, List.cons_append,
      List.nil_append, ext, Nat.reduceLeDiff, Nat.reduceSub, Nat.reduceAdd, ↓reduceIte]
  simp [ofNat_bits, bits_toNat, bits_zero_left, bits_bit1, bit1_beq, bit1_beq_zero, bits_lit, bits_past,
      bits_bit1_past, bits_join0, bits_join1]

theorem swr (g : Guard) (spec : BitVec 12) (ra : Reg) : Statement (.swr g spec ra) := by
  intro hw e he
  have hg : g.wf = true := hw
  obtain rfl := Option.some.inj he
  refine statement_of 0 0x91 0 _ _ (by decide) (by decide) (by decide) hg (by decide) (by decide) rfl fun w hb => ?_
  rw [body_sys_high (by decide)]
  simp only [decodeSys, zeros, regAt, predAt, handleAt, flagAt, accept, acceptWith, hb, hdr, List.cons_append,
      List.nil_append, ext, Nat.reduceLeDiff, Nat.reduceSub, Nat.reduceAdd, ↓reduceIte]
  simp [ofNat_bits, bits_toNat, bits_zero_left, bits_bit1, bit1_beq, bit1_beq_zero, bits_lit, bits_past,
      bits_bit1_past, bits_join0, bits_join1]

theorem trap (g : Guard) (imm : BitVec 20) : Statement (.trap g imm) := by
  intro hw e he
  have hg : g.wf = true := hw
  obtain rfl := Option.some.inj he
  refine statement_of 0 0x92 0 _ _ (by decide) (by decide) (by decide) hg (by decide) (by decide) rfl fun w hb => ?_
  rw [body_sys_high (by decide)]
  simp only [decodeSys, zeros, regAt, predAt, handleAt, flagAt, accept, acceptWith, hb, hdr, List.cons_append,
      List.nil_append, ext, Nat.reduceLeDiff, Nat.reduceSub, Nat.reduceAdd, ↓reduceIte]
  simp [ofNat_bits, bits_toNat, bits_zero_left, bits_bit1, bit1_beq, bit1_beq_zero, bits_lit, bits_past,
      bits_bit1_past, bits_join0, bits_join1]

theorem eret (g : Guard) (ra : Reg) : Statement (.eret g ra) := by
  intro hw e he
  have hg : g.wf = true := hw
  obtain rfl := Option.some.inj he
  refine statement_of 0 0x93 0 _ _ (by decide) (by decide) (by decide) hg (by decide) (by decide) rfl fun w hb => ?_
  rw [body_sys_high (by decide)]
  simp only [decodeSys, zeros, regAt, predAt, handleAt, flagAt, accept, acceptWith, hb, hdr, List.cons_append,
      List.nil_append, ext, Nat.reduceLeDiff, Nat.reduceSub, Nat.reduceAdd, ↓reduceIte]
  simp [ofNat_bits, bits_toNat, bits_zero_left, bits_bit1, bit1_beq, bit1_beq_zero, bits_lit, bits_past,
      bits_bit1_past, bits_join0, bits_join1]

theorem eretSt (g : Guard) (ra : Reg) (rb : Reg) : Statement (.eretSt g ra rb) := by
  intro hw e he
  have hg : g.wf = true := hw
  obtain rfl := Option.some.inj he
  refine statement_of 0 0x93 0 _ _ (by decide) (by decide) (by decide) hg (by decide) (by decide) rfl fun w hb => ?_
  rw [body_sys_high (by decide)]
  simp only [decodeSys, zeros, regAt, predAt, handleAt, flagAt, accept, acceptWith, hb, hdr, List.cons_append,
      List.nil_append, ext, Nat.reduceLeDiff, Nat.reduceSub, Nat.reduceAdd, ↓reduceIte]
  simp [ofNat_bits, bits_toNat, bits_zero_left, bits_bit1, bit1_beq, bit1_beq_zero, bits_lit, bits_past,
      bits_bit1_past, bits_join0, bits_join1]

theorem eretAbort (g : Guard) (ra : Reg) (st : Option Reg) : Statement (.eretAbort g ra st) := by
  intro hw e he
  have hg : g.wf = true := hw
  rcases st with _ | r
  all_goals obtain rfl := Option.some.inj he
  on_goal 1 => refine statement_of 0 0x93 0 _ _ (by decide) (by decide) (by decide) hg (by decide) (by decide) rfl fun
      w hb => ?_
  on_goal 2 => refine statement_of 0 0x93 0 _ _ (by decide) (by decide) (by decide) hg (by decide) (by decide) rfl fun
      w hb => ?_
  all_goals rw [body_sys_high (by decide)]
  all_goals simp only [decodeSys, zeros, regAt, predAt, handleAt, flagAt, accept, acceptWith, hb, hdr,
      List.cons_append, List.nil_append, ext, Nat.reduceLeDiff, Nat.reduceSub, Nat.reduceAdd, ↓reduceIte]
  all_goals simp [ofNat_bits, bits_toNat, bits_zero_left, bits_bit1, bit1_beq, bit1_beq_zero, bits_lit, bits_past,
      bits_bit1_past, bits_join0, bits_join1]

theorem tlbiAsid (g : Guard) (ra : Reg) : Statement (.tlbiAsid g ra) := by
  intro hw e he
  have hg : g.wf = true := hw
  obtain rfl := Option.some.inj he
  refine statement_of 0 0x94 0 _ _ (by decide) (by decide) (by decide) hg (by decide) (by decide) rfl fun w hb => ?_
  rw [body_sys_high (by decide)]
  simp only [decodeSys, zeros, regAt, predAt, handleAt, flagAt, accept, acceptWith, hb, hdr, List.cons_append,
      List.nil_append, ext, Nat.reduceLeDiff, Nat.reduceSub, Nat.reduceAdd, ↓reduceIte]
  simp [ofNat_bits, bits_toNat, bits_zero_left, bits_bit1, bit1_beq, bit1_beq_zero, bits_lit, bits_past,
      bits_bit1_past, bits_join0, bits_join1]

theorem tlbiAddr (g : Guard) (ra : Reg) (rb : Reg) : Statement (.tlbiAddr g ra rb) := by
  intro hw e he
  have hg : g.wf = true := hw
  obtain rfl := Option.some.inj he
  refine statement_of 0 0x94 1 _ _ (by decide) (by decide) (by decide) hg (by decide) (by decide) rfl fun w hb => ?_
  rw [body_sys_high (by decide)]
  simp only [decodeSys, zeros, regAt, predAt, handleAt, flagAt, accept, acceptWith, hb, hdr, List.cons_append,
      List.nil_append, ext, Nat.reduceLeDiff, Nat.reduceSub, Nat.reduceAdd, ↓reduceIte]
  simp [ofNat_bits, bits_toNat, bits_zero_left, bits_bit1, bit1_beq, bit1_beq_zero, bits_lit, bits_past,
      bits_bit1_past, bits_join0, bits_join1]

theorem tlbiRange (g : Guard) (ra : Reg) (rb : Reg) (n : BitVec 20) : Statement (.tlbiRange g ra rb n) := by
  intro hw e he
  have hg : g.wf = true := hw
  obtain rfl := Option.some.inj he
  refine statement_of 0 0x94 2 _ _ (by decide) (by decide) (by decide) hg (by decide) (by decide) rfl fun w hb => ?_
  rw [body_sys_high (by decide)]
  simp only [decodeSys, zeros, regAt, predAt, handleAt, flagAt, accept, acceptWith, hb, hdr, List.cons_append,
      List.nil_append, ext, Nat.reduceLeDiff, Nat.reduceSub, Nat.reduceAdd, ↓reduceIte]
  simp [ofNat_bits, bits_toNat, bits_zero_left, bits_bit1, bit1_beq, bit1_beq_zero, bits_lit, bits_past,
      bits_bit1_past, bits_join0, bits_join1]

theorem tlbiKind (g : Guard) (ra : Reg) (k : BitVec 3) : Statement (.tlbiKind g ra k) := by
  intro hw e he
  have hg : g.wf = true := hw
  obtain rfl := Option.some.inj he
  refine statement_of 0 0x94 3 _ _ (by decide) (by decide) (by decide) hg (by decide) (by decide) rfl fun w hb => ?_
  rw [body_sys_high (by decide)]
  simp only [decodeSys, zeros, regAt, predAt, handleAt, flagAt, accept, acceptWith, hb, hdr, List.cons_append,
      List.nil_append, ext, Nat.reduceLeDiff, Nat.reduceSub, Nat.reduceAdd, ↓reduceIte]
  simp [ofNat_bits, bits_toNat, bits_zero_left, bits_bit1, bit1_beq, bit1_beq_zero, bits_lit, bits_past,
      bits_bit1_past, bits_join0, bits_join1]

theorem tlbiAll (g : Guard) : Statement (.tlbiAll g) := by
  intro hw e he
  have hg : g.wf = true := hw
  obtain rfl := Option.some.inj he
  refine statement_of 0 0x94 4 _ _ (by decide) (by decide) (by decide) hg (by decide) (by decide) rfl fun w hb => ?_
  rw [body_sys_high (by decide)]
  simp only [decodeSys, zeros, regAt, predAt, handleAt, flagAt, accept, acceptWith, hb, hdr, List.cons_append,
      List.nil_append, ext, Nat.reduceLeDiff, Nat.reduceSub, Nat.reduceAdd, ↓reduceIte]
  simp [ofNat_bits, bits_toNat, bits_zero_left, bits_bit1, bit1_beq, bit1_beq_zero, bits_lit, bits_past,
      bits_bit1_past, bits_join0, bits_join1]

theorem cwb (g : Guard) (ra : Reg) (rb : Reg) : Statement (.cwb g ra rb) := by
  intro hw e he
  have hg : g.wf = true := hw
  obtain rfl := Option.some.inj he
  refine statement_of 0 0x95 0 _ _ (by decide) (by decide) (by decide) hg (by decide) (by decide) rfl fun w hb => ?_
  rw [body_sys_high (by decide)]
  simp only [decodeSys, zeros, regAt, predAt, handleAt, flagAt, accept, acceptWith, hb, hdr, List.cons_append,
      List.nil_append, ext, Nat.reduceLeDiff, Nat.reduceSub, Nat.reduceAdd, ↓reduceIte]
  simp [ofNat_bits, bits_toNat, bits_zero_left, bits_bit1, bit1_beq, bit1_beq_zero, bits_lit, bits_past,
      bits_bit1_past, bits_join0, bits_join1]

theorem cinv (g : Guard) (ra : Reg) (rb : Reg) : Statement (.cinv g ra rb) := by
  intro hw e he
  have hg : g.wf = true := hw
  obtain rfl := Option.some.inj he
  refine statement_of 0 0x96 0 _ _ (by decide) (by decide) (by decide) hg (by decide) (by decide) rfl fun w hb => ?_
  rw [body_sys_high (by decide)]
  simp only [decodeSys, zeros, regAt, predAt, handleAt, flagAt, accept, acceptWith, hb, hdr, List.cons_append,
      List.nil_append, ext, Nat.reduceLeDiff, Nat.reduceSub, Nat.reduceAdd, ↓reduceIte]
  simp [ofNat_bits, bits_toNat, bits_zero_left, bits_bit1, bit1_beq, bit1_beq_zero, bits_lit, bits_past,
      bits_bit1_past, bits_join0, bits_join1]

theorem flushtag (g : Guard) (quire : BitVec 7) (ra : Reg) : Statement (.flushtag g quire ra) := by
  intro hw e he
  have hg : g.wf = true := hw
  obtain rfl := Option.some.inj he
  refine statement_of 0 0x97 0 _ _ (by decide) (by decide) (by decide) hg (by decide) (by decide) rfl fun w hb => ?_
  rw [body_sys_high (by decide)]
  simp only [decodeSys, zeros, regAt, predAt, handleAt, flagAt, accept, acceptWith, hb, hdr, List.cons_append,
      List.nil_append, ext, Nat.reduceLeDiff, Nat.reduceSub, Nat.reduceAdd, ↓reduceIte]
  simp [ofNat_bits, bits_toNat, bits_zero_left, bits_bit1, bit1_beq, bit1_beq_zero, bits_lit, bits_past,
      bits_bit1_past, bits_join0, bits_join1]

theorem mread (g : Guard) (rd : Reg) (idx : BitVec 6) : Statement (.mread g rd idx) := by
  intro hw e he
  have hg : g.wf = true := hw
  obtain rfl := Option.some.inj he
  refine statement_of 0 0x98 0 _ _ (by decide) (by decide) (by decide) hg (by decide) (by decide) rfl fun w hb => ?_
  rw [body_sys_high (by decide)]
  simp only [decodeSys, zeros, regAt, predAt, handleAt, flagAt, accept, acceptWith, hb, hdr, List.cons_append,
      List.nil_append, ext, Nat.reduceLeDiff, Nat.reduceSub, Nat.reduceAdd, ↓reduceIte]
  simp [ofNat_bits, bits_toNat, bits_zero_left, bits_bit1, bit1_beq, bit1_beq_zero, bits_lit, bits_past,
      bits_bit1_past, bits_join0, bits_join1]

theorem idle (g : Guard) (n : BitVec 20) : Statement (.idle g n) := by
  intro hw e he
  have hg : g.wf = true := hw
  obtain rfl := Option.some.inj he
  refine statement_of 0 0x99 0 _ _ (by decide) (by decide) (by decide) hg (by decide) (by decide) rfl fun w hb => ?_
  rw [body_sys_high (by decide)]
  simp only [decodeSys, zeros, regAt, predAt, handleAt, flagAt, accept, acceptWith, hb, hdr, List.cons_append,
      List.nil_append, ext, Nat.reduceLeDiff, Nat.reduceSub, Nat.reduceAdd, ↓reduceIte]
  simp [ofNat_bits, bits_toNat, bits_zero_left, bits_bit1, bit1_beq, bit1_beq_zero, bits_lit, bits_past,
      bits_bit1_past, bits_join0, bits_join1]

/-- A term with no encoding. -/
theorem unencoded {i : Instr} (h : encode i = none) : Statement i := fun _ e he => by
  rw [h] at he
  cases he

theorem fetchBlockDelivery : ∀ (q : Nat), Statement (.fetchBlockDelivery q) := fun _ => unencoded rfl
theorem waitRetest : ∀ (pos : Nat), Statement (.waitRetest pos) := fun _ => unencoded rfl
theorem granuleEventPerform : ∀ (pos : Nat), Statement (.granuleEventPerform pos) := fun _ => unencoded rfl
theorem writeBack : ∀ (c : CopyRef), Statement (.writeBack c) := fun _ => unencoded rfl
theorem drop : ∀ (c : CopyRef), Statement (.drop c) := fun _ => unencoded rfl
theorem writeQueueDrain : ∀ (q line : Nat), Statement (.writeQueueDrain q line) := fun _ _ => unencoded rfl
theorem orderPointTake : ∀ (die : Nat) (r : CohReq), Statement (.orderPointTake die r) := fun _ _ => unencoded rfl
theorem notificationDelivery : ∀ (die : Nat), Statement (.notificationDelivery die) := fun _ => unencoded rfl
theorem recallResponse : ∀ (die line : Nat), Statement (.recallResponse die line) := fun _ _ => unencoded rfl
theorem remoteWriteBack : ∀ (die line : Nat), Statement (.remoteWriteBack die line) := fun _ _ => unencoded rfl
theorem hostPortSend : Statement .hostPortSend := unencoded rfl
theorem pcieCompletion : ∀ (req : Nat) (status : BitVec 3), Statement (.pcieCompletion req status) :=
  fun _ _ => unencoded rfl
theorem leaseExpiry : ∀ (pos : Nat), Statement (.leaseExpiry pos) := fun _ => unencoded rfl
theorem waitlineReread : ∀ (pos : Nat), Statement (.waitlineReread pos) := fun _ => unencoded rfl
theorem barWaitWake : ∀ (pos : Nat), Statement (.barWaitWake pos) := fun _ => unencoded rfl
theorem alignRelease : ∀ (q : Nat) (pc : BitVec 56), Statement (.alignRelease q pc) := fun _ _ => unencoded rfl
theorem idleExpiry : ∀ (pos : Nat), Statement (.idleExpiry pos) := fun _ => unencoded rfl
theorem recordDelivery : ∀ (n : Nat), Statement (.recordDelivery n) := fun _ => unencoded rfl
theorem vectorOpComplete : ∀ (core : Nat) (at_ : Option Nat), Statement (.vectorOpComplete core at_) :=
  fun _ _ => unencoded rfl
theorem engineElementEvent : ∀ (q job : Nat) (wr : Bool) (at_ : Nat), Statement (.engineElementEvent q job wr at_) :=
  fun _ _ _ _ => unencoded rfl
theorem watermarkAdvance : ∀ (q ch w : Nat), Statement (.watermarkAdvance q ch w) := fun _ _ _ => unencoded rfl
theorem publish : ∀ (q job : Nat), Statement (.publish q job) := fun _ _ => unencoded rfl
theorem matrixOperandRead : ∀ (core : Nat) (vat : Bool) (va : Word), Statement (.matrixOperandRead core vat va) :=
  fun _ _ _ => unencoded rfl
theorem stepGrant : ∀ (q : Nat), Statement (.stepGrant q) := fun _ => unencoded rfl
theorem tileStep : ∀ (q : Nat), Statement (.tileStep q) := fun _ => unencoded rfl
theorem mzeroEntryRun : ∀ (core : Nat), Statement (.mzeroEntryRun core) := fun _ => unencoded rfl
theorem mstEntryRun : ∀ (core : Nat) (at_ : Option Nat), Statement (.mstEntryRun core at_) := fun _ _ => unencoded rfl
theorem pageWalk : ∀ (core asid : Nat) (va : BitVec 56), Statement (.pageWalk core asid va) :=
  fun _ _ _ => unencoded rfl
theorem slotStart : Statement .slotStart := unencoded rfl
theorem receipt : ∀ (port : Nat) (bitmap : List Bool), Statement (.receipt port bitmap) := fun _ _ => unencoded rfl
theorem pairFailure : ∀ (dst : BitVec 10), Statement (.pairFailure dst) := fun _ => unencoded rfl
theorem relayForward : ∀ (i : Nat), Statement (.relayForward i) := fun _ => unencoded rfl
theorem bdata : ∀ (a : Arrival), Statement (.bdata a) := fun _ => unencoded rfl
theorem bend : ∀ (a : Arrival), Statement (.bend a) := fun _ => unencoded rfl
theorem migrate : ∀ (a : Arrival), Statement (.migrate a) := fun _ => unencoded rfl
theorem accept : ∀ (a : Arrival), Statement (.accept a) := fun _ => unencoded rfl
theorem refuse : ∀ (a : Arrival), Statement (.refuse a) := fun _ => unencoded rfl
theorem racc : ∀ (a : Arrival), Statement (.racc a) := fun _ => unencoded rfl
theorem rreply : ∀ (a : Arrival), Statement (.rreply a) := fun _ => unencoded rfl
theorem acks : ∀ (a : Arrival), Statement (.acks a) := fun _ => unencoded rfl
theorem spdm : ∀ (a : Arrival), Statement (.spdm a) := fun _ => unencoded rfl
theorem kick : ∀ (fn q : Nat) (v : Word), Statement (.kick fn q v) := fun _ _ _ => unencoded rfl
theorem graphCommit : ∀ (fn : Nat) (a : Word), Statement (.graphCommit fn a) := fun _ _ => unencoded rfl
theorem schedule : ∀ (fn : Nat), Statement (.schedule fn) := fun _ => unencoded rfl
theorem deschedule : ∀ (fn : Nat), Statement (.deschedule fn) := fun _ => unencoded rfl
theorem teamPlace : ∀ (n : Nat), Statement (.teamPlace n) := fun _ => unencoded rfl
theorem itemDispatch : ∀ (tag : BitVec 16), Statement (.itemDispatch tag) := fun _ => unencoded rfl
theorem taskEnd : ∀ (tag : BitVec 16), Statement (.taskEnd tag) := fun _ => unencoded rfl
theorem quantumExpiry : ∀ (tag : BitVec 16), Statement (.quantumExpiry tag) := fun _ => unencoded rfl
theorem slotHandover : ∀ (pos : Nat), Statement (.slotHandover pos) := fun _ => unencoded rfl
theorem headHandover : ∀ (core : Nat), Statement (.headHandover core) := fun _ => unencoded rfl
theorem taskMove : ∀ (tag : BitVec 16) (q : Nat), Statement (.taskMove tag q) := fun _ _ => unencoded rfl
theorem flushtagAck : ∀ (q : Nat) (tag : BitVec 16), Statement (.flushtagAck q tag) := fun _ _ => unencoded rfl
theorem dieLinkFailure : ∀ (d e : Nat), Statement (.dieLinkFailure d e) := fun _ _ => unencoded rfl
theorem partitionCreate : ∀ (n : Nat), Statement (.partitionCreate n) := fun _ => unencoded rfl
theorem partitionDestroy : ∀ (n : Nat), Statement (.partitionDestroy n) := fun _ => unencoded rfl
theorem assign : ∀ (n q : Nat), Statement (.assign n q) := fun _ _ => unencoded rfl
theorem release : ∀ (n q : Nat), Statement (.release n q) := fun _ _ => unencoded rfl
theorem drainScrubComplete : ∀ (n : Nat), Statement (.drainScrubComplete n) := fun _ => unencoded rfl
theorem fqconsWrite : ∀ (n : Nat) (v : BitVec 32), Statement (.fqconsWrite n v) := fun _ _ => unencoded rfl
theorem fopResume : ∀ (n : Nat), Statement (.fopResume n) := fun _ => unencoded rfl
theorem fopResumeSt : ∀ (n : Nat), Statement (.fopResumeSt n) := fun _ => unencoded rfl
theorem fopAbort : ∀ (n : Nat), Statement (.fopAbort n) := fun _ => unencoded rfl
theorem rdcmaskWrite : ∀ (n : Nat) (v : Word), Statement (.rdcmaskWrite n v) := fun _ _ => unencoded rfl
theorem scopedwWrite : ∀ (n : Nat) (v : BitVec 4), Statement (.scopedwWrite n v) := fun _ _ => unencoded rfl
theorem queueRegisterWrite : ∀ (fn q : Nat) (isLog : Bool) (v : Word), Statement (.queueRegisterWrite fn q isLog v) :=
  fun _ _ _ _ => unencoded rfl
theorem granWrite : ∀ (d g : Nat) (v : BitVec 16), Statement (.granWrite d g v) := fun _ _ _ => unencoded rfl
theorem granuleZeroDone : ∀ (d g : Nat), Statement (.granuleZeroDone d g) := fun _ _ => unencoded rfl
theorem idereqSet : ∀ (v : Bool), Statement (.idereqSet v) := fun _ => unencoded rfl
theorem ideStreamSecure : ∀ (fn : Nat), Statement (.ideStreamSecure fn) := fun _ => unencoded rfl
theorem pwrcapWrite : ∀ (v : BitVec 7), Statement (.pwrcapWrite v) := fun _ => unencoded rfl
theorem powerWindow : ∀ (watts : BitVec 16) (tj : BitVec 10), Statement (.powerWindow watts tj) :=
  fun _ _ => unencoded rfl
theorem thermalCap : ∀ (tj : BitVec 10), Statement (.thermalCap tj) := fun _ => unencoded rfl
theorem thermalTrip : ∀ (tj : BitVec 10), Statement (.thermalTrip tj) := fun _ => unencoded rfl
theorem stagecmdGo : ∀ (len : BitVec 25) (sigOk : Bool), Statement (.stagecmdGo len sigOk) := fun _ _ => unencoded rfl
theorem coldReset : Statement .coldReset := unencoded rfl
theorem bringupComplete : ∀ (hbmOk : Bool), Statement (.bringupComplete hbmOk) := fun _ => unencoded rfl
theorem fabricOff : ∀ (w : Writer), Statement (.fabricOff w) := fun _ => unencoded rfl
theorem fabricConfig : ∀ (w : Writer), Statement (.fabricConfig w) := fun _ => unencoded rfl
theorem fabricRun : ∀ (w : Writer), Statement (.fabricRun w) := fun _ => unencoded rfl
theorem generationCommit : ∀ (w : Writer) (g : Bool), Statement (.generationCommit w g) := fun _ _ => unencoded rfl
theorem errClear : ∀ (w : Writer), Statement (.errClear w) := fun _ => unencoded rfl
theorem rankMapWrite : ∀ (w : Writer) (n k : Nat) (v : BitVec 16), Statement (.rankMapWrite w n k v) :=
  fun _ _ _ _ => unencoded rfl
theorem registerWrite : ∀ (w : Writer) (r : RegName) (v : BitVec 128), Statement (.registerWrite w r v) :=
  fun _ _ _ => unencoded rfl
theorem getMeasurementsCount : ∀ (r : MeasReq), Statement (.getMeasurementsCount r) := fun _ => unencoded rfl
theorem getMeasurementsBoot : ∀ (r : MeasReq) (param2 : Byte), Statement (.getMeasurementsBoot r param2) :=
  fun _ _ => unencoded rfl
theorem getMeasurementsSnapshot : ∀ (r : MeasReq) (n : Nat), Statement (.getMeasurementsSnapshot r n) :=
  fun _ _ => unencoded rfl
theorem keyExchange : ∀ (pkey : BitVec 16) (dev : BitVec 10), Statement (.keyExchange pkey dev) :=
  fun _ _ => unencoded rfl
theorem keyUpdate : ∀ (pkey : BitVec 16) (dev : BitVec 10), Statement (.keyUpdate pkey dev) :=
  fun _ _ => unencoded rfl
theorem hostCxlMemAccess : ∀ (a : HostAcc), Statement (.hostCxlMemAccess a) := fun _ => unencoded rfl
theorem hostSnoop : ∀ (pa : Nat) (data : List Byte), Statement (.hostSnoop pa data) := fun _ _ => unencoded rfl
theorem patrolScrub : ∀ (pa : Nat) (row : Nat) (err : MemErr), Statement (.patrolScrub pa row err) :=
  fun _ _ _ => unencoded rfl
theorem discardedPacket : ∀ (a : Arrival) (why : DiscardWhy), Statement (.discardedPacket a why) :=
  fun _ _ => unencoded rfl
theorem relayReceive : ∀ (a : Arrival), Statement (.relayReceive a) := fun _ => unencoded rfl
theorem barWaitRemoteReread : ∀ (pos : Nat), Statement (.barWaitRemoteReread pos) := fun _ => unencoded rfl
theorem hotCapEnd : ∀ (tj : BitVec 10), Statement (.hotCapEnd tj) := fun _ => unencoded rfl
theorem accumulatorExchangeEnd : ∀ (core : Nat), Statement (.accumulatorExchangeEnd core) := fun _ => unencoded rfl
theorem getMeasurementsInvalid : ∀ (r : MeasReq) (param2 : Byte), Statement (.getMeasurementsInvalid r param2) :=
  fun _ _ => unencoded rfl

end Sys2Proof.Laws.EncodeRoundTrip
end

