-- ==== Sys2Proof/Laws/Scalar.lean ====
section
/-! SUPPORT. The model's reading and extending of integers agrees with the two's complement of the statements' terms
(R112, R115, R116). -/
namespace Sys2Proof.Machine
open Sys2Proof.Claims

theorem width_eq (ty : ITy) : fmtBits (ityFmt ty) = width ty := by cases ty <;> rfl
theorem int_eq (ty : ITy) (x : Word) : intOf ty x = readInt ty x := by
  have h1 : (lowBits ty x).toNat = x.toNat % 2 ^ width ty := by simp [lowBits]
  have h2 : (lowBits ty x).toInt = if 2 * (x.toNat % 2 ^ width ty) < 2 ^ width ty then (x.toNat % 2 ^ width ty : Int) else (x.toNat % 2 ^ width ty : Int) - 2 ^ width ty := by
    rw [BitVec.toInt_eq_toNat_cond, h1]; push_cast; rfl
  unfold intOf intVal readInt
  rw [h1, h2, width_eq]
  cases ty <;> simp [isSigned, ityFmt, fmtSigned, width, bits] <;> omega


theorem ext_eq (ty : ITy) (r : Int) : extOf ty r = extInt ty r := by
  unfold extOf extInt extend
  simp only [width_eq]
  have h1 : (BitVec.ofInt (width ty) r).toNat = (r % 2 ^ width ty).toNat := by
    rw [BitVec.toNat_ofInt]
    push_cast; rfl
  have key : ∀ n : Nat, 1 ≤ n → n ≤ 64 → ((BitVec.ofInt n r).signExtend 64) = BitVec.ofInt 64 (BitVec.ofInt n r).toInt := by
    intro n _ _; rfl
  have h3 : ∀ n : Nat, (BitVec.ofInt n r).setWidth 64 = BitVec.ofInt 64 ((r % 2 ^ n).toNat : Int) := by
    intro n
    apply BitVec.eq_of_toNat_eq
    rw [BitVec.toNat_setWidth, BitVec.toNat_ofInt, BitVec.ofInt_natCast, BitVec.toNat_ofNat]
    push_cast; rfl
  have h4 : ∀ n : Nat, 1 ≤ n → (BitVec.ofInt n r).toInt = if 2 ^ (n-1) ≤ (r % 2 ^ n).toNat then (((r % 2 ^ n).toNat : Int) - 2 ^ n) else ((r % 2 ^ n).toNat : Int) := by
    intro n hn
    rw [BitVec.toInt_eq_toNat_cond, BitVec.toNat_ofInt]
    obtain ⟨m, rfl⟩ := Nat.exists_eq_add_of_le hn
    have e1 : 1 + m - 1 = m := by omega
    have e2 : (2:Nat) ^ (1+m) = 2 * 2 ^ m := by rw [Nat.pow_add]
    have e3 : (2:Int) ^ (1+m) = 2 * 2 ^ m := by rw [pow_add]; rfl
    rw [e1, e2, e3]
    push_cast
    have e4 : ((2 ^ m : Nat) : Int) = 2 ^ m := by push_cast; rfl
    generalize (2 : Int)^m = z at *
    generalize (2 : Nat)^m = y at *
    split <;> split <;> omega
  have hlt : ∀ n : Nat, (r % 2 ^ n).toNat % 2 ^ n = (r % 2 ^ n).toNat := by
    intro n
    apply Nat.mod_eq_of_lt
    have : (0:Int) < 2 ^ n := by positivity
    have h5 := Int.emod_lt_of_pos r this
    have h6 := Int.emod_nonneg r (by omega : (2:Int)^n ≠ 0)
    zify; omega
  unfold intVal wrapTo
  cases ty <;> simp only [isSigned, ityFmt, fmtSigned, width, fmtBits, hlt, if_true, true_and, Bool.false_eq_true, false_and, if_false, h3] <;>
    (rw [key _ (by decide) (by decide), h4 _ (by decide)]; try rfl)

theorem sat_eq (o : IntBin) (r : Int) : intResult o r = extInt o.ty (saturate o.ty o.sf r) := by
  unfold intResult saturate
  rw [ext_eq]
  congr 1
  split
  · have h1 : intMin (ityFmt o.ty) = least o.ty := by cases o.ty <;> rfl
    have h2 : intMax (ityFmt o.ty) = greatest o.ty := by cases o.ty <;> rfl
    unfold clampTo
    rw [h1, h2]
    have h3 : least o.ty ≤ greatest o.ty := by cases o.ty <;> decide
    omega
  · rfl

theorem lowOf_eq (ty : ITy) (x : Word) : lowOf ty x = (lowBits ty x).toNat := by
  simp only [lowOf, lowBits, bits, width_eq]; simp

end Sys2Proof.Machine
end

