-- ==== Sys2Proof/Laws/Translate.lean ====
section
/-! SUPPORT. What translation can do to the state: its walks read table entries at their Homes, and it fills TLBs and walk
caches and counts walks; nothing else changes (R326, R327, R370). -/
namespace Sys2Proof.Machine

theorem homeOnly_fillTlb (s : State) (w : Who) (t : Tlb) (seen : List WalkEntry) : HomeOnly s (fillTlb s w t seen) := by
  unfold fillTlb
  dsimp only
  split
  · exact .of_parts rfl
  · exact .of_parts rfl

/-- A walker's read of one table entry. -/
theorem homeOnly_entryRead (s : State) (die part pa : Nat) : HomeOnly s (entryRead s die part pa).1 := by
  unfold entryRead
  dsimp only
  split
  · exact .refl s
  · split
    · exact .refl s
    · split
      · exact (homeOnly_drainLine ..).trans (homeOnly_claimLine ..)
      · exact ((homeOnly_drainLine ..).trans (homeOnly_claimLine ..)).trans (homeOnly_countBytes ..)

theorem HomeOnly.of_entryRead {s t : State} {die part pa : Nat} {r : Except Miss Nat} (h : entryRead s die part pa = (t, r)) :
    HomeOnly s t := by
  have h1 := homeOnly_entryRead s die part pa
  rw [h] at h1
  exact h1

theorem homeOnly_walk (die part asid va fuel level table : Nat) (seen : List WalkEntry) (s : State) :
    HomeOnly s (walk die part asid va fuel level table seen s).1 := by
  induction fuel generalizing level table seen s with
  | zero => exact .refl s
  | succ n ih =>
    unfold walk
    extract_lets idx pa
    clear_value pa
    split
    · exact .refl s
    split
    · next h => exact .of_entryRead h
    next h =>
    have h1 := HomeOnly.of_entryRead h
    split
    · exact h1
    split
    · split
      · exact h1
      · exact h1
    split
    · exact h1
    · exact h1.trans (ih ..)

/-- A whole walk. -/
theorem homeOnly_pageWalk (s : State) (w : Who) (asid va : Nat) : HomeOnly s (pageWalk s w asid va).1 := by
  unfold pageWalk
  dsimp only
  split
  · exact .refl s
  generalize hb : walkStart s (dieOfQuire w.quire) asid va (Sparse.get Root.reset s.front.roots asid).top = b
  have h := homeOnly_walk (dieOfQuire w.quire) (Sparse.get Root.reset s.front.roots asid).part asid va (b.1 + 1) b.1 b.2 [] s
  split
  · next h' => rw [h'] at h; exact (h.trans (homeOnly_tally ..)).trans (homeOnly_fillTlb ..)
  · next h' => rw [h'] at h; exact h
  · next s1 e h' =>
    rw [h'] at h
    dsimp only
    exact HomeOnly.trans (t := s1) h (homeOnly_tally ..)

theorem homeOnly_leafFor (s : State) (w : Who) (va : Nat) : HomeOnly s (leafFor s w va).1 := by
  unfold leafFor
  split
  · exact .refl s
  · dsimp only
    split
    · exact .refl s
    · split
      · exact .refl s
      · exact homeOnly_pageWalk s w _ va

theorem homeOnly_translate (s : State) (w : Who) (a : Word) (acc : Acc) : HomeOnly s (translate s w a acc).1 := by
  have h := homeOnly_leafFor s w (bits a.toNat 0 56)
  unfold translate
  split
  all_goals
    next h' =>
    rw [h'] at h
    repeat' split
    all_goals exact h

/-- Resolve. -/
theorem homeOnly_resolve (s : State) (w : Who) (a : Word) (acc : Acc) : HomeOnly s (resolve s w a acc).1 := by
  have h := homeOnly_translate s w a acc
  unfold resolve
  split
  · exact .refl s
  · split
    all_goals
      next h' =>
      rw [h'] at h
      repeat' split
      all_goals exact h

theorem HomeOnly.of_resolve {s s1 : State} {w : Who} {a : Word} {acc : Acc} {r : Except Stop Res}
    (h : resolve s w a acc = (s1, r)) : HomeOnly s s1 := by
  have h1 := homeOnly_resolve s w a acc
  rw [h] at h1
  exact h1

/-- So does resolving the pages of an access. -/
theorem homeOnly_resolveAccess (s : State) (w : Who) (a : Word) (n : Nat) (acc : Acc) :
    HomeOnly s (resolveAccess s w a n acc).1 := by
  unfold resolveAccess
  extract_lets n1 a2
  clear_value a2 n1
  split
  · exact .refl s
  split
  · next h => exact .of_resolve h
  · next h => exact .of_resolve h
  next h =>
  split
  · exact .of_resolve h
  split
  · next h' => exact (HomeOnly.of_resolve h).trans (.of_resolve h')
  · next h' => exact (HomeOnly.of_resolve h).trans (.of_resolve h')
  · next h' => exact (HomeOnly.of_resolve h).trans (.of_resolve h')

theorem HomeOnly.of_resolveAccess {s s1 : State} {w : Who} {a : Word} {n : Nat} {acc : Acc} {r : Except Stop Found}
    (h : resolveAccess s w a n acc = (s1, r)) : HomeOnly s s1 := by
  have h1 := homeOnly_resolveAccess s w a n acc
  rw [h] at h1
  exact h1

end Sys2Proof.Machine
end

