-- ==== Sys2Proof/Laws/Words.lean ====
section
/-! SUPPORT. The bits of a word after a field is replaced. -/
namespace Sys2Proof.Machine

theorem testBit_bits (w lo n j : Nat) : (bits w lo n).testBit j = (decide (j < n) && w.testBit (lo + j)) := by
  simp only [bits, Nat.testBit_mod_two_pow, Nat.testBit_div_two_pow]; rw [Nat.add_comm]

theorem putBits_nat (w lo n v : Nat) : w - bits w lo n * 2 ^ lo + v % 2 ^ n * 2 ^ lo = w % 2 ^ lo + 2 ^ lo * (v % 2 ^ n) + 2 ^ (lo + n) * (w / 2 ^ (lo + n)) := by
  have h1 : w = w % 2 ^ lo + 2 ^ lo * bits w lo n + 2 ^ (lo + n) * (w / 2 ^ (lo + n)) := by
    have e1 := Nat.mod_add_div w (2 ^ lo)
    have e2 := Nat.mod_add_div (w / 2 ^ lo) (2 ^ n)
    have e3 : w / 2 ^ lo / 2 ^ n = w / 2 ^ (lo + n) := by rw [Nat.div_div_eq_div_mul, Nat.pow_add]
    rw [e3] at e2
    have e4 : 2 ^ lo * (w / 2 ^ lo) = 2 ^ lo * bits w lo n + 2 ^ (lo + n) * (w / 2 ^ (lo + n)) := by
      conv_lhs => rw [← e2]
      rw [bits, Nat.mul_add, Nat.pow_add, Nat.mul_assoc]
    omega
  have h2 : bits w lo n * 2 ^ lo = 2 ^ lo * bits w lo n := Nat.mul_comm _ _
  have h3 : v % 2 ^ n * 2 ^ lo = 2 ^ lo * (v % 2 ^ n) := Nat.mul_comm _ _
  omega

theorem getLsbD_putBits (w : Word) (lo n v j : Nat) (hj : j < 64) :
    (putBits w lo n v).getLsbD j = if lo ≤ j ∧ j < lo + n then v.testBit (j - lo) else w.getLsbD j := by
  unfold putBits
  rw [BitVec.getLsbD_ofNat, putBits_nat, decide_eq_true hj, Bool.true_and, BitVec.getLsbD, BitVec.testBit_toNat] 
  rw [Nat.add_comm, Nat.testBit_two_pow_mul_add _ (by
    have h1 : v % 2 ^ n < 2 ^ n := Nat.mod_lt _ (by positivity)
    have h2 := Nat.mod_lt w.toNat (show 0 < 2 ^ lo by positivity)
    rw [Nat.pow_add]
    calc w.toNat % 2 ^ lo + 2 ^ lo * (v % 2 ^ n) < 2 ^ lo + 2 ^ lo * (v % 2 ^ n) := by omega
      _ = 2 ^ lo * (v % 2 ^ n + 1) := by ring
      _ ≤ _ := Nat.mul_le_mul_left _ h1)]
  split
  · next h =>
    rw [Nat.add_comm, Nat.testBit_two_pow_mul_add _ (Nat.mod_lt _ (by positivity))]
    split
    · next h' => rw [if_neg (by omega), Nat.testBit_mod_two_pow]; simp [h', BitVec.getLsbD]
    · next h' => rw [if_pos (by omega), Nat.testBit_mod_two_pow]; simp; omega
  · next h => rw [if_neg (by omega), Nat.testBit_div_two_pow]; simp [BitVec.getLsbD]; congr 1; omega

theorem toNat_testBit (w : Word) (j : Nat) : w.toNat.testBit j = w.getLsbD j := by simp [BitVec.getLsbD]

end Sys2Proof.Machine
end

