-- ==== Sys2Proof/Laws/Trap.lean ====
section
/-! SUPPORT. What taking a trap and presenting its record do: the frame of each, the state the context is left in, and the
64 bytes of the record (R37, R328, R329). -/
namespace Sys2Proof.Machine

/-- Everything is as before but memory, poison, caches, the Write Queues, counters, woken contexts, the partition blocks, the
Host Port with the interrupts sent, and the handle of the record's context. -/
structure PostOnly (s t : State) : Prop where
  agenda : t.agenda = s.agenda
  cur : t.cur = s.cur
  issued : t.issued = s.issued
  taken : t.taken = s.taken
  freeCtr : t.freeCtr = s.freeCtr
  cyc : t.cyc = s.cyc
  releases : t.releases = s.releases
  fabric : t.fabric = s.fabric
  front : t.front = { s.front with parts := t.front.parts }
  dev : t.dev = { s.dev with hostQ := t.dev.hostQ, msix := t.dev.msix }
  ctx : ∀ p, ∃ d, Woken (s.ctx p) d ∧ ∃ h, t.ctx p = { d with handle := h }

theorem PostOnly.trans {s t u : State} (h1 : PostOnly s t) (h2 : PostOnly t u) : PostOnly s u where
  agenda := h2.agenda.trans h1.agenda
  cur := h2.cur.trans h1.cur
  issued := h2.issued.trans h1.issued
  taken := h2.taken.trans h1.taken
  freeCtr := h2.freeCtr.trans h1.freeCtr
  cyc := h2.cyc.trans h1.cyc
  releases := h2.releases.trans h1.releases
  fabric := h2.fabric.trans h1.fabric
  front := by rw [h2.front, h1.front]
  dev := by rw [h2.dev, h1.dev]
  ctx p := by
    obtain ⟨d, hd, x, hx⟩ := h1.ctx p
    obtain ⟨e, he, y, hy⟩ := h2.ctx p
    rw [hx] at he
    rcases he with rfl | ⟨t, b, hw, rfl⟩ | ⟨t, b, hw, rfl⟩
    · exact ⟨d, hd, y, hy⟩
    · exact ⟨_, hd.trans (.inr (.inl ⟨t, b, hw, rfl⟩)), y, hy⟩
    · exact ⟨_, hd.trans (.inr (.inr ⟨t, b, hw, rfl⟩)), y, hy⟩

theorem HomeOnly.postOnly {s t : State} (h : HomeOnly s t) : PostOnly s t where
  agenda := h.agenda
  cur := h.cur
  issued := h.issued
  taken := h.taken
  freeCtr := h.freeCtr
  cyc := h.cyc
  releases := h.releases
  fabric := h.fabric
  front := by rw [h.front]
  dev := by rw [h.dev]
  ctx p := ⟨_, h.ctx p, _, rfl⟩

theorem PostOnly.refl (s : State) : PostOnly s s := (HomeOnly.refl s).postOnly

theorem homeOnly_writeRecord (s : State) (pa : Nat) (data : List Byte) : HomeOnly s (writeRecord s pa data) := by
  unfold writeRecord
  exact (((homeOnly_drainLine ..).trans (homeOnly_claimLine ..)).trans (homeOnly_putHome ..)).trans (homeOnly_countBytes ..)

theorem postOnly_noteHandle (s : State) (r : FRec) : PostOnly s (noteHandle s r) := by
  unfold noteHandle
  split
  · dsimp only
    split
    · constructor
      all_goals try rfl
      intro p
      rw [State.ctx_setCtx]
      split
      · next h => exact ⟨s.ctx p, .inl rfl, some r.seq, by rw [h]⟩
      · exact ⟨s.ctx p, .inl rfl, (s.ctx p).handle, rfl⟩
    · exact .refl s
  · exact .refl s

theorem postOnly_setPart (s : State) (n : Nat) (m : Part) : PostOnly s (s.setPart n m) := by
  constructor
  all_goals try rfl
  exact fun p => ⟨s.ctx p, .inl rfl, (s.ctx p).handle, rfl⟩

/-- An MSI-X write, sent or queued. -/
theorem postOnly_sendMsi (s : State) (fn vec : Nat) : PostOnly s (sendMsi s fn vec) := by
  unfold sendMsi
  split
  all_goals
    constructor
    all_goals try rfl
    exact fun p => ⟨s.ctx p, .inl rfl, (s.ctx p).handle, rfl⟩

theorem PostOnly.foldl {α : Type} {f : State → α → State} (h : ∀ s a, PostOnly s (f s a)) (l : List α) (s : State) :
    PostOnly s (l.foldl f s) := by
  induction l generalizing s with
  | nil => exact .refl s
  | cons a r ih => exact (h s a).trans (ih _)

/-- A record posted. -/
theorem postOnly_postNow (s : State) (n : Nat) (r : FRec) : PostOnly s (postNow s n r) := by
  unfold postNow
  dsimp only
  refine .trans ?_ (homeOnly_tally _ _ _ _).postOnly
  refine .trans ?_ (postOnly_noteHandle _ _)
  refine .trans ?_ (.foldl (fun s f => postOnly_sendMsi s f 16) _ _)
  exact (homeOnly_writeRecord ..).postOnly.trans (postOnly_setPart ..)

/-- A record presented: posted or held, the position of a record that names one being noted. -/
theorem postOnly_post (s : State) (n : Nat) (r : FRec) : PostOnly s (post s n r) := by
  unfold post
  extract_lets s1 p
  have h : PostOnly s s1 := by
    show PostOnly s (match r.src with
      | .front => s
      | _ => { s with shown := bits r.pos.toNat 0 14 :: s.shown })
    split
    · exact .refl s
    · constructor
      all_goals try rfl
      exact fun p => ⟨s.ctx p, .inl rfl, (s.ctx p).handle, rfl⟩
  clear_value s1
  split
  · exact h.trans (postOnly_postNow ..)
  · exact h.trans (postOnly_setPart ..)

/-! ### Leases broken -/

/-- Only leases, held lists and the queues behind ended leases change. -/
def LeaseOnly (s t : State) : Prop := t = { s with cores := t.cores, dies := t.dies, releases := t.releases }

theorem LeaseOnly.trans {s t u : State} (h : LeaseOnly s t) (h' : LeaseOnly t u) : LeaseOnly s u := by
  unfold LeaseOnly at *
  rw [h', h]

theorem LeaseOnly.foldl {α : Type} {f : State → α → State} (h : ∀ s a, LeaseOnly s (f s a)) (l : List α) (s : State) :
    LeaseOnly s (l.foldl f s) := by
  induction l generalizing s with
  | nil => rfl
  | cons a r ih => exact (h s a).trans (ih _)

theorem leaseOnly_releaseLine (s : State) (l : Lease) : LeaseOnly s (releaseLine s l) := by
  unfold releaseLine
  dsimp only
  split
  · rfl
  · rfl

theorem leaseOnly_dropLeases (s : State) (pos : Nat) : LeaseOnly s (dropLeases s pos) := by
  unfold dropLeases
  exact LeaseOnly.trans (t := s.setCore _ _) rfl (.foldl leaseOnly_releaseLine _ _)

theorem leaseOnly_withdraw (s : State) (p : Party) : LeaseOnly s (withdraw s p) := by
  unfold withdraw
  extract_lets s1
  have h : LeaseOnly s s1 := by
    refine .foldl (fun s e => ?_) _ _
    dsimp only
    split
    · rfl
    · rfl
  exact LeaseOnly.trans h rfl

/-- A Break: nothing where no lease is held; else LC becomes 0 and LB 1, and beside leases and their queues only the Assize
changes (R163). -/
theorem breakLeases_spec (s : State) (pos : Nat) :
    ((s.core (coreOf pos)).leases.any (·.owner == pos) = false → breakLeases s pos = s)
    ∧ ((s.core (coreOf pos)).leases.any (·.owner == pos) = true →
      ∃ t a, LeaseOnly s t ∧ breakLeases s pos = (t.setAssize a).setCtx pos
        { s.ctx pos with st := setLB (setLC (s.ctx pos).st 0) }) := by
  constructor
  · intro h
    unfold breakLeases
    have h1 : (s.core (coreOf pos)).leases.filter (·.owner == pos) = [] := by
      rw [List.filter_eq_nil_iff]; simpa using h
    simp [h1]
  · intro h
    have h1 : ((s.core (coreOf pos)).leases.filter (·.owner == pos)).length ≠ 0 := by
      rw [Ne, List.length_eq_zero_iff, List.filter_eq_nil_iff]; simpa using h
    obtain ⟨a, ha⟩ := State.tally_eq (dropLeases s pos) (partOf s pos) 37
      ((s.core (coreOf pos)).leases.filter (·.owner == pos)).length
    have hl := leaseOnly_dropLeases s pos
    refine ⟨dropLeases s pos, a, hl, ?_⟩
    have hc : (dropLeases s pos).ctx pos = s.ctx pos := by unfold State.ctx; rw [hl]
    unfold breakLeases
    dsimp only
    rw [if_neg h1, ha, State.ctx_of_setAssize, hc]

theorem setLBLC (st : Word) (j : Nat) (hj : j < 64) : (setLB (setLC st 0)).getLsbD j = if j = 27 ∨ j = 28 then false else if j = 29 then true else st.getLsbD j := by
  unfold setLB setLC
  rw [getLsbD_putBits _ _ _ _ _ hj, getLsbD_putBits _ _ _ _ _ hj]
  by_cases h1 : j = 29
  · subst h1; simp
  · rw [if_neg (by omega)]
    by_cases h2 : j = 27 ∨ j = 28
    · rw [if_pos (by omega)]; simp [h2]
    · rw [if_neg (by omega)]; simp [h1, h2]

theorem bits_pos (s : State) (pos : Nat) (h : pos < 2 ^ 14) : bits (posWord s pos).toNat 0 14 = pos := by
  unfold posWord bits
  rw [BitVec.toNat_ofNat]
  have : bits s.fabric.fid.toNat 0 10 < 2 ^ 10 := bits_lt _ _ _
  unfold bits at this
  omega

theorem readBytes_ext (m m' : Memory) : ∀ (n a : Nat), (∀ i, a ≤ i → i < a + n → Memory.read m i = Memory.read m' i) → Memory.readBytes m a n = Memory.readBytes m' a n
  | 0, _, _ => rfl
  | n + 1, a, h => by
    rw [Memory.readBytes, Memory.readBytes, h a (le_refl _) (by omega), readBytes_ext m m' n (a+1) (fun i h1 h2 => h i (by omega) (by omega))]

theorem readBytes_write : ∀ (l : List Byte) (m : Memory) (a b n : Nat), a ≤ b → b + n ≤ a + l.length →
    Memory.readBytes (Memory.writeBytes m a l) b n = (l.drop (b - a)).take n
  | l, m, a, b, 0, _, _ => by simp [Memory.readBytes]
  | l, m, a, b, n+1, h1, h2 => by
    rw [Memory.readBytes, readBytes_write l m a (b+1) n (by omega) (by omega), Memory.read_writeBytes, if_pos (by omega)]
    have h3 : b - a < l.length := by omega
    rw [List.drop_eq_getElem_cons h3, List.take_succ_cons, List.getD_eq_getElem _ _ h3, show b + 1 - a = b - a + 1 by omega]

/-! ### What posting writes -/

theorem noteHandle_mem (s : State) (r : FRec) : (noteHandle s r).mem = s.mem ∧ (noteHandle s r).front = s.front ∧ (noteHandle s r).dev = s.dev := by
  unfold noteHandle
  split
  · dsimp only
    split
    · exact ⟨rfl, rfl, rfl⟩
    · exact ⟨rfl, rfl, rfl⟩
  · exact ⟨rfl, rfl, rfl⟩

theorem noteHandle_part (s : State) (r : FRec) (k : Nat) : (noteHandle s r).part k = s.part k := by
  unfold State.part; rw [(noteHandle_mem s r).2.1]

theorem sendMsi_mem (l : List Nat) (s : State) :
    (l.foldl (fun s f => sendMsi s f 16) s).mem = s.mem ∧ (l.foldl (fun s f => sendMsi s f 16) s).front = s.front
      ∧ (l.foldl (fun s f => sendMsi s f 16) s).ctxs = s.ctxs := by
  induction l generalizing s with
  | nil => exact ⟨rfl, rfl, rfl⟩
  | cons f r ih =>
    have h : (sendMsi s f 16).mem = s.mem ∧ (sendMsi s f 16).front = s.front ∧ (sendMsi s f 16).ctxs = s.ctxs := by
      unfold sendMsi
      split
      · exact ⟨rfl, rfl, rfl⟩
      · exact ⟨rfl, rfl, rfl⟩
    rw [List.foldl_cons, (ih _).1, (ih _).2.1, (ih _).2.2]
    exact h

/-- The record as the ring takes it. -/
def posted (s : State) (n : Nat) (r : FRec) : FRec :=
  { r with seq := (s.part n).nextSeq, slot := recAddr (s.part n) (s.part n).fqprod }

/-- The line of the ring's next slot once pending reductions there are performed and its owner has given it up. -/
def ringReady (s : State) (n : Nat) : State :=
  let a := recAddr (s.part n) (s.part n).fqprod
  claimLine (drainLine s (lineOf a)) .own (lineOf a)

theorem writeRecord_mem (s : State) (pa : Nat) (data : List Byte) :
    (writeRecord s pa data).mem = Memory.writeBytes (claimLine (drainLine s (lineOf pa)) .own (lineOf pa)).mem pa data := by
  have h : ∀ (t : State) k w, (countBytes t none pa k w).mem = t.mem := fun t k w => by
    unfold countBytes
    split
    · simp
    all_goals rfl
  unfold writeRecord
  rw [h]
  rfl

theorem postNow_mem (s : State) (n : Nat) (r : FRec) :
    (postNow s n r).mem = Memory.writeBytes (ringReady s n).mem (recAddr (s.part n) (s.part n).fqprod) (posted s n r).bytes := by
  unfold postNow
  dsimp only
  rw [State.tally_mem, (noteHandle_mem _ _).1, (sendMsi_mem _ _).1, State.setPart_mem, writeRecord_mem]
  rfl

theorem postNow_part (s : State) (n : Nat) (r : FRec) : (postNow s n r).part n = { s.part n with
    fqprod := (s.part n).fqprod + 1
    nextSeq := (s.part n).nextSeq + 1
    recs := (s.part n).recs ++ [posted s n r] } := by
  unfold postNow
  dsimp only
  rw [State.tally_part, noteHandle_part]
  unfold State.part
  rw [(sendMsi_mem _ _).2.1]
  exact Sparse.get_set_same _ _ _ _

/-! ### The state that a trap leaves -/

/-- The state that a trap leaves before its record is presented. -/
def trapped (s : State) (pos : Nat) : State :=
  let s1 := withdraw (breakLeases s pos) (.ctx pos)
  s1.setCtx pos { s1.ctx pos with run := .faulted, port := none, wait := .none, handle := none }

theorem takeTrap_some {s : State} {pos n : Nat} (x : Trap) (h : partOf s pos = some n) :
    takeTrap s pos x = post (trapped s pos) n (ctxRec s pos x) := by
  unfold takeTrap; rw [h]; rfl

theorem takeTrap_none {s : State} {pos : Nat} (x : Trap) (h : partOf s pos = none) : takeTrap s pos x = trapped s pos := by
  unfold takeTrap; rw [h]; rfl

/-- Beside leases, their queues and the Assize, a Break and a withdrawal change only the context's LC and LB. -/
theorem withdrawn_spec (s : State) (pos : Nat) :
    let u := withdraw (breakLeases s pos) (.ctx pos)
    let st := if (s.core (coreOf pos)).leases.any (·.owner == pos) then setLB (setLC (s.ctx pos).st 0) else (s.ctx pos).st
    u.mem = s.mem ∧ u.front = s.front ∧ u.dev = s.dev ∧ u.poison = s.poison ∧ u.quires = s.quires ∧ u.fabric = s.fabric
      ∧ u.ctx pos = { s.ctx pos with st := st } ∧ ∀ p, p ≠ pos → u.ctx p = s.ctx p := by
  intro u st
  obtain ⟨hb1, hb2⟩ := breakLeases_spec s pos
  have hw : LeaseOnly (breakLeases s pos) u := leaseOnly_withdraw (breakLeases s pos) (.ctx pos)
  have hc : ∀ p, u.ctx p = (breakLeases s pos).ctx p := fun p => by unfold State.ctx; rw [hw]
  clear_value u
  cases hh : (s.core (coreOf pos)).leases.any (·.owner == pos)
  · rw [hb1 hh] at hw hc
    have hst : st = (s.ctx pos).st := by simp [st, hh]
    rw [hst]
    exact ⟨by rw [hw], by rw [hw], by rw [hw], by rw [hw], by rw [hw], by rw [hw], hc pos, fun p _ => hc p⟩
  · obtain ⟨t, a, h1, h2⟩ := hb2 hh
    have hst : st = setLB (setLC (s.ctx pos).st 0) := by simp [st, hh]
    rw [hst]
    rw [h2] at hw hc
    have ht : ∀ p, t.ctx p = s.ctx p := fun p => by unfold State.ctx; rw [h1]
    refine ⟨?_, ?_, ?_, ?_, ?_, ?_, ?_, fun p hp => ?_⟩
    · rw [hw]; show t.mem = s.mem; rw [h1]
    · rw [hw]; show t.front = s.front; rw [h1]
    · rw [hw]; show t.dev = s.dev; rw [h1]
    · rw [hw]; show t.poison = s.poison; rw [h1]
    · rw [hw]; show t.quires = s.quires; rw [h1]
    · rw [hw]; show t.fabric = s.fabric; rw [h1]
    · rw [hc, State.ctx_setCtx_same]
    · rw [hc, State.ctx_setCtx, if_neg hp, State.ctx_of_setAssize, ht]

/-- A trap leaves its context FAULTED, its access gone, no record its own yet, and LC and LB telling of a Break. -/
theorem trapped_ctx (s : State) (pos : Nat) : (trapped s pos).ctx pos = { s.ctx pos with
    st := if (s.core (coreOf pos)).leases.any (·.owner == pos) then setLB (setLC (s.ctx pos).st 0) else (s.ctx pos).st
    run := .faulted, port := none, wait := .none, handle := none } := by
  obtain ⟨-, -, -, -, -, -, h, -⟩ := withdrawn_spec s pos
  generalize (if (s.core (coreOf pos)).leases.any (·.owner == pos) then setLB (setLC (s.ctx pos).st 0) else (s.ctx pos).st) = x at h ⊢
  exact (State.ctx_setCtx_same ..).trans
    (congrArg (fun c : Ctx => { c with run := .faulted, port := none, wait := .none, handle := none }) h)

theorem trapped_other (s : State) {pos p : Nat} (h : p ≠ pos) : (trapped s pos).ctx p = s.ctx p := by
  obtain ⟨-, -, -, -, -, -, -, h'⟩ := withdrawn_spec s pos
  exact (State.ctx_setCtx ..).trans ((if_neg h).trans (h' p h))

theorem trapped_frame (s : State) (pos : Nat) : (trapped s pos).mem = s.mem ∧ (trapped s pos).front = s.front
    ∧ (trapped s pos).dev = s.dev ∧ (trapped s pos).poison = s.poison := by
  obtain ⟨h1, h2, h3, h4, -⟩ := withdrawn_spec s pos
  exact ⟨(State.setCtx_mem ..).trans h1, (State.setCtx_front ..).trans h2, (State.setCtx_dev ..).trans h3,
    (State.setCtx_poison ..).trans h4⟩

theorem encOf_length (c : Ctx) : (encOf c).length = 16 := by
  unfold encOf
  split
  · dsimp only
    split
    · simp
    · split
      · simp
      · next b0 r h =>
        rw [List.length_append, List.length_replicate]
        rw [Nat.add_sub_cancel']
        have : lenBytes (b0.toNat % 4 % 3) ≤ 16 := by unfold lenBytes; omega
        rw [List.length_take]; omega
  · simp


theorem pick {α : Type} (a b c : List α) (o k : Nat) (h : a.length = o) (h2 : b.length = k) : ((a ++ (b ++ c)).drop o).take k = b := by
  subst h h2; simp

theorem recBytes (r : FRec) (h : r.enc.length = 16) (hs : r.trap.sub < 256) (hch : r.ch < 8) (hk : r.kdone < 2 ^ 16) (hg : r.grp < 16) (ht : r.tile < 256) :
   r.bytes.length = 64 ∧ ofBytes ((r.bytes.drop 0).take 8) = r.trap.cause.code + 2 ^ 8 * r.trap.sub + 2 ^ 16 * r.trap.acc.code + 2 ^ 20 * r.src.code + 2 ^ 24 * r.ch + 2 ^ 32 * r.slotgen.toNat
   ∧ ofBytes ((r.bytes.drop 8).take 8) = r.pos.toNat ∧ ofBytes ((r.bytes.drop 16).take 8) = r.pc.toNat ∧ ofBytes ((r.bytes.drop 24).take 8) = r.trap.info.toNat
   ∧ (r.bytes.drop 32).take 16 = r.enc ∧ ofBytes ((r.bytes.drop 48).take 8) = r.kdone + 2 ^ 20 * r.grp + 2 ^ 24 * r.tile ∧ ofBytes ((r.bytes.drop 56).take 8) = r.seq.toNat := by
  unfold FRec.bytes
  rw [h, Nat.sub_self, List.replicate_zero, List.append_nil, List.take_of_length_le (Nat.le_of_eq h)]
  generalize hw0 : pack [(8, r.trap.cause.code), (8, r.trap.sub), (4, r.trap.acc.code), (4, r.src.code), (3, r.ch), (5, 0), (32, r.slotgen.toNat)] = w0
  generalize hw1 : pack [(16, r.kdone), (4, 0), (4, r.grp), (8, r.tile), (32, 0)] = w1
  have e0 : w0 = r.trap.cause.code + 2 ^ 8 * r.trap.sub + 2 ^ 16 * r.trap.acc.code + 2 ^ 20 * r.src.code + 2 ^ 24 * r.ch + 2 ^ 32 * r.slotgen.toNat ∧ w0 < 2 ^ 64 := by
    have h1 : r.trap.cause.code < 2 ^ 8 := by cases r.trap.cause <;> decide
    have h2 : r.trap.acc.code < 2 ^ 4 := by cases r.trap.acc <;> decide
    have h3 := r.slotgen.isLt
    have h4 : r.src.code < 2 ^ 4 := by cases r.src <;> simp [Source.code]
    rw [← hw0]
    simp only [pack]
    omega
  have e1 : w1 = r.kdone + 2 ^ 20 * r.grp + 2 ^ 24 * r.tile ∧ w1 < 2 ^ 64 := by
    rw [← hw1]; simp only [pack]; omega
  have hb : ∀ w, w < 2 ^ 64 → ofBytes (toBytes 8 w) = w := by intro w h; rw [ofBytes_toBytes]; exact Nat.mod_eq_of_lt (by omega)
  simp only [List.append_assoc]
  refine ⟨by simp [h], ?_, ?_, ?_, ?_, ?_, ?_, ?_⟩
  · rw [← e0.1]
    have := pick [] (toBytes 8 w0) (toBytes 8 r.pos.toNat ++ (toBytes 8 r.pc.toNat ++ (toBytes 8 r.trap.info.toNat ++ (r.enc ++ (toBytes 8 w1 ++ toBytes 8 r.seq.toNat))))) 0 8 rfl (toBytes_length _ _)
    rw [List.nil_append] at this
    rw [this, hb _ e0.2]
  · rw [pick (toBytes 8 w0) (toBytes 8 r.pos.toNat) _ 8 8 (by simp) (by simp), hb _ r.pos.isLt]
  · rw [← List.append_assoc, pick _ (toBytes 8 r.pc.toNat) _ 16 8 (by simp) (by simp), hb _ (Nat.lt_trans r.pc.isLt (by decide))]
  · rw [← List.append_assoc, ← List.append_assoc, pick _ (toBytes 8 r.trap.info.toNat) _ 24 8 (by simp) (by simp), hb _ r.trap.info.isLt]
  · rw [← List.append_assoc, ← List.append_assoc, ← List.append_assoc, pick _ r.enc _ 32 16 (by simp) h]
  · rw [← List.append_assoc, ← List.append_assoc, ← List.append_assoc, ← List.append_assoc, pick _ (toBytes 8 w1) _ 48 8 (by simp [h]) (by simp), hb _ e1.2, e1.1]
  · rw [← List.append_assoc, ← List.append_assoc, ← List.append_assoc, ← List.append_assoc, ← List.append_assoc]
    have := pick (((((toBytes 8 w0 ++ toBytes 8 r.pos.toNat) ++ toBytes 8 r.pc.toNat) ++ toBytes 8 r.trap.info.toNat) ++ r.enc) ++ toBytes 8 w1) (toBytes 8 r.seq.toNat) [] 56 8 (by simp [h]) (by simp)
    rw [List.append_nil] at this
    rw [this, hb _ r.seq.isLt]

end Sys2Proof.Machine
end

