-- ==== Sys2Proof/Safety.lean ====
section
/-! DEFINITION. What a safe run is: every step has a next state. -/
namespace Sys2Proof

/-- The machine runs `k` steps from `s` without a fault or a refusal. -/
def SafeFor (k : Nat) (s : Machine.State) : Prop := ∃ t, core.run k s = .next t

end Sys2Proof
end

