-- ==== Sys2Proof/Tests/Slice0.lean ====
section
/-! SUPPORT. Tests: the words of every instruction, written out from the encoding tables of the spec; terms that are not
well formed; states and operands that meet the hypotheses of the statements; and single steps on small states. -/
namespace Sys2Proof.Tests
open Sys2Proof.Machine Sys2Proof.Claims
set_option Elab.async false
set_option maxRecDepth 20000
set_option exponentiation.threshold 600
set_option synthInstance.maxSize 4096
set_option synthInstance.maxHeartbeats 400000

/-- Word `w` of `n` bits decodes to `i`. -/
abbrev reads (n w : Nat) (i : Instr) : Prop := decodeTableWord n w = some i


/-! ### Decoding: each word is made from the bit positions of R61, R65 to R73 and the rows of R81, R114, R174, R200, R231
and R253, or is one of the spec's worked encodings -/

theorem test_decode_control :
    reads 64 0x34004 (.nop ⟨5, true⟩) ∧
    reads 64 0xFFFFFFFF4001C008 (.br ⟨7, false⟩ 0x3FFFFFFFD) ∧
    reads 64 0x5555555573140408 (.brTile ⟨0, false⟩ 0xC5 4 true 0x155555555) ∧
    reads 64 0x8C180808 (.brChan ⟨0, false⟩ 6 3 false 2) ∧
    reads 64 0x36400C (.jmp ⟨1, true⟩ 13) ∧
    reads 64 0xAAAAAAAA80000010 (.call ⟨0, false⟩ 0x2AAAAAAAA) ∧
    reads 64 0x240410 (.callReg ⟨0, false⟩ 9) ∧
    reads 64 0x8014 (.ret ⟨2, false⟩) := by decide

theorem test_decode_control2 :
    reads 64 0xABCDE00000000018 (.align ⟨0, false⟩ 0xABCDE) ∧
    reads 64 0x30028038001C (.gchunk ⟨0, false⟩ 5 14 3) ∧
    reads 64 0x6A5000C0001C (.gchunkInit ⟨0, false⟩ 2 3 5 10) ∧
    reads 64 0x2DC140020 (.fmt ⟨5, true, true, 0x18, 0x05⟩) := by decide

theorem test_decode_integer :
    reads 64 0x6403C00040 (.add ⟨0, false⟩ ⟨.dflt, 0, 15, .reg 6, true⟩) ∧
    reads 64 0xA000005C43840044 (.sub ⟨0, false⟩ ⟨.s8, 1, 14, .imm (.i28 0xA000005), true⟩) ∧
    reads 96 0xA00000000000005C47480049 (.mul ⟨0, false⟩ ⟨.s16, 2, 13, .imm (.i60 0xA00000000000005), true⟩) ∧
    reads 128 0xA000000000000005000000084B0C004E (.mulh ⟨0, false⟩ ⟨.s32, 3, 12, .imm (.i64 0xA000000000000005), false⟩) ∧
    reads 64 0xA44ED00050 (.div ⟨0, false⟩ ⟨.s64, 4, 11, .reg 10, true⟩) ∧
    reads 64 0xA000005852940054 (.rem ⟨0, false⟩ ⟨.n8, 5, 10, .imm (.i28 0xA000005), false⟩) ∧
    reads 96 0xA00000000000005856580059 (.and ⟨0, false⟩ ⟨.n16, 6, 9, .imm (.i60 0xA00000000000005), false⟩) ∧
    reads 128 0xA000000000000005000000085A1C005E (.or ⟨0, false⟩ ⟨.n32, 7, 8, .imm (.i64 0xA000000000000005), false⟩) := by decide

theorem test_decode_integer2 :
    reads 64 0xE05DE00060 (.xor ⟨0, false⟩ ⟨.n64, 8, 7, .reg 14, false⟩) ∧
    reads 64 0xA000005801A40064 (.andn ⟨0, false⟩ ⟨.dflt, 9, 6, .imm (.i28 0xA000005), false⟩) ∧
    reads 96 0xA00000000000005841680069 (.shl ⟨0, false⟩ ⟨.s8, 10, 5, .imm (.i60 0xA00000000000005), false⟩) ∧
    reads 128 0xA00000000000000500000008452C006E (.shr ⟨0, false⟩ ⟨.s16, 11, 4, .imm (.i64 0xA000000000000005), false⟩) ∧
    reads 64 0x2048F00070 (.sha ⟨0, false⟩ ⟨.s32, 12, 3, .reg 2, false⟩) ∧
    reads 64 0xA00000584CB40074 (.rot ⟨0, false⟩ ⟨.s64, 13, 2, .imm (.i28 0xA000005), false⟩) ∧
    reads 96 0xA00000000000005850780079 (.min ⟨0, false⟩ ⟨.n8, 14, 1, .imm (.i60 0xA00000000000005), false⟩) ∧
    reads 128 0xA00000000000000500000008543C007E (.max ⟨0, false⟩ ⟨.n16, 15, 0, .imm (.i64 0xA000000000000005), false⟩) := by decide

theorem test_decode_bits :
    reads 64 0x53840080 (.clz ⟨0, false⟩ ⟨.n8, 1, 14⟩) ∧
    reads 64 0x47480084 (.ctz ⟨0, false⟩ ⟨.s16, 2, 13⟩) ∧
    reads 64 0x30C0088 (.popc ⟨0, false⟩ ⟨.dflt, 3, 12⟩) ∧
    reads 64 0x12B50005F0C008C (.bfx ⟨0, false⟩ .n64 3 12 0x35 0x4A) ∧
    reads 64 0xD4A000021C0090 (.bfi ⟨0, false⟩ 7 8 0x0A 0x35) ∧
    reads 64 0x4A5C0094 (.sext ⟨0, false⟩ .s32 7 9) ∧
    reads 64 0x56580098 (.zext ⟨0, false⟩ .n16 6 9) ∧
    reads 64 0x29B809C (.mov ⟨6, true⟩ 6 10) := by decide

theorem test_decode_bits2 :
    reads 64 0x80000018002C00A0 (.movi ⟨0, false⟩ 11 (.i28 0x8000001)) ∧
    reads 96 0x8000000000000018002C00A1 (.movi ⟨0, false⟩ 11 (.i60 0x800000000000001)) ∧
    reads 128 0x800000000000000100000008002C00A2 (.movi ⟨0, false⟩ 11 (.i64 0x8000000000000001)) ∧
    reads 64 0x315C8800A4 (.cmp ⟨0, false⟩ .lt .n64 2 2 (.reg 3)) ∧
    reads 64 0x3AC11800A4 (.cmp ⟨0, false⟩ .tst .s8 5 4 (.imm (.i28 3))) ∧
    reads 64 0x43008400A8 (.sel ⟨0, false⟩ 1 6 2 4) ∧
    reads 64 0x4315002C8400AC (.lea ⟨0, false⟩ 1 (.index 2 11 5 0x43)) ∧
    reads 64 0x1000008400B0 (.vqual ⟨0, false⟩ 1 2 true) := by decide

theorem test_decode_bits3 :
    reads 64 0xC0008400B4 (.vset ⟨0, false⟩ 1 2 (.reg 12)) ∧
    reads 64 0x191000008400B4 (.vset ⟨0, false⟩ 1 2 (.imm 0x91)) ∧
    reads 64 0x12000B8 (.vget ⟨0, false⟩ 8 4) ∧
    reads 64 0x21000BC (.vclr ⟨0, false⟩ 4 8) := by decide

theorem test_decode_float :
    reads 64 0xD0058400C0 (.fadd ⟨0, false⟩ ⟨.f64, 1, 6, 13⟩) ∧
    reads 64 0xD0098400C4 (.fsub ⟨0, false⟩ ⟨.f32, 1, 6, 13⟩) ∧
    reads 64 0xD00D8400C8 (.fmul ⟨0, false⟩ ⟨.bf16, 1, 6, 13⟩) ∧
    reads 64 0xD0118400D0 (.fdiv ⟨0, false⟩ ⟨.f16, 1, 6, 13⟩) ∧
    reads 64 0xD0058400D8 (.fmin ⟨0, false⟩ ⟨.f64, 1, 6, 13⟩) ∧
    reads 64 0xD0098400DC (.fmax ⟨0, false⟩ ⟨.f32, 1, 6, 13⟩) ∧
    reads 64 0xAD0118400CC (.fma ⟨0, false⟩ .f16 1 6 13 10) ∧
    reads 64 0xD8400D4 (.fsqrt ⟨0, false⟩ .bf16 1 6) := by decide

theorem test_decode_float2 :
    reads 64 0x328A5800E0 (.fcmp ⟨0, false⟩ .un .f32 5 9 3) ∧
    reads 64 0x5004625800E4 (.fcvt ⟨0, false⟩ .s4 .e4m3 true 6 9) ∧
    reads 64 0x65800E8 (.fclass ⟨0, false⟩ .f64 6 9) := by decide

theorem test_decode_memory :
    reads 64 0xC00A00100 (.ld ⟨0, false⟩ .b64 .dflt 8 (.base8 2 0 0)) ∧
    reads 96 0x800000000181004400A00105 (.ldx ⟨0, false⟩ .b16 .na 8 (.base40 2 0x8000000001 0x81)) ∧
    reads 128 0xFEDCBA9876543210004002880020010A (.st ⟨0, false⟩ .b32 .strm 8 (.abs 0xFEDCBA9876543210 0x40)) ∧
    reads 64 0x11C01A50010C (.ldp ⟨0, false⟩ .keep 4 (.index 9 6 4 0)) ∧
    reads 64 0xF800000002500110 (.stp ⟨0, false⟩ .dflt 4 (.base8 9 0xF8 0)) ∧
    reads 64 0x4100004002400114 (.pref ⟨0, false⟩ .na (.base8 9 0x41 0)) ∧
    reads 64 0x100C00282540118 (.waitline ⟨0, false⟩ .b8 .dflt 5 6 10 (.base8 9 1 0)) ∧
    reads 64 0x100002A8254251C (.atom ⟨0, false⟩ .addF .b32 .v .dflt 5 10 (.base8 9 1 0)) := by decide

theorem test_decode_memory2 :
    reads 64 0x3E8254211C (.atom ⟨0, false⟩ .swap .b64 .s .dflt 5 10 (.base8 9 0 0)) ∧
    reads 64 0x601E9A540120 (.cas ⟨0, false⟩ .b64 .d .dflt 5 3 10 6 (.base8 9 0 0)) ∧
    reads 64 0x60229A500124 (.cas2 ⟨0, false⟩ .v .dflt 4 3 10 6 (.base8 9 0 0)) ∧
    reads 64 0x682401928 (.red ⟨0, false⟩ .minN .b16 .q .dflt 10 (.base8 9 0 0)) ∧
    reads 64 0x2000C080012C (.lease ⟨0, false⟩ 1 3 (.base8 2 0 0)) ∧
    reads 64 0xA00000000130 (.lend ⟨0, false⟩ 5) ∧
    reads 64 0x40000000134 (.fence ⟨0, false⟩ .d) ∧
    reads 64 0x800000002540138 (.barArrive ⟨0, false⟩ 5 (.base8 9 8 0)) := by decide

theorem test_decode_memory3 :
    reads 64 0x800000002540538 (.barWait ⟨0, false⟩ 5 (.base8 9 8 0)) := by decide

theorem test_decode_threads :
    reads 64 0x100014D00140 (.spawn ⟨0, false⟩ 4 1 3 5) ∧
    reads 64 0x1A000001C0144 (.reap ⟨0, false⟩ 7 10 true) ∧
    reads 64 0xC148 (.halt ⟨3, false⟩) ∧
    reads 64 0x30014C (.wfw ⟨0, false⟩ 12) ∧
    reads 64 0xD500000F00150 (.migr ⟨0, false⟩ 12 3 0x55 true) := by decide

theorem test_decode_tiles :
    reads 96 0x1234ABCD008000004A040155 (.talloc ⟨0, false⟩ true 0x81 0x12 0xABCD 0x1234) ∧
    reads 64 0x72C000002040154 (.tallocProd ⟨0, false⟩ 0x81 3 11) ∧
    reads 64 0x28C0158 (.tfree ⟨0, false⟩ 0xA3) ∧
    reads 64 0x29800028C00015C (.tstate ⟨0, false⟩ 6 5 0xA3) ∧
    reads 64 0x20000028C000160 (.twait ⟨0, false⟩ 0xA3 4) ∧
    reads 96 0xFFFFFFC000000000F0240165 (.dkld ⟨0, false⟩ 0x3C 9 0xFFFFFFC0) ∧
    reads 64 0x624000000F00168 (.dkset ⟨0, false⟩ 0x3C .part (.reg 9)) ∧
    reads 96 0x800000010A80000000F00169 (.dkset ⟨0, false⟩ 0x3C .ext4 (.imm 0x80000001)) := by decide

theorem test_decode_copy :
    reads 96 0x40800016D (.copyIn ⟨0, false⟩ 2 1 0) ∧
    reads 96 0x1400464800056D (.copyOut ⟨0, false⟩ 0x92 0x11 5) ∧
    reads 96 0x55001401C648280171 (.copyr ⟨0, false⟩ 5 10 0x55 0x92 0x71) ∧
    reads 96 0x18004648000175 (.copym ⟨0, false⟩ 0x92 0x11 6) ∧
    reads 96 0x840179 (.wmark ⟨0, false⟩ 0 1 2) ∧
    reads 96 0x100C000000240179 (.wmarkGet ⟨0, false⟩ 9 3) ∧
    reads 96 0x1C00000000017D (.chwait ⟨0, false⟩ 7) := by decide

theorem test_decode_vector :
    reads 64 0x4000910A040180 (.vadd ⟨0, false⟩ ⟨0x81, 0x42, .tile 0x24, true⟩) ∧
    reads 64 0xA400010A040184 (.vsub ⟨0, false⟩ ⟨0x81, 0x42, .reg 9, false⟩) ∧
    reads 64 0x84000028480188 (.vmul ⟨0, false⟩ ⟨18, 10, .reg 1, false⟩) ∧
    reads 64 0x34403C44018C (.vfma ⟨0, false⟩ 17 15 (.tt 16 13)) ∧
    reads 64 0xA60C000804018C (.vfma ⟨0, false⟩ 1 2 (.rt 9 0x83)) ∧
    reads 64 0x124020C0804018C (.vfma ⟨0, false⟩ 1 2 (.tr 0x83 9)) ∧
    reads 64 0x910A040190 (.vdiv ⟨0, false⟩ ⟨0x81, 0x42, .tile 0x24, false⟩) ∧
    reads 64 0x10A040194 (.vsqrt ⟨0, false⟩ ⟨0x81, 0x42, false⟩) := by decide

theorem test_decode_vector2 :
    reads 64 0x10A040198 (.vrsqrt ⟨0, false⟩ ⟨0x81, 0x42, false⟩) ∧
    reads 64 0x10A04019C (.vexp2 ⟨0, false⟩ ⟨0x81, 0x42, false⟩) ∧
    reads 64 0x10A0401A0 (.vlog2 ⟨0, false⟩ ⟨0x81, 0x42, false⟩) ∧
    reads 64 0x910A0401A4 (.vmin ⟨0, false⟩ ⟨0x81, 0x42, .tile 0x24, false⟩) ∧
    reads 64 0x4000910A0401A8 (.vmax ⟨0, false⟩ ⟨0x81, 0x42, .tile 0x24, true⟩) ∧
    reads 64 0x4000010A0401AC (.vabs ⟨0, false⟩ ⟨0x81, 0x42, true⟩) ∧
    reads 64 0x4000010A0401B0 (.vneg ⟨0, false⟩ ⟨0x81, 0x42, true⟩) ∧
    reads 64 0x6A40000080401B4 (.vcmp ⟨0, false⟩ .un 1 2 (.reg 9)) := by decide

theorem test_decode_vectorMoves :
    reads 64 0x2100C080401B8 (.vsel ⟨0, false⟩ 1 2 3 (.tile 0x84)) ∧
    reads 64 0x134000C080401B8 (.vsel ⟨0, false⟩ 1 2 3 (.reg 13)) ∧
    reads 64 0x4000010A0401BC (.vcvt ⟨0, false⟩ ⟨0x81, 0x42, true⟩) ∧
    reads 64 0x10A0401C0 (.vquant ⟨0, false⟩ ⟨0x81, 0x42, false⟩) ∧
    reads 64 0x9C000010A0401C4 (.vred ⟨0, false⟩ ⟨.max, 0x81, 0x42, 3, true⟩) ∧
    reads 64 0x160000010A0401C8 (.vscan ⟨0, false⟩ ⟨.xor, 0x81, 0x42, 4, false⟩) ∧
    reads 64 0x108000010A0401CC (.vtrans ⟨0, false⟩ 0x81 0x42 1 4) ∧
    reads 64 0x10002650A0401D0 (.vperm ⟨0, false⟩ 0x81 0x42 0x99 2) := by decide

theorem test_decode_vectorMoves2 :
    reads 64 0x2A800010A0401D4 (.vgath ⟨0, false⟩ 0x81 0x42 10 5) ∧
    reads 64 0x1A80265080001D8 (.vscat ⟨0, false⟩ 0x42 0x99 10 3) ∧
    reads 64 0x10A0401DC (.vbcast ⟨0, false⟩ 0x81 (.tile 0x42)) ∧
    reads 64 0x9C0000020401DC (.vbcast ⟨0, false⟩ 0x81 (.reg 7)) ∧
    reads 64 0xAA9C0001080001E0 (.vext ⟨0, false⟩ 7 0x42 (.short 0x155)) ∧
    reads 96 0x12345678001C0000010801E5 (.vins ⟨0, false⟩ 0x42 7 (.long 0x12345678)) ∧
    reads 64 0xF80000000C0C01E8 (.vshift ⟨0, false⟩ 3 3 0 (.short 0x1F) none) ∧
    reads 96 0x8000000005180000100C01E9 (.vshift ⟨0, false⟩ 3 4 2 (.long 0x80000000) (some 6)) := by decide

theorem test_decode_matrix :
    reads 96 0x400001410000201 (.mma ⟨0, false⟩ true 4 (.tile 5) 0 0 0 0) ∧
    reads 96 0x4000202800240C20000205 (.mmas ⟨0, false⟩ .k8 false 8 (.dk 3) 9 32 64) ∧
    reads 96 0x1234567809BA441410000201 (.mma ⟨0, false⟩ false 4 (.dk 5) 0x91 0x6E 0x5678 0x1234) ∧
    reads 96 0x4000000C00001410000209 (.mmg ⟨0, false⟩ true true 4 5 0 0x40) ∧
    reads 96 0x40000000000020D (.mzero ⟨0, false⟩ true) ∧
    reads 96 0x2000001400000028000211 (.mst ⟨0, false⟩ false true true 10 0 32) ∧
    reads 96 0x30215 (.mwait ⟨4, true⟩) := by decide

theorem test_decode_system :
    reads 64 0x297001C0240 (.srd ⟨0, false⟩ 7 0xA5C) ∧
    reads 64 0x168C1C00244 (.swr ⟨0, false⟩ 0x5A3 7) ∧
    reads 64 0xABCDE00000000248 (.trap ⟨0, false⟩ 0xABCDE) ∧
    reads 64 0x240024C (.eret ⟨0, false⟩ 9) ∧
    reads 64 0x20001A40024C (.eretSt ⟨0, false⟩ 9 6) ∧
    reads 64 0x10000240024C (.eretAbort ⟨0, false⟩ 9 none) ∧
    reads 64 0x2400250 (.tlbiAsid ⟨0, false⟩ 9) ∧
    reads 64 0x1A400650 (.tlbiAddr ⟨0, false⟩ 9 6) := by decide

theorem test_decode_system2 :
    reads 64 0xABCDE0001A400A50 (.tlbiRange ⟨0, false⟩ 9 6 0xABCDE) ∧
    reads 64 0x600002400E50 (.tlbiKind ⟨0, false⟩ 9 6) ∧
    reads 64 0x1250 (.tlbiAll ⟨0, false⟩) ∧
    reads 64 0x1A400254 (.cwb ⟨0, false⟩ 9 6) ∧
    reads 64 0x1A400258 (.cinv ⟨0, false⟩ 9 6) ∧
    reads 64 0x550000240025C (.flushtag ⟨0, false⟩ 0x55 9) ∧
    reads 64 0x2D00000240260 (.mread ⟨0, false⟩ 9 0x2D) ∧
    reads 64 0x5432100000000264 (.idle ⟨0, false⟩ 0x54321) := by decide


/-! ### Terms that are not well formed, one for each check of WellFormed -/

def g0 : Guard := ⟨0, false⟩

/-- R64, R67, R73, R75, R83, R114, R116, R175, R201: selector values that an entry does not accept. -/
theorem test_ill_formed :
    [Instr.nop ⟨0, true⟩, .br ⟨0, true⟩ 0, .brTile g0 0 5 false 0, .brChan g0 0 4 false 0, .fmt ⟨6, false, false, 0, 0⟩,
      .fmt ⟨0, false, false, 0x0D, 0⟩, .fmt ⟨0, false, false, 0, 0x19⟩, .mulh g0 ⟨.s8, 0, 0, .reg 0, true⟩,
      .rot g0 ⟨.s8, 0, 0, .imm (.i28 0), true⟩, .ld g0 .b8 .dflt 0 (.base8 0 0 0x3F), .lea g0 0 (.base40 0 0 0x44),
      .lea g0 0 (.index 0 0 6 0), .st g0 .b8 .dflt 0 (.abs 0 0x7F), .atom g0 .addF .b16 .v .dflt 0 0 (.base8 0 0 0),
      .cas g0 .b8 .v .dflt 0 0 0 0 (.index 0 0 0 0), .cas2 g0 .v .dflt 0 0 0 0 (.index 0 0 0 0),
      .red g0 .swap .b8 .v .dflt 0 (.base8 0 0 0), .red g0 .addF .b8 .v .dflt 0 (.base8 0 0 0), .twait g0 0 5,
      .vsqrt g0 ⟨0, 0, true⟩, .vred g0 ⟨.add, 0, 0, 5, false⟩, .vtrans g0 0 0 5 0, .vtrans g0 0 0 0 5, .vperm g0 0 0 0 5,
      .vgath g0 0 0 0 6, .vscat g0 0 0 0 6, .vshift g0 0 0 5 (.short 0) none].all (fun i => !i.wf) = true := by decide

/-- R1, R8, R361, R365, R368: arguments of events that lie outside the device. -/
theorem test_ill_formed_events :
    [Instr.fetchBlockDelivery 128, .waitRetest 16384, .writeBack ⟨true, 4, 0⟩, .drop ⟨false, 128, 0⟩,
      .orderPointTake 4 ⟨0, 0, 0, none, .read, true⟩, .orderPointTake 0 ⟨0, 4, 0, none, .read, true⟩,
      .orderPointTake 0 ⟨0, 0, 1024, none, .read, true⟩,
      .notificationDelivery 4, .recordDelivery 128, .vectorOpComplete 1024 none, .watermarkAdvance 0 8 0, .pageWalk 0 1024 0,
      .receipt 16 [], .kick 256 0 0, .kick 0 16 0, .dieLinkFailure 1 1, .assign 128 0, .assign 0 128, .granWrite 0 178 0,
      .rankMapWrite .host 0 1024 0, .getMeasurementsSnapshot ⟨.mgmt, 0, none⟩ 128].all (fun i => !i.wf) = true := by decide

/-! ### A small state -/

/-- A running context of task 1 with register values that the witnesses use. -/
def ctx1 : Ctx :=
  { Ctx.reset with
    run := .running, pc := 0x1000, task := some 1, levels := 8 + 2 ^ 7 * 3, wid := 5
    g := ⟨#[0, 0x1000, 3, 0x100, 2, 0x8000000000000000, 0x1008, 0x7F, 0x80, 0xFFFFFFFFFFFFFFFF, 0x0000000100010001,
      1024, 7, 0x2000000000000, 0x1040, 0x1003], rfl⟩ }

/-- A task of partition 0 on quire 0 with its head core 0. -/
def task1 : Task :=
  { tag := 1, part := 0, fn := 0, asid := 1, quire := 0, launch := 1, team := 0, cores := 1, region := 16, vatlen := 64,
    savelen := 0, ctrs := [], nextItem := 1, endItem := 2, wfw := [], parked := false, since := 0, weight := 1, prio := 0,
    oldQuire := none, savedTiles := [], savedQueues := [], savedPriv := [], recorded := [], held := [], hasSave := false,
    late := [] }

/-- A page of 4 KiB at 0x1000, on HBM of die 0. -/
def leaf1 : Leaf := ⟨0, .shared, .coherent, 0x100000, 0, 0, true, true, true, true, false⟩

/-- Partition 0 with quire 0 and the first granule of die 0, task 1, and context 1 running. -/
def world : State :=
  { State.reset with
    cyc := 5000, cur := 1, ctxs := [(1, ctx1)]
    cores := [(0, { Core.reset with tlb := [⟨1, 0x1000, leaf1⟩] })]
    dev := { Dev.reset with ready := true, bstep := 5 }
    front := { Front.reset with
      owner := [(0, 1)], gran := [(0, 0x8000)], tasks := [task1], parts := [(0, { Part.reset with exist_ := true })] } }

/-- The state with context 1 as `f` leaves it. -/
def on (f : Ctx → Ctx) : State := world.setCtx 1 (f ctx1)

/-- Context 1 with bits of ST set. -/
def st (v : Word) : State := on fun c => { c with st := v }

theorem ofPieces {r : State × Except Stop Found}
    (h : (match r with | (_, .ok (.pieces _)) => true | _ => false) = true) : ∃ s1 ps, r = (s1, .ok (.pieces ps)) := by
  obtain ⟨s1, x⟩ := r
  cases x with
  | error t => simp at h
  | ok y => cases y with
    | pieces l => exact ⟨s1, l, rfl⟩
    | remote k => simp at h

theorem ofError {r : State × Except Stop Found}
    (h : (match r with | (_, .error (some _)) => true | _ => false) = true) : ∃ s1 x, r = (s1, .error (some x)) := by
  obtain ⟨s1, x⟩ := r
  match x, h with
  | .error (some t), _ => exact ⟨s1, t, rfl⟩

theorem ofWait {r : State × Except Stop Found}
    (h : (match r with | (_, .error none) => true | _ => false) = true) : ∃ s1, r = (s1, .error none) := by
  obtain ⟨s1, x⟩ := r
  match x, h with
  | .error none, _ => exact ⟨s1, rfl⟩

theorem ofRemote {r : State × Except Stop Found}
    (h : (match r with | (_, .ok (.remote _)) => true | _ => false) = true) : ∃ k, r.2 = .ok (.remote k) := by
  obtain ⟨s1, x⟩ := r
  match x, h with
  | .ok (.remote k), _ => exact ⟨k, rfl⟩

theorem issues : Issues g0 world := ⟨by decide, by decide⟩

/-! ### Witnesses: the hypotheses of each statement are met, clause by clause -/

theorem witness_AddsAndProducts : Issues g0 world := issues

theorem witness_DivideAndRemainder :
    Issues g0 world ∧ readInt .s8 (srcWord (here world) (.imm (.i28 0xFF))) = -1
      ∧ readInt .dflt ((here world).reg 4) ≠ 0 ∧ readInt .s8 ((here world).reg 3) = 0 := ⟨issues, by decide⟩

theorem witness_BitwiseAndShift : Issues ⟨1, true⟩ world := ⟨by decide, by decide⟩

theorem witness_CountBits :
    Issues g0 world ∧ lowBits .n8 ((here world).reg 8) = 0x80 ∧ lowBits .n8 ((here world).reg 3) = 0 := ⟨issues, by decide⟩

theorem witness_BitFields :
    Issues g0 world
      ∧ (let fits := fun (pos : BitVec 6) (len : BitVec 7) => 1 ≤ len.toNat ∧ len.toNat ≤ 64 ∧ pos.toNat + len.toNat ≤ 64
         let fails := fun (pos : BitVec 6) (len : BitVec 7) => len.toNat = 0 ∨ 64 < len.toNat ∨ 64 < pos.toNat + len.toNat
         fits 0 64 ∧ fits 63 1 ∧ fails 0 0 ∧ fails 0 65 ∧ fails 63 2) := ⟨issues, by decide⟩

theorem witness_Moves : Issues g0 world := issues
theorem witness_Compare : Issues g0 world := issues
theorem witness_Select : Issues g0 world ∧ (here world).st.getLsbD 3 = false := ⟨issues, by decide⟩
theorem witness_LoadEffectiveAddress : Issues g0 world := issues

theorem witness_Views :
    Issues g0 world
      ∧ (let reserved := fun (n : Nat) => (1 ≤ n ∧ n ≤ 0x3F) ∨ (0x44 ≤ n ∧ n ≤ 0x7F)
         let low := fun (r : Reg) => (((here world).reg r).setWidth 8).toNat
         ¬ reserved (low 0) ∧ ¬ reserved (low 8) ∧ reserved (low 2) ∧ reserved (low 7)
          ∧ ¬ reserved (0x40#8).toNat ∧ ¬ reserved (0x43#8).toNat ∧ reserved (0x3F#8).toNat ∧ reserved (0x44#8).toNat) :=
  ⟨issues, by decide⟩

theorem witness_FloatArithmetic :
    Issues g0 world ∧ scalarFloat .f16 = true ∧ scalarFloat .e8m0 = false := ⟨issues, by decide⟩

theorem witness_RoundToKeepsRepresentable :
    fparam .e4m3 = some ⟨4, 3⟩ ∧ 0x08 < 2 ^ (4 + 3 + 1) ∧ floatVal .e4m3 0x01 = .fin false 1 (-9)
      ∧ floatVal .e4m3 0x08 = .fin false 8 (-9) ∧ floatVal .e5m2 0x7C = .inf false := by decide

theorem witness_ExactOperations : (3 : Nat) ≠ 0 ∧ (1 : Nat) ≠ 0 := by decide

/-- R88 to R91: 2.5 in E4M3, between 2.25 and 2.75, and a value of more digits that stands above 2^100 units. -/
theorem witness_RoundToRounds :
    fparam .e4m3 = some ⟨4, 3⟩ ∧ Ctl.rne.mode ≤ 4 ∧ Ctl.rne.h < 2 ^ 32 ∧ (0 : ℚ) < 5 / 2 ∧ Stands 5 (-1) false (5 / 2)
      ∧ Stands (2 ^ 100) (-99) true (2 + 1 / 2 ^ 100) ∧ floatVal .e4m3 (maxEnc .e4m3 ⟨4, 3⟩) = .fin false 14 5 := by
  refine ⟨by decide, by decide, by decide, by norm_num, ?_, ?_, by decide⟩ <;>
    refine ⟨by norm_num, by norm_num, by norm_num, by norm_num⟩

theorem witness_ElementConverts :
    (4 : Nat) ≤ 4 ∧ fmtFloat .bf16 = true ∧ fmtFloat .e5m2 = true ∧ fmtInt .s8 = true ∧ fmtInt .s16 = true
      ∧ dazVal .bf16 false (floatVal .bf16 0x7FC0) = .nan ∧ dazVal .bf16 false (floatVal .bf16 0xFF80) = .inf true
      ∧ ratOf (dazVal .bf16 true (floatVal .bf16 1)) = some 0 := by
  refine ⟨by decide, by decide, by decide, by decide, by decide, by decide, by decide, ?_⟩
  simp [show dazVal .bf16 true (floatVal .bf16 1) = .fin false 0 (-133) from by decide, ratOf]

theorem witness_FloatCompare :
    Issues g0 world ∧ scalarFloat .bf16 = true ∧ scalarFloat .s8 = false := ⟨issues, by decide⟩

theorem witness_ConvertAndClassify :
    Issues g0 world
      ∧ (let plain := fun (f : Fmt) => f ≠ .bs8 ∧ f ≠ .bs4 ∧ f ≠ .e8m0
         plain .s4 ∧ plain .e2m1 ∧ ¬ plain .bs8 ∧ ¬ plain .bs4 ∧ ¬ plain .e8m0)
      ∧ scalarFloat .f64 = true ∧ scalarFloat .e5m2 = false := ⟨issues, by decide⟩

theorem witness_GuardFalseRetires :
    guardOf (.halt ⟨3, false⟩) = some ⟨3, false⟩ ∧ guardHolds ⟨3, false⟩ (here world).st = false
      ∧ (isVm (.halt ⟨3, false⟩) = false → stPP (here world).st = false)
      ∧ isVm (.mwait ⟨7, false⟩) = true ∧ guardHolds ⟨7, false⟩ (here (st 0x2000000000001)).st = false := by decide

theorem witness_PrefixTraps :
    (Instr.fmt ⟨0, false, false, 0, 0⟩).isEvent = false ∧ isVm (.fmt ⟨0, false, false, 0, 0⟩) = false
      ∧ stPP (here (st 0x2000000000001)).st = true := by decide

theorem witness_FormatSetsPrefix : stPP (here world).st = false := by decide

theorem witness_Branches :
    Issues g0 world ∧ (tileAt world (quireOf world.cur) 255).st.code = (0#3).toNat
      ∧ (chanAt world (quireOf world.cur) 7).st.code = (0#3).toNat
      ∧ (tileAt world (quireOf world.cur) 255).st.code ≠ (4#3).toNat ∧ (chanAt world (quireOf world.cur) 7).st.code ≠ (3#3).toNat :=
  ⟨issues, by decide⟩

theorem witness_CallsAndJumps :
    Issues g0 world ∧ (here world).reg 1 &&& 3 = 0 ∧ (here world).reg 2 &&& 3 ≠ 0 ∧ (here world).reg 15 &&& 3 ≠ 0
      ∧ (here (on fun c => c.setReg 15 0xFFFFFFFFFFFFFFFC)).reg 15 &&& 3 = 0 := ⟨issues, by decide⟩

/-- The contexts of a state that lists only the one at 1. -/
theorem only1 (c : Ctx) (s : State) (h : s.ctxs = [(1, c)]) (p : Nat) : s.ctx p = if p = 1 then c else Ctx.reset := by
  simp only [State.ctx, h, Sparse.get, eq_comm (a := p)]

/-- An ALIGN waiter in its slot; and one beside another context of its task that runs on. -/
def aligned (limit : Nat) : State :=
  { on fun c => { c with wait := .align 0x1000 4000 limit } with cyc := 5009 }
def alignedTwo : State := (aligned 4000).setCtx 2 { ctx1 with wait := .none }

theorem witness_AlignHoldsAndReleases :
    Issues g0 world
      ∧ (Sparse.wf Ctx.reset (aligned 1000).ctxs = true ∧ quireOf 1 = 0 ∧ alignsAt (aligned 1000) 0x1000 1 4000 1000
          ∧ ((aligned 1000).ctx 1).task = some 1 ∧ 4000 + 1000 ≤ (aligned 1000).cyc ∧ (aligned 1000).cyc % 16 = slotOf 1)
      ∧ (¬ (4000 + 4000 ≤ (aligned 4000).cyc) ∧ ∀ p, takesPart 0 1 (aligned 4000) p → ∃ x n, alignsAt (aligned 4000) 0x1000 p x n)
      ∧ alignsAt alignedTwo 0x1000 1 4000 4000 ∧ ¬ (4000 + 4000 ≤ alignedTwo.cyc)
          ∧ ¬ ∀ p, takesPart 0 1 alignedTwo p → ∃ x n, alignsAt alignedTwo 0x1000 p x n := by
  refine ⟨issues, by unfold alignsAt; decide, ⟨by decide, ?_⟩, by unfold alignsAt; decide, by decide, ?_⟩
  · intro p h
    by_cases hp : p = 1
    · subst hp; exact ⟨4000, 4000, by unfold alignsAt; decide⟩
    · obtain ⟨_, h2, _⟩ := h
      rw [only1 { ctx1 with wait := .align 0x1000 4000 4000 } (aligned 4000) (by decide) p, if_neg hp] at h2
      exact absurd h2 (by decide)
  · intro h
    have w : (alignedTwo.ctx 2).wait = .none := by decide
    obtain ⟨x, n, _, h2⟩ := h 2 ⟨by decide, by decide, .inl ⟨by decide, fun r => by rw [w]; exact Wait.noConfusion⟩⟩
    rw [w] at h2
    exact Wait.noConfusion h2

theorem witness_IterationCounters :
    Issues g0 world ∧ (here world).task.bind (taskOf world) = some task1
      ∧ (let good := fun (w : Word) => bits w.toNat 0 16 ≠ 0 ∧ bits w.toNat 16 32 ≠ 0 ∧ bits w.toNat 48 16 = 0
         good ((here world).reg 10) ∧ good 0x0000FFFFFFFFFFFF ∧ ¬ good 0xFFFF ∧ ¬ good 0x10000 ∧ ¬ good 0x0001000000010001)
      ∧ (14#4).toNat % 2 = 0 ∧ (15#4).toNat % 2 = 1
      ∧ (here (on fun c => { c with task := none })).task.bind (taskOf (on fun c => { c with task := none })) = none :=
  ⟨issues, by decide⟩

/-! #### Traps and answers -/

/-- A ring of 16 records at the start of the first granule. -/
def ringed : State := world.setPart 0 { Part.reset with exist_ := true, fqbase := 0x40, fqlog := 4 }

/-- A record of context 1, with its handle kept. -/
def rec1 : FRec :=
  { seq := 7, trap := ⟨.software, 1, .none, 0⟩, src := .ctx, ch := 0, pos := 1, slotgen := 0, pc := 0x1000, enc := [],
    tile := 0, grp := 0, kdone := 0, slot := 0x40, task := some 1, launch := some 1, delivered := false }

/-- Context 2 in service mode, context 1 FAULTED with record 7 outstanding. -/
def serving : State :=
  let s := ringed.setPart 0 { (ringed.part 0) with recs := [rec1] }
  { (s.setCtx 1 { ctx1 with run := .faulted, handle := some 7 }).setCtx 2
      { ctx1 with st := 0x8000000000000001, g := ctx1.g.set 4 7 } with cur := 2 }

theorem witness_TrapStopsContext :
    16383 < 2 ^ 14 ∧ (world.core (coreOf 1)).leases.any (·.owner == 1) = false
      ∧ ((world.setCore 0 { Core.reset with leases := [⟨1, 0, 0, 1, [], 0, []⟩] }).core (coreOf 1)).leases.any (·.owner == 1)
        = true := by decide

theorem witness_TrapPostsRecord :
    partOf ringed 1 = some 0 ∧ (ringed.part 0).unposted = [] ∧ ringTakes ringed 0 = true ∧ 1 < 2 ^ 14 ∧ 255 < 256 := by
  decide

theorem witness_TrapWaitsForRing :
    (let s := ringed.setPart 0 { (ringed.part 0) with unposted := [rec1] }
     partOf s 1 = some 0 ∧ (s.part 0).unposted ≠ [])
    ∧ (let size := fun k => ringed.setPart 0 { (ringed.part 0) with fqlog := k }
       partOf (size 3) 1 = some 0 ∧ ((size 3).part 0).fqlog.toNat < 4 ∧ partOf (size 17) 1 = some 0
        ∧ 16 < ((size 17).part 0).fqlog.toNat)
    ∧ (let s := ringed.setPart 0 { (ringed.part 0) with fqprod := 16 }
       partOf s 1 = some 0 ∧ 2 ^ (s.part 0).fqlog.toNat ≤ ((s.part 0).fqprod - (s.part 0).fqcons).toNat)
    ∧ (let s := ringed.setPart 0 { (ringed.part 0) with fqbase := 0x1000000000 }
       partOf s 1 = some 0 ∧ inPartHbm s 0 (s.part 0).fqbase.toNat (64 * 2 ^ (s.part 0).fqlog.toNat) = false) := by decide

theorem witness_TrapInstruction : Issues g0 world := issues

theorem witness_ServiceModeRequired : Issues g0 world ∧ (here world).st.getLsbD 63 = false := ⟨issues, by decide⟩

theorem witness_EretAnswersContext :
    Issues g0 serving ∧ (here serving).st.getLsbD 63 = true ∧ partOf serving serving.cur = some 0
      ∧ findRec serving 0 ((here serving).reg 4) = some rec1 ∧ rec1.src = .ctx
      ∧ holderOf serving 0 rec1.seq = some 1 ∧ 1 ≠ serving.cur ∧ (serving.ctx 1).task.isSome = true :=
  ⟨⟨by decide, by decide⟩, by decide⟩

theorem witness_EretUnknownHandle :
    Issues g0 serving ∧ (here serving).st.getLsbD 63 = true
      ∧ ∀ n, partOf serving serving.cur = some n → findRec serving n ((here serving).reg 1) = none := by
  refine ⟨⟨by decide, by decide⟩, by decide, fun n h => ?_⟩
  have h0 : partOf serving serving.cur = some 0 := by decide
  cases Option.some.inj (h0.symm.trans h)
  decide

/-! #### Special registers, TLBI, CWB, CINV, FLUSHTAG, IDLE -/

theorem witness_SpecialRegisterRead :
    Issues g0 world ∧ 0x100 ≤ (0x1FF#12).toNat ∧ (0x1FF#12).toNat ≤ 0x1FF ∧ 7 ≤ (0xFF#12).toNat ∧ (0xFF#12).toNat < 0x100
      ∧ 7 ≤ (7#12).toNat ∧ 0x1FF < (0x200#12).toNat := ⟨issues, by decide⟩

theorem witness_SpecialRegisterWrite :
    Issues g0 world ∧ (((here world).reg 4).extractLsb' 24 3).toNat ≤ 4 ∧ ((0x4000000#64).extractLsb' 24 3).toNat = 4
      ∧ 4 < (((here world).reg 9).extractLsb' 24 3).toNat ∧ (3#12) ≠ 4 ∧ (6#12) ≠ 5 := ⟨issues, by decide⟩

theorem witness_MeterRead :
    Issues g0 world ∧ (47#6).toNat < 48 ∧ partOf world world.cur = some 0 ∧ 48 ≤ (48#6).toNat := ⟨issues, by decide⟩

/-- In service mode, with identifier 2 of the partition. -/
def servant : State :=
  let s := st 0x8000000000000001
  s.setFront { s.front with roots := [(2, ⟨true, 0, 0⟩)], perm := [(0, 2)], owner := [(0, 1), (1, 1)] }

theorem witness_TlbInvalidate :
    Issues g0 servant ∧ (here servant).st.getLsbD 63 = true ∧ partOf servant servant.cur = some 0
      ∧ ((here servant).reg 4).toNat < 1024 ∧ ownsAsid servant 0 ((here servant).reg 4).toNat = true ∧ (1#20) ≠ 0
      ∧ (4#3).toNat < 5
      ∧ ¬ (((here servant).reg 11).toNat < 1024 ∧ ownsAsid servant 0 ((here servant).reg 11).toNat = true)
      ∧ ¬ (((here servant).reg 12).toNat < 1024 ∧ ownsAsid servant 0 ((here servant).reg 12).toNat = true) :=
  ⟨⟨by decide, by decide⟩, by decide⟩

/-- The world with its page of scope .Q and a copy of its first line in quire 0, its first byte masked. -/
def scopedWorld : State :=
  let s := world.setCore 0 { Core.reset with tlb := [⟨1, 0x1000, { leaf1 with coh := .scopedQ }⟩] }
  s.setQuire 0 { Quire.reset with copies := [⟨8192, [], 1, 0, some 1, some 1, false, []⟩] }

theorem witness_CacheMaintenance :
    Issues g0 world ∧ ((here world).reg 0).toNat = 0 ∧ 2 ^ 30 < ((here world).reg 5).toNat
      ∧ 0 < ((here world).reg 4).toNat ∧ ((here world).reg 4).toNat ≤ 2 ^ 30
      ∧ (resolveRange (whoIs world 1) (2 / 4096 + 2) world ((here world).reg 1) 2).2 = .ok [(⟨0x100000, .coherent, 0x1000⟩, 2)]
      ∧ (resolveRange (whoIs world 1) (2 / 4096 + 2) world ((here world).reg 5) 2).2 = .error (some ⟨.translation, 0x8000000000000000, .read, 3⟩)
      ∧ Issues g0 scopedWorld ∧ resolveRange (whoIs scopedWorld 1) 2 scopedWorld 0x1000 2 = (scopedWorld, .ok [(⟨0x100000, .scopedQ, 0x1000⟩, 2)])
      ∧ (pieceCopies scopedWorld 0 (⟨0x100000, .scopedQ, 0x1000⟩, 2)).length = 1
      ∧ ∀ c ∈ pieceCopies scopedWorld 0 (⟨0x100000, .scopedQ, 0x1000⟩, 2), MayGo scopedWorld 0 .scopedQ c := by
  unfold Issues MayGo; decide

theorem witness_FlushTag :
    Issues g0 servant ∧ (here servant).st.getLsbD 63 = true ∧ ((here servant).reg 1).toNat < 2 ^ 16
      ∧ partOfQuire servant 1 = partOf servant servant.cur ∧ quireOf servant.cur = 0
      ∧ (Sparse.get 0 servant.front.perm (quireOf servant.cur)).getLsbD 1 = true
      ∧ 2 ^ 16 ≤ ((here servant).reg 10).toNat ∧ partOfQuire servant 127 ≠ partOf servant servant.cur
      ∧ (let s := on fun c => { c with wait := .flush 127 1 }
         Sparse.wf Ctx.reset s.ctxs = true ∧ (s.ctx 1).run = .running ∧ (s.ctx 1).wait = .flush 127 1
          ∧ ∀ c ∈ (s.quire 127).copies, MayGo s 127 .scopedQ c) :=
  by unfold Issues MayGo; decide

/-- Context 3 of quire 0 is partition 0's service context, and waits for a record. -/
def waiting : State :=
  let s := ringed.setPart 0 { (ringed.part 0) with svc := 0x8003, recs := [rec1] }
  { s.setCtx 3 { ctx1 with wait := .service } with cur := 3 }

theorem witness_IdleAndDelivery :
    Issues g0 world ∧ isService world world.cur = false ∧ Issues g0 { waiting with ctxs := [(3, ctx1)] }
      ∧ isService { waiting with ctxs := [(3, ctx1)] } 3 = true
      ∧ (let s := on fun c => { c with wait := .idle 5000 }
         (s.ctx 1).run = .running ∧ (s.ctx 1).wait = .idle 5000 ∧ 5000 ≤ s.cyc)
      ∧ servicePos waiting 0 = some 3 ∧ (waiting.ctx 3).run = .running ∧ (waiting.ctx 3).wait = .service
      ∧ partOf waiting 3 = some 0 ∧ (waiting.part 0).recs.find? (fun r => !r.delivered) = some rec1 :=
  ⟨issues, by decide, ⟨by decide, by decide⟩, by decide⟩

/-! #### Copies leaving, walks and the Host Port -/

/-- A scoped copy of line 8192, whose mask is `m`, in quire 0 or in die 0. -/
def copied (m : Nat) : State :=
  let c : Copy := ⟨8192, [], m, 0, some 1, some 0, false, []⟩
  (world.setQuire 0 { Quire.reset with copies := [c] }).setDie 0 { Die.reset with copies := [c] }

/-- A reduction pending on line 8192 in quire 0. -/
def pending : State := world.setQuire 0 { Quire.reset with pend := [⟨0x100000, .add, .b64, 1, .coherent, some 1⟩] }

theorem witness_CopyAndQueueMoves :
    (∃ c, copyOf (copied 1) 0 .scopedQ 8192 = some c ∧ c.mask ≠ 0 ∧ heldBack (copied 1) (copyDoer 0 .scopedQ c) 8192 = false)
      ∧ (∃ c, copyOf (copied 1) (32 * 0) .scopedD 8192 = some c ∧ c.mask ≠ 0
          ∧ heldBack (copied 1) (copyDoer (32 * 0) .scopedD c) 8192 = false)
      ∧ NonePending (copied 1) 8192
      ∧ (∃ c, copyOf (copied 0) 0 .scopedQ 8192 = some c ∧ c.mask = 0)
      ∧ Sparse.wf Quire.reset pending.quires = true ∧ (pending.quire 0).pend.filter (fun p => lineOf p.pa == 8192) ≠ []
      ∧ (∀ k, k ≠ 0 → ∀ p ∈ (pending.quire k).pend, lineOf p.pa ≠ 8192)
      ∧ ∀ p ∈ (pending.quire 0).pend, poisoned pending p.pa (szBytes p.sz) = false := by
  refine ⟨⟨_, rfl, by decide⟩, ⟨_, rfl, by decide⟩, by unfold NonePending; decide, ⟨_, rfl, by decide⟩, by decide, by decide,
    fun k hk => ?_, by decide⟩
  have h : pending.quire k = Quire.reset := by
    unfold pending
    rw [State.quire_setQuire, if_neg hk]
    rfl
  simp [h, Quire.reset]

theorem world_clean (l : Nat) : leaseOn world l = none ∧ NonePending world l := ⟨rfl, fun _ h => by cases h⟩

theorem witness_PageWalkEvent :
    1 < 16 ∧ (world.ctx (16 * 0 + 1)).run = .running ∧ asidOf world (16 * 0 + 1) = some 1
      ∧ (world.core 0).tlb.find? (tlbHit 1 (0x2000#56).toNat) = none
      ∧ (world.quire (quireOfCore 0)).tlb.find? (tlbHit 1 (0x2000#56).toNat) = none
      ∧ (∀ l, leaseOn world l = none) ∧ (∀ l, NonePending world l) ∧ world.releases = [] ∧ world.front.zeroing = [] :=
  ⟨by decide, by decide, by decide, by decide, by decide, fun l => (world_clean l).1, fun l => (world_clean l).2, rfl, rfl⟩

/-- Context 1 with one event `op` on a PCIe page of the host in its Issue Port, sent or not. -/
def hostEv (op : GOp) (acc : Acc) : GEv := ⟨0xC000000000000, 8, .uncached, 0x1000, acc, .v, op⟩
def hostPort (op : GOp) (acc : Acc) (fin : PortDone) (sent : Bool) : Port :=
  ⟨[hostEv op acc], [], fin, 8, none, sent, 0, 0x40, 5000, .dflt, none⟩
def hosted (op : GOp) (acc : Acc) (fin : PortDone) (sent : Bool) : State :=
  on fun c => { c with wait := .port, port := some (hostPort op acc fin sent) }

theorem witness_HostPortTakes :
    let takes := fun (op : GOp) (acc : Acc) (fin : PortDone) =>
      let s := hosted op acc fin false
      HasEvent s 1 (hostPort op acc fin false) (hostEv op acc) [] ∧ Unhindered s 1 (hostEv op acc)
        ∧ placeOf (doerOf s 1) (hostEv op acc) = .pcie ∧ leaseOn s (lineOf (hostEv op acc).pa) = none
        ∧ hostPending s (doerOf s 1) (hostEv op acc).pa = false
    takes (.write [1, 2, 3, 4, 5, 6, 7, 8]) .write .store ∧ takes .read .read (.load 4 false)
      ∧ takes (.rmw .add .b64 1) .atomic (.atom 4) ∧ pcieAtomicOk (.rmw .add .b64 1) = true
      ∧ pcieAtomicSize (hostEv (.rmw .add .b64 1) .atomic) = true
      ∧ (let s := hosted (.rmw .add .b64 1) .atomic (.atom 4) false
         Sparse.get false (s.setDev { s.dev with atomicEn := [(0, true)] }).dev.atomicEn (fnOf s (s.ctx 1).task (partOf s 1)) = true)
      ∧ takes (.rmw .xor .b64 1) .atomic (.atom 4) ∧ isAtomic (.rmw .xor .b64 1) = true ∧ pcieAtomicOk (.rmw .xor .b64 1) = false := by
  unfold HasEvent Unhindered; decide

/-- Requests of the Host Port: a context's of generation `gen` with `op`, and a message. -/
def hostReq (op : GOp) (wait : Bool) (gen : BitVec 32) : HostReq :=
  ⟨3, .ctx 1, gen, some 0, 0, 0xC000000000000, 8, 0x1000, .read, op, wait, none⟩
def atPort (l : List HostReq) : State := world.setDev { world.dev with hostQ := l }

theorem witness_HostPortSends :
    let sends := fun (r : HostReq) => (atPort [r]).dev.hostQ = r :: [] ∧ ideHolds (atPort [r]) r.fn = false
    sends (hostReq (.write [1]) false 0) ∧ sends (hostReq .read true 0) ∧ sends { hostReq .read false 0 with msi := some (0, 16) } := by
  decide

theorem witness_HostPortCompletes :
    let waits := fun (op : GOp) (acc : Acc) (fin : PortDone) (gen : BitVec 32) =>
      let s := (hosted op acc fin true).setDev { world.dev with hostSent := [hostReq op true gen] }
      s.dev.hostSent.find? (fun x => x.id == 3 && x.wait) = some (hostReq op true gen)
        ∧ (s.ctx 1).run = .running ∧ (s.ctx 1).wait = .port ∧ (s.ctx 1).port = some (hostPort op acc fin true)
        ∧ (∀ v ∈ (s.core (coreOf 1)).vec, v.by_.pos ≠ 1)
    waits .read .read (.load 4 false) 0 ∧ (world.ctx 1).slotgen = 0
      ∧ waits (.rmw .add .b64 (1#64).toNat) .atomic (.atom 4) 0 ∧ 8 = szBytes .b64
      ∧ waits .read .read (.load 4 false) 7 ∧ (world.ctx 1).slotgen ≠ 7 := by decide

/-! #### Accesses -/

theorem witness_ResolveFrame :
    (∃ s1 r, resolveAccess world (whoIs world 1) 0x1000 8 .read = (s1, r)) ∧ ∀ l, NonePending world l :=
  ⟨⟨_, _, rfl⟩, fun l => (world_clean l).2⟩

/-- The table of page 0x2000's walk stands on a leased line: the walk waits. -/
def tableLeased : State :=
  let s := { world with cores := [(0, { Core.reset with leases := [⟨2, 8192, 5000, 16, [], 0, []⟩] })] }
  s.setFront { s.front with roots := [(1, ⟨true, 0, 0x100000⟩)] }

/-- Page 0x1000 is a REMOTE one. -/
def remotePage : State := world.setCore 0 { Core.reset with tlb := [⟨1, 0x1000, { leaf1 with kind := .remote }⟩] }

theorem witness_LoadsAndStoresPlace :
    Issues g0 world ∧ (14#4).toNat % 2 = 0 ∧ (1#4).toNat % 2 = 1 ∧ (effective (here world) (.base8 1 0 0)).setWidth 56 = (0x1000 : BitVec 56)
      ∧ (∃ s1 ps, resolveAccess world (whoIs world world.cur) (effective (here world) (.base8 1 0 0)) 16 .read = (s1, .ok (.pieces ps)))
      ∧ (∃ s1 x, resolveAccess world (whoIs world world.cur) (effective (here world) (.base8 5 0 0)) 1 .read = (s1, .error (some x)))
      ∧ Issues g0 tableLeased
      ∧ ∃ s1, resolveAccess tableLeased (whoIs tableLeased 1) (effective (here tableLeased) (.base8 1 0x7F 0)) 1 .read
          = (s1, .error none) :=
  ⟨issues, by decide, by decide, by decide, ofPieces (by decide), ofError (by decide), ⟨by decide, by decide⟩, ofWait (by decide)⟩

theorem witness_AtomicsPlace :
    Issues g0 world ∧ ((effective (here world) (.base8 6 0 0)).setWidth 56).toNat % 8 = 0
      ∧ ((effective (here world) (.base8 6 4 0)).setWidth 56).toNat % 8 ≠ 0
      ∧ ((effective (here world) (.base8 6 8 0)).setWidth 56).toNat % 16 = 0
      ∧ (0#4).toNat % 2 = 0 ∧ (13#4).toNat % 2 = 1
      ∧ ∃ s1 ps, resolveAccess world (whoIs world world.cur) (effective (here world) (.base8 6 0 0)) 8 .atomic = (s1, .ok (.pieces ps)) :=
  ⟨issues, by decide, by decide, by decide, by decide, by decide, ofPieces (by decide)⟩

theorem witness_SynchronisationPlaces :
    Issues g0 world ∧ ((effective (here world) (.base8 1 0 0)).setWidth 56).toNat % 8 = 0
      ∧ (∃ s1 ps, resolveAccess world (whoIs world world.cur) (effective (here world) (.base8 1 0 0)) 1 .lease = (s1, .ok (.pieces ps)))
      ∧ (∃ s1 ps, resolveAccess world (whoIs world world.cur) (effective (here world) (.base8 1 0 0)) 8 .atomic = (s1, .ok (.pieces ps))
          ∧ ∀ c ∈ cutAccess .atomic 0 ps, c.2.2.coh = .coherent ∧ rangeIsHost c.2.2.pa = false)
      ∧ (let s := world.setCore 0 { Core.reset with tlb := [⟨1, 0x1000, { leaf1 with coh := .uncached }⟩] }
         ∃ s1 ps, resolveAccess s (whoIs s s.cur) (effective (here s) (.base8 1 0 0)) 8 .read = (s1, .ok (.pieces ps))
          ∧ ¬ ∀ c ∈ cutAccess .read 0 ps, c.2.2.coh = .coherent ∧ rangeIsHost c.2.2.pa = false) :=
  ⟨issues, by decide, ofPieces (by decide), ⟨_, [(8, [⟨0x100000, .coherent, 0x1000⟩])], rfl, by decide⟩,
    ⟨_, [(8, [⟨0x100000, .uncached, 0x1000⟩])], rfl, by decide⟩⟩

/-- Context 1 with one event `op` of `n` bytes at 0x100000, HBM of a page of `coh`, in its Issue Port, and `rest` after it. -/
def evOn (coh : Coh) (op : GOp) (n : Nat) (sc : Scope) (acc : Acc) : GEv := ⟨0x100000, n, coh, 0x1000, acc, sc, op⟩
def portOn (l : List GEv) (fin : PortDone) : Port := ⟨l, [], fin, 8, none, false, 0, 0, 5000, .dflt, none⟩
def portedOn (l : List GEv) (fin : PortDone) : State := on fun c => { c with wait := .port, port := some (portOn l fin) }

abbrev evOf := evOn .coherent
abbrev ported (op : GOp) (n : Nat) (sc : Scope) (acc : Acc) (fin : PortDone) : State := portedOn [evOf op n sc acc] fin

/-- The event is the next one of context 1's port in `s`, and is performed at the Home. -/
def Performs (s : State) (ev : GEv) (rest : List GEv) (fin : PortDone) : Prop :=
  HasEvent s 1 (portOn (ev :: rest) fin) ev rest ∧ AtHome s 1 ev ∧ poisoned s ev.pa ev.len = false

/-- The event stands alone. -/
def Alone (op : GOp) (n : Nat) (sc : Scope) (acc : Acc) (fin : PortDone) : Prop :=
  Performs (ported op n sc acc fin) (evOf op n sc acc) [] fin

theorem witness_LoadPerforms :
    Alone .read 8 .v .read (.load 4 false) ∧ Alone .read 1 .v .read (.load 4 true) ∧ Alone .read 8 .v .read (.load 4 true)
      ∧ Alone .read 16 .v .read (.loadPair 4) := by
  unfold Alone Performs HasEvent AtHome Unhindered NonePending; decide

theorem witness_StorePerforms : Alone (.write [1]) 1 .v .write .store := by
  unfold Alone Performs HasEvent AtHome Unhindered NonePending; decide

theorem witness_EventsInTurn :
    let two := fun (op : GOp) (acc : Acc) (fin : PortDone) =>
      let ev := evOf op 8 .v acc
      let next : GEv := { ev with pa := 0x100020 }
      Performs (portedOn [ev, next] fin) ev [next] fin
    two .read .read (.load 4 false) ∧ two (.write [1, 2, 3, 4, 5, 6, 7, 8]) .write .store := by
  unfold Performs HasEvent AtHome Unhindered NonePending; decide

theorem witness_AtomicPerforms :
    Alone (.rmw .maxN .b8 (255#8).toNat) 1 .v .atomic (.atom 4) ∧ 1 = szBytes .b8
      ∧ isQueued (evOf (.rmw .maxN .b8 (255#8).toNat) 1 .v .atomic) = false ∧ Alone (.rmw .maxN .b8 (255#8).toNat) 1 .v .reduce .red
      ∧ Alone (.rmw .addF .b32 (0x3F800000#32).toNat) 4 .v .atomic (.atom 4) ∧ 4 = szBytes .b32
      ∧ isQueued (evOf (.rmw .addF .b32 (0x3F800000#32).toNat) 4 .v .atomic) = false
      ∧ Alone (.rmw .addF .b64 (1#64).toNat) 8 .v .reduce .red ∧ 8 = szBytes .b64
      ∧ isQueued (evOf (.rmw .addF .b64 (1#64).toNat) 8 .v .reduce) = false
      ∧ Alone (.cas (0#64).toNat (5#64).toNat) 8 .v .atomic (.cas 4 1 (0#64).toNat)
      ∧ Alone (.cas (0#128).toNat (5#128).toNat) 16 .v .atomic (.cas2 4 1 (0#128).toNat) := by
  unfold Alone Performs HasEvent AtHome Unhindered NonePending; decide

/-- 64 lines with a reduction pending in quire 0's Write Queue. -/
def queueFull (s : State) : State :=
  s.setQuire 0 { Quire.reset with
    pend := (List.range 64).map fun k => ⟨0x200000 + 128 * k, .add, .b64, 1, .coherent, some 1⟩ }

theorem witness_QueuedReduction :
    let s := ported (.rmw .add .b64 1) 8 .q .reduce .red
    let ev := evOf (.rmw .add .b64 1) 8 .q .reduce
    let ok := fun (u : State) => HasEvent u 1 (portOn [ev] .red) ev [] ∧ Unhindered u 1 ev ∧ leaseOn u (lineOf ev.pa) = none
      ∧ poisoned u ev.pa ev.len = false
    isQueued ev = true ∧ ok s ∧ NonePending s (lineOf ev.pa) ∧ queueUse s (quireOf 1) < 64
      ∧ (let u := s.setQuire 0 (pending.quire 0)
         ok u ∧ ∃ x ∈ (u.quire (quireOf 1)).pend, lineOf x.pa = lineOf ev.pa)
      ∧ ok (queueFull s) ∧ NonePending (queueFull s) (lineOf ev.pa) ∧ 64 ≤ queueUse (queueFull s) (quireOf 1) := by
  unfold HasEvent Unhindered NonePending; decide

theorem witness_SynchronisationPerforms :
    Alone .barArrive 8 .v .atomic (.barArrive 4) ∧ Alone .read 8 .v .read (.barWait 0) ∧ Alone .read 8 .v .read (.barWait 1)
      ∧ Alone .read 4 .v .read (.waitline 4 1 1 5000) ∧ Alone .read 4 .v .read (.waitline 4 1 0 5000)
      ∧ ofBytes (Memory.readBytes world.mem 0x100000 4) ≠ 1 ∧ ofBytes (Memory.readBytes world.mem 0x100000 4) = 0
      ∧ 5000 < 5000 + 65536 ∧ (let s := { ported .read 4 .v .read (.waitline 4 1 0 5000) with cyc := 70536 }
         Performs s (evOf .read 4 .v .read) [] (.waitline 4 1 0 5000) ∧ 5000 + 65536 ≤ s.cyc)
      ∧ Alone .read 64 .v .read (.dkld 7) ∧ dkOk (BitVec.ofNat 512 (ofBytes (Memory.readBytes world.mem 0x100000 64))) = false
      ∧ (let s := { ported .read 64 .v .read (.dkld 7) with mem := [(0x100008, 4), (0x10001C, 4), (0x100030, 34)] }
         Performs s (evOf .read 64 .v .read) [] (.dkld 7)
          ∧ dkOk (BitVec.ofNat 512 (ofBytes (Memory.readBytes s.mem 0x100000 64))) = true)
      ∧ (let s := { ported .barArrive 8 .v .atomic (.barArrive 4) with mem := [(0x100002, 4)] }
         Performs s (evOf .barArrive 8 .v .atomic) [] (.barArrive 4)
          ∧ (BitVec.ofNat 64 (ofBytes (Memory.readBytes s.mem 0x100000 8)) : Word).extractLsb' 16 16 ≠ 0)
      ∧ (BitVec.ofNat 64 (ofBytes (Memory.readBytes world.mem 0x100000 8)) : Word).extractLsb' 16 16 = 0 := by
  unfold Alone Performs HasEvent AtHome Unhindered NonePending; decide

theorem witness_CopyPerforms :
    let ok := fun (coh : Coh) (op : GOp) (acc : Acc) (fin : PortDone) (l : List Copy) =>
      let ev := evOn coh op 8 .v acc
      let s := (portedOn [ev] fin).setQuire 0 { Quire.reset with copies := l }
      HasEvent s 1 (portOn [ev] fin) ev [] ∧ Unhindered s 1 ev ∧ placeOf (doerOf s 1) ev = .copy
        ∧ leaseOn s (lineOf ev.pa) = none ∧ NonePending s (lineOf ev.pa) ∧ ev.pa % 128 + ev.len ≤ 128
    let held : Copy := ⟨8192, List.replicate 128 7, 1, 0, some 1, some 0, false, []⟩
    let room := fun (coh : Coh) => (copyRoom world (doerOf world 1) coh 8192).1 = true ∧ poisoned world (128 * 8192) 128 = false
    ok .scopedQ .read .read (.load 4 false) [] ∧ ok .scopedQ (.write [1, 2, 3, 4, 5, 6, 7, 8]) .write .store [] ∧ room .scopedQ
      ∧ ok .scopedQ .read .read (.load 4 false) [held] ∧ held.poison = 0 ∧ held.data.length = 128
      ∧ ok .scopedD .read .read (.load 4 false) [] ∧ ok .scopedD (.write [1, 2, 3, 4, 5, 6, 7, 8]) .write .store [] ∧ room .scopedD := by
  unfold HasEvent Unhindered NonePending; decide

/-- A lease of context `o` on line 8192, of `n` × 64 cycles from cycle 5000, its first byte held. -/
def leaseOf (o n : Nat) : Lease := ⟨o, 8192, 5000, n, 9 :: List.replicate 127 0, 1, []⟩

theorem witness_LeasesBeginAndEnd :
    (let s := ported (.lease 16) 128 .v .lease (.lease 1)
     Alone (.lease 16) 128 .v .lease (.lease 1) ∧ leaseFails s 1 (evOf (.lease 16) 128 .v .lease) = false ∧ stLC (s.ctx 1).st ≤ 1)
    ∧ (let s := (ported (.lease 1) 128 .v .lease (.lease 1)).setCore 0
          { Core.reset with leases := [⟨1, 0, 5000, 1, [], 0, []⟩, ⟨1, 1, 5000, 1, [], 0, []⟩] }
       HasEvent s 1 (portOn [evOf (.lease 1) 128 .v .lease] (.lease 1)) (evOf (.lease 1) 128 .v .lease) []
        ∧ leaseFails s 1 (evOf (.lease 1) 128 .v .lease) = true ∧ inQueue s (.ctx 1) 8192 = false)
    ∧ (Issues g0 world ∧ stLC (here world).st = 0)
    ∧ (let s := (st 0x8000001).setCore 0 { Core.reset with leases := [leaseOf 1 1] }
       Issues g0 s ∧ stLC (here s).st ≠ 0 ∧ (∀ l ∈ (s.core (coreOf s.cur)).leases, granuleBusy s (128 * l.line) = false
         ∧ NonePending s l.line ∧ ∀ k ∈ (s.core (coreOf s.cur)).leases, k = l)
        ∧ (let u := s.setFront { s.front with zeroing := [0] }
           Issues g0 u ∧ stLC (here u).st ≠ 0
            ∧ ∃ l ∈ (u.core (coreOf u.cur)).leases, l.owner = u.cur ∧ granuleBusy u (128 * l.line) = true))
    ∧ (let s := { world.setCore 0 { Core.reset with leases := [leaseOf 1 1] } with cyc := 5064 }
       ∃ l ∈ (s.core (coreOf 1)).leases, l.owner = 1 ∧ l.grant + 64 * l.n ≤ s.cyc) := by
  unfold Alone Performs HasEvent AtHome Unhindered Issues NonePending; decide

theorem witness_LeasedLine :
    let leased := fun (o : Nat) (op : GOp) (acc : Acc) (fin : PortDone) =>
      let ev := evOf op 8 .v acc
      let s := (portedOn [ev] fin).setCore 0 { Core.reset with leases := [leaseOf o 16] }
      HasEvent s 1 (portOn [ev] fin) ev [] ∧ leaseOn s 8192 = some (leaseOf o 16) ∧ poisoned s ev.pa ev.len = false
        ∧ (o = 1 → Unhindered s 1 ev) ∧ NonePending s 8192
    leased 1 .read .read (.load 4 false) ∧ leased 1 (.write [1, 2, 3, 4, 5, 6, 7, 8]) .write .store
      ∧ (leaseOf 1 16).data.length = 128 ∧ leased 2 .read .read (.load 4 false) := by
  unfold HasEvent Unhindered NonePending; decide

theorem witness_FenceCompletes :
    (let s := ported (.fence .q) 0 .q .none .fence
     HasEvent s 1 (portOn [evOf (.fence .q) 0 .q .none] .fence) (evOf (.fence .q) 0 .q .none) [] ∧ fenceCopies s 1 .q = [])
    ∧ (let s := ported (.fence .s) 0 .s .none .fence
       HasEvent s 1 (portOn [evOf (.fence .s) 0 .s .none] .fence) (evOf (.fence .s) 0 .s .none) [] ∧ fenceCopies s 1 .s = []
        ∧ (∀ r ∈ s.dev.hostQ, r.by_ ≠ .ctx 1)
        ∧ ∃ r ∈ (s.setDev { s.dev with hostQ := [hostReq (.write [1]) false 0] }).dev.hostQ,
            r.op = .write [1] ∧ r.gen = (s.ctx 1).slotgen ∧ r.by_ = .ctx 1) := by
  unfold HasEvent; decide

theorem witness_WaitersReadAgain :
    let waits := fun (w : Wait) (remote : Option Nat) =>
      let p : Port := { portOn [evOf .read 8 .v .read] (.barWait 0) with remote := remote }
      let s := on fun c => { c with wait := w, port := some p }
      (s.ctx 1).run = .running ∧ (s.ctx 1).port = some p ∧ (s.ctx 1).wait = w
    waits (.waitline 3976 false) none ∧ 3976 + 1024 ≤ world.cyc ∧ waits (.waitline 5000 true) none ∧ waits (.barWait 5000 true) none
      ∧ waits (.waitline 3976 false) (some 1) ∧ waits (.barWait 3976 false) (some 1) ∧ waits (.barWait 3976 false) (some 0)
      ∧ myDev world = 0 ∧ reachable world (some 0) 1 = false ∧ NumbersFresh world ∧ partOf world 1 = some 0 := by
  unfold NumbersFresh; decide

/-! #### Threads -/

/-- The world with context 0, the head of core 0, in its slot, context 2 as `f` leaves a FREE one. -/
def headed (f : Ctx → Ctx) : State := { (world.setCtx 0 ctx1).setCtx 2 (f Ctx.reset) with cur := 0 }

theorem witness_Spawn :
    (let s := headed id
     Issues g0 s ∧ s.cur % 16 = 0 ∧ (2#4) ≠ 0 ∧ (here s).reg 1 &&& 3 = 0 ∧ (s.ctx (s.cur / 16 * 16 + (2#4).toNat)).run = .free
      ∧ (s.ctx (s.cur / 16 * 16 + (1#4).toNat)).run ≠ .free ∧ (here s).reg 2 &&& 3 ≠ 0 ∧ (s.cur % 16 ≠ 0 ∨ (0#4) = 0))
    ∧ (Issues g0 world ∧ (world.cur % 16 ≠ 0 ∨ (15#4) = 0)) := by unfold Issues; decide

theorem witness_Reap :
    (let st2 := fun (r : Run) => ((headed fun c => { c with run := r }).ctx ((headed id).cur / 16 * 16 + (2#4).toNat)).run
     (headed id).cur % 16 = 0 ∧ (2#4) ≠ 0 ∧ st2 .free = .free ∧ st2 .running = .running ∧ st2 .faulted = .faulted
      ∧ st2 .halted = .halted) ∧ Issues g0 (headed id) ∧ Issues g0 world ∧ (world.cur % 16 ≠ 0 ∨ (2#4) = 0) := by
  unfold Issues; decide

theorem witness_Halt :
    Issues g0 world ∧ (here world).task.isSome = true ∧ Issues g0 (on fun c => { c with task := none })
      ∧ (here (on fun c => { c with task := none })).task = none := by unfold Issues; decide

theorem witness_WaitForWork :
    (Issues g0 world ∧ (here world).task.bind (taskOf world) = some task1 ∧ task1.nextItem < task1.endItem)
    ∧ (let s := world.setTask { task1 with nextItem := 2 }
       Issues g0 s ∧ (here s).task.bind (taskOf s) = some { task1 with nextItem := 2 } ∧ 2 ≤ 2)
    ∧ (let s := on fun c => { c with task := none }
       Issues g0 s ∧ (here s).task.bind (taskOf s) = none) := by unfold Issues; decide

/-- In RUN as device 0 of a block of 2, where rank 0 is this device and rank 1 device 1, both with key 5. -/
def fab : Fabric :=
  { Fabric.reset with
    state := 2, fid := 0x10000, pkeyt := [(0, 0x80000005)], rmap := [(0, 0x8000), (1, 0x8001)]
    cal := (List.range 1024).map fun e => (e, some (BitVec.ofNat 10 (e % 2)))
    rtab0 := [(1, 0xFFFF)], rcells := [(0, 4)], sessions := [⟨5, 1, 0, 0, false, none⟩] }

def linked : State := world.setFabric fab

theorem witness_Migrate :
    (Issues g0 linked ∧ ((here linked).reg 0).toNat = 0 ∧ partOf linked linked.cur = some 0 ∧ rankDev linked 0 0 = some 0
      ∧ linked.cur % 16 ≠ 0 ∧ 0 = myDev linked)
    ∧ (let s := linked.setCtx 1 (ctx1.setReg 4 1)
       Issues g0 s ∧ rankDev s 0 ((here s).reg 4).toNat = some 1 ∧ reachable s (some 0) 1 = true)
    ∧ (let s := (linked.setFabric { fab with failed := [1] }).setCtx 1 (ctx1.setReg 4 1)
       Issues g0 s ∧ rankDev s 0 ((here s).reg 4).toNat = some 1 ∧ ¬ (1 = myDev s ∨ reachable s (some 0) 1 = true))
    ∧ (let s := { linked.setCtx 0 ctx1 with cur := 0 }
       Issues g0 s ∧ (s.cur % 16 = 0 ∨ 1024 ≤ ((here s).reg 1).toNat))
    ∧ 1024 ≤ ((here linked).reg 11).toNat := by unfold Issues; decide

/-! #### Tiles, deckles, jobs and channels -/

/-- A deckle record of a format code, rank, base, and extents and strides of axes 0 and 1. -/
def dkr (f rank base e0 e1 s0 s1 : Nat) : DkRec :=
  BitVec.ofNat 512 (pack [(64, base), (32, e0), (32, e1), (96, 0), (32, s0), (32, s1), (96, 0), (5, f), (3, rank)])

def slots0 : List PSlot := [.reset, .reset, .reset, .reset]

/-- A tile of task 1 of one unit in its vat. -/
def tl (dk n : Nat) (st : TState) : Tile := ⟨some 1, dk, 16 + n, 1, st, .empty, slots0⟩

/-- A job of task 1 in channel `ch` of quire 0, that copies `sl` to itself. -/
def job (id ch : Nat) (k : JobKind) (sl : Slice) (src dst : Option Nat) : Job :=
  { id := id, by_ := ⟨1, 0, 0x1000, [], some 1, some 0, some 1⟩, ch := ch, kind := k, src := sl, dst := sl, srcTile := src,
    dstTile := dst, dk := 0, slot := none, got := [], wr := [], landed := 0, inbox := [], faulted := false, cause := none }

/-- The slice of tile n under deckle 0: four FP32 elements at the start of a unit of quire 0's vat. -/
def vatSl (n : Nat) (f : Fmt) : Slice :=
  let b := 0x10000000000 + (16 + n) * 128
  ⟨f, BitVec.ofNat 64 b, 1, [4, 1, 1, 1, 1], [4, 0, 0, 0, 0], 0, 4, true, b, b + 128⟩

def memSl : Slice := ⟨.f32, 0x1000, 1, [4, 1, 1, 1, 1], [4, 0, 0, 0, 0], 0, 4, false, 0, 0⟩

/-- Deckles 0 (FP32), 1 (S32), 2 and 3 (FP32 in memory, views 0x00 and 0x40), 4 (S8); tiles in every state. -/
def tiles : Quire :=
  { Quire.reset with
    deckles := [(0, dkr 2 1 0 4 1 4 0), (1, dkr 0x12 1 0 4 1 4 0), (2, dkr 2 1 0x1000 4 1 4 0),
      (3, dkr 2 1 0x4000000000001000 4 1 4 0), (4, dkr 0x10 1 0x1000 4 1 1 0)]
    tiles := [(0, tl 0 0 .ready), (1, tl 0 1 .ready), (2, tl 0 2 .faulted), (3, tl 0 3 .empty), (4, tl 0 4 .draining),
      (5, tl 0 5 .filling), (6, { tl 0 6 .ready with owner := some 2 }), (7, tl 1 7 .ready), (8, tl 1 8 .ready),
      (9, { tl 0 9 .empty with slots := [.reset, ⟨true, 0x8000, 16, 0⟩, .reset, .reset] }),
      (10, { tl 0 10 .empty with slots := [⟨true, 0x8001, 16, 0⟩, .reset, .reset, .reset] })] }

/-- The world with those tables and with jobs, and a channel 1 that is FAULTED and a channel 2 with a range. -/
def stocked (jobs : List Job) : State :=
  world.setQuire 0 { tiles with jobs := jobs, chans := [(1, ⟨.faulted, 0, 0, 0, []⟩), (2, ⟨.done, 64, 2, 64, [(64, true), (65, true)]⟩)] }

/-- Four jobs in channel 0 and one in channel 1. -/
def busy : State :=
  stocked ([1, 2, 3, 4].map (fun i => job i 0 .copyIn (vatSl 0 .f32) none none) ++ [job 5 1 .copyIn (vatSl 0 .f32) none none])

theorem witness_TileTable :
    let s := stocked []
    Issues g0 s ∧ (here s).task.bind (taskOf s) = some task1
      ∧ (let fits := fun (td dk : Handle) (voff n : Nat) => (tileAt s 0 td).owner = none ∧ dk.toNat < 64
           ∧ task1.region ≤ voff ∧ voff + n ≤ task1.region + task1.vatlen
         fits 255 63 16 64 ∧ fits 255 0 79 1 ∧ ¬ fits 255 64 16 1 ∧ ¬ fits 255 0 15 1 ∧ ¬ fits 255 0 79 2 ∧ ¬ fits 0 0 16 1)
      ∧ (let mine := fun (h : Handle) => (here s).task.isSome = true ∧ (tileAt s 0 h).owner = (here s).task
         let prod := fun (h : Handle) (slot : BitVec 2) (w : Word) => mine h ∧ (tileAt s 0 h).st = .empty
           ∧ ((tileAt s 0 h).slots.getD slot.toNat PSlot.reset).used = false ∧ w.toNat < 2 ^ 48
         prod 3 3 0xFFFFFFFFFFFF ∧ ¬ prod 9 1 0 ∧ ¬ prod 0 0 0 ∧ ¬ prod 3 0 0x1000000000000 ∧ mine 0 ∧ (tileAt s 0 0).st ≠ .filling
          ∧ (tileAt s 0 0).st ≠ .draining ∧ mine 5 ∧ (tileAt s 0 5).st = .filling ∧ mine 4 ∧ (tileAt s 0 4).st = .draining
          ∧ ¬ mine 6 ∧ ¬ mine 255) := by
  refine ⟨⟨by decide, by decide⟩, by decide, ?_, ?_⟩ <;> dsimp only
  · decide
  · refine ⟨?_, ?_, ?_, ?_, ?_, ?_, ?_, ?_, ?_, ?_, ?_, ?_, ?_⟩ <;> decide

theorem witness_TileTests :
    let s := stocked []
    Issues g0 s
      ∧ (let mine := fun (h : Handle) => (here s).task.isSome = true ∧ (tileAt s 0 h).owner = (here s).task
         (mine 2 ∧ (tileAt s 0 2).st.code = (4#3).toNat) ∧ (mine 3 ∧ (tileAt s 0 3).st.code = (0#3).toNat)
          ∧ (mine 3 ∧ (tileAt s 0 3).st.code ≠ (4#3).toNat ∧ (tileAt s 0 3).st ≠ .faulted)
          ∧ (mine 2 ∧ (tileAt s 0 2).st.code ≠ (2#3).toNat ∧ (tileAt s 0 2).st = .faulted) ∧ ¬ mine 6
          ∧ (tileAt s 0 255).owner = none ∧ (tileAt s 0 6).owner ≠ none) := by
  unfold Issues; decide

theorem witness_Deckles :
    let s := stocked []
    let old := deckleAt s 0 (0#8).toNat
    Issues g0 s ∧ (63#8).toNat < 64 ∧ 64 ≤ (64#8).toNat ∧ ((here s).reg 1 + (0xFFFFFFC0#32).signExtend 64).setWidth 56 = (0xFC0 : BitVec 56)
      ∧ ((0xFC0 : BitVec 56)).toNat % 64 = 0 ∧ ((0xFC1 : BitVec 56)).toNat % 64 ≠ 0
      ∧ (∀ v : Word, v = (4#32).signExtend 64 → ∀ j, j < 512 → old.getLsbD j =
          if 64 ≤ j ∧ j < 64 + 32 then v.getLsbD (j - 64) else old.getLsbD j)
      ∧ dkOk old = true ∧ dkOk (dkr 2 1 0 0 1 4 0) = false := by
  refine ⟨⟨by decide, by decide⟩, by decide, by decide, by decide, by decide, by decide, ?_, by decide +kernel, by decide +kernel⟩
  rintro v rfl j _
  split
  · rename_i h
    have e : (deckleAt (stocked []) 0 (0#8).toNat).extractLsb' 64 32 = ((4#32).signExtend 64).setWidth 32 := by decide +kernel
    have := congrArg (fun x => x.getLsbD (j - 64)) e
    simp only [BitVec.getLsbD_extractLsb', BitVec.getLsbD_setWidth] at this
    simpa [show j - 64 < 32 by omega, show 64 + (j - 64) = j by omega] using this
  · rfl

theorem witness_CopyIn :
    (let s := stocked []
     Issues g0 s ∧ 8 ≤ (8#8).toNat ∧ ¬ Mine s 6 ∧ (7#8).toNat < 8 ∧ (Mine s 2 ∧ (tileAt s 0 2).st = .faulted)
      ∧ (Mine s 4 ∧ (tileAt s 0 4).st = .draining) ∧ (Mine s 3 ∧ (tileAt s 0 3).st = .empty)
      ∧ memSlice s 0 2 (widRead (here s)) (here s).levels true = some memSl
      ∧ tileSlice s 0 3 (widRead (here s)) (here s).levels true = some (vatSl 3 .f32)
      ∧ slicesMatch memSl (vatSl 3 .f32) = true ∧ chanJobs s 0 (0#8).toNat < 4
      ∧ (∀ k, k < 4 → ((tileAt s 0 3).slots.getD k PSlot.reset).used = false)
      ∧ (∃ m, memSlice s 0 4 (widRead (here s)) (here s).levels true = some m ∧ slicesMatch m (vatSl 3 .f32) = false)
      ∧ (((tileAt s 0 9).slots.getD 1 PSlot.reset).used = true ∧ ((tileAt s 0 9).slots.getD 1 PSlot.reset).src.toNat = 0x8000 + 0
          ∧ ∀ k', k' < 1 → ((tileAt s 0 9).slots.getD k' PSlot.reset).used = true →
              ((tileAt s 0 9).slots.getD k' PSlot.reset).src.toNat ≠ 0x8000 + 0)
      ∧ ((∃ k, k < 4 ∧ ((tileAt s 0 10).slots.getD k PSlot.reset).used = true)
          ∧ ∀ k, k < 4 → ((tileAt s 0 10).slots.getD k PSlot.reset).used = true →
              ((tileAt s 0 10).slots.getD k PSlot.reset).src.toNat ≠ 0x8000 + 0))
    ∧ 4 ≤ chanJobs busy 0 (0#8).toNat := by
  unfold Issues Mine
  refine ⟨?_, by decide⟩
  iterate 12 refine ⟨by decide +kernel, ?_⟩
  exact ⟨⟨{ memSl with fmt := .s8, str := [1, 0, 0, 0, 0] }, by decide +kernel, by decide +kernel⟩, by decide, by decide⟩

theorem witness_CopyFromTile :
    (let s := stocked []
     Issues g0 s ∧ 8 ≤ (8#8).toNat ∧ ¬ Mine s 6 ∧ (7#8).toNat < 8 ∧ (Mine s 2 ∧ (tileAt s 0 2).st = .faulted)
      ∧ (Mine s 3 ∧ (tileAt s 0 3).st = .empty) ∧ (Mine s 5 ∧ (tileAt s 0 5).st = .filling) ∧ (Mine s 0 ∧ (tileAt s 0 0).st = .ready)
      ∧ (Mine s 4 ∧ (tileAt s 0 4).st = .draining)
      ∧ tileSlice s 0 0 (widRead (here s)) (here s).levels true = some (vatSl 0 .f32)
      ∧ memSlice s 0 2 (widRead (here s)) (here s).levels true = some memSl ∧ slicesMatch memSl (vatSl 0 .f32) = true
      ∧ (deckleAt s 0 (2#8).toNat).extractLsb' 56 8 = 0 ∧ (deckleAt s 0 (3#8).toNat).extractLsb' 56 8 ≠ 0
      ∧ chanJobs s 0 (0#8).toNat < 4 ∧ 1024 ≤ ((here s).reg 11).toNat)
    ∧ 4 ≤ chanJobs busy 0 (0#8).toNat ∧ partOf linked linked.cur = some 0 ∧ rankDev linked 0 ((here linked).reg 0).toNat = some 0 := by
  unfold Issues Mine
  refine ⟨?_, by decide⟩
  iterate 15 refine ⟨by decide +kernel, ?_⟩
  decide

theorem witness_Channels :
    (let s := stocked []
     let free := fun (ch : Handle) => (chanAt s 0 ch.toNat).st ≠ .active ∧ chanJobs s 0 ch.toNat = 0
     Issues g0 s ∧ 8 ≤ (8#8).toNat ∧ (7#8).toNat < 8 ∧ free 7 ∧ ((here s).reg 4).toNat < 2 ^ 32
      ∧ ¬ (free 7 ∧ ((here s).reg 10).toNat < 2 ^ 32)
      ∧ (resolve s (whoIs s s.cur) ((here s).reg 1) .eread).2 = .ok (.locs [⟨0x100000, .coherent, 0x1000⟩])
      ∧ pageSpan s (whoIs s s.cur) ((here s).reg 1) = some (0, 4096, false) ∧ ((here s).reg 4).toNat ≤ 4096 ∧ 4096 < ((here s).reg 6).toNat
      ∧ ((here s).reg 6).toNat < 2 ^ 32 ∧ (chanAt s 0 7).st = .idle ∧ (chanAt s 0 2).st = .done
      ∧ ((chanAt s 0 1).st = .faulted ∧ chanJobs s 0 1 = 0))
    ∧ ((chanAt busy 0 1).st = .faulted ∧ chanJobs busy 0 1 ≠ 0) := by
  unfold Issues; decide

theorem witness_WatermarkRises :
    let x := chanAt (stocked []) 0 2
    x.len ≠ 0 ∧ x.wm < 66 ∧ 66 ≤ x.lo + x.len ∧ ∀ a, x.wm ≤ a → a < 66 → Sparse.get false x.filled a = true := by
  refine ⟨by decide, by decide, by decide, fun a h1 h2 => ?_⟩
  have h1 : 64 ≤ a := h1
  have h : a = 64 ∨ a = 65 := by omega
  rcases h with rfl | rfl <;> decide

/-- A job whose one element has been read and written. -/
def doneJob : Job :=
  { job 9 0 .copyIn { vatSl 5 .f32 with ext := [0, 1, 1, 1, 1] } none (some 5) with id := 9 }

theorem witness_PublishEnds :
    let s := stocked [doneJob]
    jobOf s 0 doneJob.id = some doneJob ∧ jobDone doneJob = true ∧ parkedOf s doneJob.by_.task = none ∧ isRecv doneJob = false
      ∧ ∀ h ∈ jobTiles doneJob, h < 256 := by decide

/-- A job of `k` on unit 4 of the vat whose 16 source bytes have all been read, into the tile `dst` with slot `slot`. -/
def readJob : Job := job 9 0 .copyOut (vatSl 4 .f32) (some 4) none
def writeJob (k : JobKind) (dst slot : Option Nat) : Job :=
  { job 9 0 k (vatSl 4 .f32) none dst with slot := slot, got := (List.range 16).map fun i => (0x10000000A00 + i, some 7) }

theorem witness_EngineReads :
    let s := stocked [readJob]
    let a := 0x10000000A00
    let ev : GEv := ⟨a, 32, .coherent, BitVec.ofNat 64 a, .eread, .v, .read⟩
    jobOf s 0 readJob.id = some readJob ∧ readJob.faulted = false ∧ isRecv readJob = false ∧ a ∈ linearBytes readJob.src
      ∧ gotByte readJob a = none ∧ granuleAt s 0 readJob readJob.src.vat a .eread .read = (s, .ok (a, ev))
      ∧ DoerAtHome s (jobDoer 0 readJob) ev ∧ poisoned s ev.pa ev.len = false
      ∧ (let u := { s with poison := [(0x10000000A00 / 32, true)] }
         granuleAt u 0 readJob readJob.src.vat a .eread .read = (u, .ok (a, ev)) ∧ DoerAtHome u (jobDoer 0 readJob) ev
          ∧ poisoned u ev.pa ev.len = true) := by
  unfold DoerAtHome NonePending
  refine ⟨by decide, by decide, by decide, by decide, by decide, rfl, by decide, by decide, rfl, by decide, by decide⟩

theorem witness_EngineWrites :
    let ok := fun (j : Job) =>
      let s := stocked [j]
      let a := 0x10000000A00
      let ev : GEv := ⟨a, 32, .coherent, BitVec.ofNat 64 a, .ewrite, .v, .write []⟩
      jobOf s 0 j.id = some j ∧ j.faulted = false ∧ copymFault s 0 j a = none ∧ (∃ p ∈ jobPairs j, p.2 = a) ∧ written j a = false
        ∧ (∀ p ∈ jobPairs j, (gotByte j p.1).isSome = true) ∧ parkedOf s j.by_.task = none
        ∧ granuleAt s 0 j j.dst.vat a .ewrite (.write []) = (s, .ok (a, ev)) ∧ DoerAtHome s (jobDoer 0 j) ev
        ∧ ((List.range ev.len).filter fun i => (lastPair j (a + i)).isSome).length = 16
    let slot := (Sparse.get Tile.reset ((stocked []).quire 0).tiles 9).slots.getD 1 PSlot.reset
    ok (writeJob .copyIn none none) ∧ ok (writeJob .copyIn (some 9) (some 1)) ∧ slot.arrived.toNat + 16 ≤ slot.expect.toNat
      ∧ ¬ slot.expect.toNat + 16 ≤ slot.expect.toNat := by
  unfold DoerAtHome NonePending
  refine ⟨⟨by decide, by decide, by decide, by decide, by decide, by decide, by decide, rfl, by decide, by decide +kernel⟩,
    ⟨by decide, by decide, by decide, by decide, by decide, by decide, by decide, rfl, by decide, by decide +kernel⟩, by decide, by decide⟩

theorem witness_JobFaults :
    (let j := job 9 0 .copyOut { memSl with base := 0x9000 } none none
     jobOf (stocked [j]) 0 j.id = some j ∧ j.faulted = false ∧ isRecv j = false
      ∧ (∃ s1 x, granuleAt (stocked [j]) 0 j j.src.vat 0x9000 .eread .read = (s1, .error (some x)))
      ∧ copymFault (stocked [j]) 0 j 0x9000 = none
      ∧ ∃ s1 x, granuleAt (stocked [j]) 0 j j.dst.vat 0x9000 .ewrite (.write []) = (s1, .error (some x)))
    ∧ (let j := job 9 0 .copym memSl none none
       let u := (stocked [j]).setQuire 0 { (stocked [j]).quire 0 with tlb := [⟨1, 0x1000, leaf1⟩] }
       jobOf u 0 j.id = some j ∧ j.faulted = false ∧ isRecv j = false
        ∧ copymFault u 0 j 0x1000 = some ⟨.address, 0x1000, .ewrite, 0⟩)
    ∧ (let s := stocked [readJob]
       jobOf s 0 readJob.id = some readJob ∧ isRecv readJob = false ∧ parkedOf s readJob.by_.task = none
        ∧ (∀ h ∈ jobTiles readJob, h < 256) ∧ readJob.by_.part = some 0) :=
  ⟨⟨by decide, by decide, by decide, ⟨_, _, rfl⟩, by decide, _, _, rfl⟩, by decide, by decide⟩
/-! #### Vector instructions -/

theorem witness_VectorTileTests :
    let s := stocked []
    vectorTiles (.vadd g0 ⟨0, 1, .tile 6, false⟩) = some (g0, [0, 1, 6]) ∧ IssuesVm g0 s ∧ (∃ h ∈ ([0, 1, 6] : List Handle), ¬ Mine s h)
      ∧ (∀ h ∈ ([0, 2] : List Handle), Mine s h) ∧ (∃ h ∈ ([0, 2] : List Handle), (tileAt s 0 h).st = .faulted)
      ∧ (∀ h ∈ ([0, 3] : List Handle), Mine s h) ∧ (∀ h ∈ ([0, 3] : List Handle), (tileAt s 0 h).st ≠ .faulted)
      ∧ (∃ h ∈ ([0, 3] : List Handle), (tileAt s 0 h).st ≠ .ready) := by
  unfold IssuesVm Mine; decide

theorem tileIn (h : Handle) (x : Slice) (a : Mine (stocked []) h ∧ (tileAt (stocked []) 0 h).st = .ready)
    (b : tileSlice (stocked []) 0 h (widRead ctx1) ctx1.levels true = some x) : TileIn (stocked []) h x := ⟨a.1, a.2, b⟩

theorem in0 : TileIn (stocked []) 0 (vatSl 0 .f32) := tileIn 0 _ (by unfold Mine; decide) (by decide +kernel)
theorem in1 : TileIn (stocked []) 1 (vatSl 1 .f32) := tileIn 1 _ (by unfold Mine; decide) (by decide +kernel)
theorem in7 : TileIn (stocked []) 7 (vatSl 7 .s32) := tileIn 7 _ (by unfold Mine; decide) (by decide +kernel)
theorem in8 : TileIn (stocked []) 8 (vatSl 8 .s32) := tileIn 8 _ (by unfold Mine; decide) (by decide +kernel)

theorem src1 : SourceIn (stocked []) (some 1) 0 (some (vatSl 1 .f32)) := ⟨_, in1, rfl⟩
theorem src8 : SourceIn (stocked []) (some 8) 0 (some (vatSl 8 .s32)) := ⟨_, in8, rfl⟩

theorem spread (n m : Nat) (f f' : Fmt) : Spread (vatSl n f) (some (vatSl m f')) := by
  intro y hy k _; cases hy; exact Or.inl rfl

theorem fits (b : Bool) : FmtFits (stocked []) b := by unfold FmtFits; exact ⟨by decide, fun _ => by decide⟩

theorem witness_VectorArithmetic :
    IssuesVm g0 (stocked [])
      ∧ (TileIn (stocked []) 0 (vatSl 0 .f32) ∧ SourceIn (stocked []) (some 1) (codeA (stocked [])) (some (vatSl 1 .f32))
        ∧ Spread (vatSl 0 .f32) (some (vatSl 1 .f32)) ∧ FmtFits (stocked []) true ∧ FmtFits (stocked []) false
        ∧ SourceIn (stocked []) (tsTile (.reg 3)) (codeB (stocked [])) none ∧ Spread (vatSl 0 .f32) none
        ∧ pfxSF (pendingPfx (here (stocked []))) = false ∧ scalarFloat (vatSl 0 .f32).fmt = true ∧ fmtFloat (vatSl 1 .f32).fmt = true)
      ∧ TileIn (stocked []) 7 (vatSl 7 .s32) ∧ SourceIn (stocked []) (some 8) (codeA (stocked [])) (some (vatSl 8 .s32))
      ∧ Spread (vatSl 7 .s32) (some (vatSl 8 .s32)) ∧ vecInt (vatSl 7 .s32).fmt = true ∧ vecInt (vatSl 8 .s32).fmt = true :=
  ⟨by unfold IssuesVm; decide, ⟨in0, src1, spread 0 1 _ _, fits _, fits _, trivial, (by intro y h; cases h), by decide, by decide, by decide⟩,
    in7, src8, spread 7 8 _ _, by decide, by decide⟩

/-- Tile 11: a BS8 destination of 64 elements, and tile 12: its FP32 source, and tile 13: one FP32 element. -/
def quants : State :=
  world.setQuire 0 { tiles with
    deckles := [(0, dkr 0x0A 1 0 64 1 1 0), (1, dkr 2 1 0 64 1 4 0), (2, dkr 2 1 0 1 1 4 0), (3, dkr 0x12 1 0 64 1 4 0)]
    tiles := [(11, ⟨some 1, 0, 16, 1, .ready, .empty, slots0⟩), (12, ⟨some 1, 1, 17, 2, .ready, .empty, slots0⟩),
      (13, ⟨some 1, 2, 19, 1, .ready, .empty, slots0⟩), (14, ⟨some 1, 3, 20, 2, .ready, .empty, slots0⟩)] }

def sl11 : Slice := ⟨.bs8, 0x10000000800, 1, [64, 1, 1, 1, 1], [1, 0, 0, 0, 0], 0, 64, true, 0x10000000800, 0x10000000880⟩
def sl12 : Slice := ⟨.f32, 0x10000000880, 1, [64, 1, 1, 1, 1], [4, 0, 0, 0, 0], 0, 64, true, 0x10000000880, 0x10000000980⟩
def sl13 : Slice := ⟨.f32, 0x10000000980, 1, [1, 1, 1, 1, 1], [4, 0, 0, 0, 0], 0, 1, true, 0x10000000980, 0x10000000A00⟩
def sl14 : Slice := ⟨.s32, 0x10000000A00, 1, [64, 1, 1, 1, 1], [4, 0, 0, 0, 0], 0, 64, true, 0x10000000A00, 0x10000000B00⟩

theorem q11 : TileIn quants 11 sl11 := by unfold TileIn Mine; decide +kernel
theorem q12 : TileIn quants 12 sl12 := by unfold TileIn Mine; decide +kernel
theorem q13 : TileIn quants 13 sl13 := by unfold TileIn Mine; decide +kernel
theorem q14 : TileIn quants 14 sl14 := by unfold TileIn Mine; decide +kernel

theorem witness_VectorTests :
    IssuesVm g0 quants
      ∧ (TileIn quants 14 sl14 ∧ SourceIn quants (some 12) (codeA quants) (some sl12) ∧ FmtFits quants false
          ∧ SourceIn quants (tsTile (.reg 3)) (codeB quants) none ∧ Spread sl14 (some sl12) ∧ Spread sl14 none ∧ fmtInt sl14.fmt = true
          ∧ fmtFloat sl12.fmt = true)
      ∧ (TileIn quants 12 sl12 ∧ SourceIn quants (some 14) (codeA quants) (some sl14) ∧ SourceIn quants (some 12) (codeB quants) (some sl12)
          ∧ fmtInt sl14.fmt = true ∧ sl12.fmt = .f32)
      ∧ (TileIn quants 11 sl11 ∧ scalarFloat sl12.fmt = true ∧ fmtBlock sl11.fmt = true ∧ sl12.ext = sl11.ext ∧ sl11.ext.getD 0 0 % 64 = 0)
      ∧ (TileIn quants 13 sl13 ∧ sl13.ext = sl12.ext.set (0#3).toNat 1 ∧ scalarFloat sl13.fmt = true) ∧ FmtFits quants true := by
  refine ⟨by unfold IssuesVm; decide, ⟨q14, ⟨_, q12, rfl⟩, by unfold FmtFits; decide, trivial, ?_, ?_, by decide, by decide⟩,
    ⟨q12, ⟨_, q14, rfl⟩, ⟨_, q12, rfl⟩, by decide, by decide⟩, ⟨q11, by decide⟩, ⟨q13, by decide⟩, by unfold FmtFits; decide⟩
  · intro y h k _; cases h; exact Or.inl rfl
  · intro y h; cases h

theorem witness_VectorMoves :
    IssuesVm g0 quants ∧ FmtFits quants false ∧ TileIn quants 12 sl12 ∧ SourceIn quants (some 12) (codeA quants) (some sl12)
      ∧ sl12.ext = (sl12.ext.set (4#3).toNat (sl12.ext.getD (4#3).toNat 0)).set (4#3).toNat (sl12.ext.getD (4#3).toNat 0)
      ∧ SourceIn quants (some 14) (codeB quants) (some sl14) ∧ fmtInt sl14.fmt = true ∧ sl14.ext = sl12.ext
      ∧ sl12.ext.set (0#3).toNat 1 = sl12.ext.set (0#3).toNat 1 ∧ SourceIn quants (tsTile (.reg 1)) (codeA quants) none
      ∧ (63#9).toNat < Slice.count sl12 ∧ (63#32).toNat < Slice.count sl12 :=
  ⟨by unfold IssuesVm; decide, by unfold FmtFits; decide, q12, ⟨_, q12, rfl⟩, by decide, ⟨_, q14, rfl⟩, by decide, by decide, rfl, trivial,
    by decide, by decide⟩

theorem witness_GatherScatterPlace :
    IssuesVm g0 (stocked []) ∧ FmtFits (stocked []) false
      ∧ SourceIn (stocked []) (some 8) (codeA (stocked [])) (some (vatSl 8 .s32)) ∧ TileIn (stocked []) 0 (vatSl 0 .f32)
      ∧ SourceIn (stocked []) (some 1) (codeA (stocked [])) (some (vatSl 1 .f32))
      ∧ SourceIn (stocked []) (some 8) (codeB (stocked [])) (some (vatSl 8 .s32))
      ∧ 8 ≤ fmtBits (vatSl 0 .f32).fmt ∧ fmtInt (vatSl 8 .s32).fmt = true ∧ (vatSl 0 .f32).ext = (vatSl 8 .s32).ext
      ∧ (vatSl 1 .f32).ext = (vatSl 8 .s32).ext :=
  ⟨by unfold IssuesVm; decide, fits _, src8, in0, src1, src8, by decide, by decide, by decide, by decide⟩

/-! #### Operations in the vector unit -/

/-- An operation of context 1 that entered at cycle 4,999, with 32 bytes `x` read of each of its sources' granules. -/
def vop (i : Instr) (d a b : Option Slice) (x : Byte) (grans : List Nat) : VecOp :=
  { id := 1, by_ := ⟨1, 0, 0x1000, [], some 1, some 0, some 1⟩, i := i, len := 8, d := d, a := a, b := b, c := none, rx := 0x1000,
    rm := 0, sf := false, ftz := false, daz := false, seed := 0, wid := 0, pfx := some 0, elems := 4, wide := 32, start := 4999,
    cycles := 1, got := grans.map fun g => (g, List.replicate 32 x), out := none }

/-- The granule where tile `n` of `vatSl` lies. -/
def granOf (n : Nat) : Nat := (0x10000000000 + (16 + n) * 128) / 32

/-- A VADD of tiles 1 and 8 to tile 0, with the granules `grans` read, and the state with it in core 0's unit. -/
def addOp (grans : List Nat) : VecOp :=
  vop (.vadd g0 ⟨7, 8, .tile 8, false⟩) (some (vatSl 7 .s32)) (some (vatSl 8 .s32)) (some (vatSl 8 .s32)) 1 grans
def inUnit (v : VecOp) : State :=
  ((stocked []).setCore 0 { Core.reset with vec := [v, { v with id := 2, start := 5000 }] }).setCtx 1 { ctx1 with wait := .vector 1 }

theorem witness_VectorReads :
    let v := addOp []
    let g := granOf 8
    let ok := fun (s : State) => InUnit s 0 v [{ v with id := 2, start := 5000 }] ∧ vecOut v = none ∧ g ∈ vecNeeds v
      ∧ DoerAtHome s (vecDoer s 0 v) (vatEv g .read .read)
    ok (inUnit v) ∧ poisoned (inUnit v) (32 * g) 32 = false
      ∧ (let s := { inUnit v with poison := [(g, true)] }
         ok s ∧ poisoned s (32 * g) 32 = true ∧ 0 = coreOf v.by_.pos ∧ v.pfx = some 0) := by
  unfold InUnit DoerAtHome NonePending; decide +kernel

/-- What the operation writes. -/
def addOut : VecOut := vecCompute (addOp [granOf 8])

theorem witness_VectorPuts :
    let v := addOp [granOf 8]
    let s := inUnit v
    InUnit s 0 v [{ v with id := 2, start := 5000 }] ∧ vecOut v = some addOut ∧ (∃ w ∈ addOut.writes, w.1 / 32 = granOf 7)
      ∧ DoerAtHome s (vecDoer s 0 v) (vatEv (granOf 7) .write (.write [])) := by
  unfold InUnit DoerAtHome NonePending; decide +kernel

theorem witness_VectorFinishes :
    let v := { addOp [] with out := some ⟨[], 0x10, none⟩ }
    let w := { v with cycles := 2 }
    (InUnit (inUnit v) 0 v [{ v with id := 2, start := 5000 }] ∧ vecOut v = some ⟨[], 0x10, none⟩ ∧ v.start + v.cycles ≤ (inUnit v).cyc)
      ∧ InUnit (inUnit w) 0 w [{ w with id := 2, start := 5000 }] ∧ vecOut w = some ⟨[], 0x10, none⟩
      ∧ (inUnit w).cyc < w.start + w.cycles := by
  unfold InUnit; decide

theorem apart_vat (n : Nat) (f : Fmt) (h : ∀ i < 4, ∀ j < 4, (
      let p := elemAddr (vatSl n f) (unlin (vatSl n f).ext i)
      let q := elemAddr (vatSl n f) (unlin (vatSl n f).ext j)
      0 ≤ p.1 ∧ (i ≠ j → 8 * p.1 + p.2 + fmtBits f ≤ 8 * q.1 + q.2 ∨ 8 * q.1 + q.2 + fmtBits f ≤ 8 * p.1 + p.2))) : Apart (vatSl n f) :=
  fun i j hi hj => h i hi j hj

theorem witness_VectorResults :
    (let v := addOp [granOf 8]
     v.out = none ∧ vecNeeds v = [] ∧ v.d = some (vatSl 7 .s32) ∧ elementwise v.i = true ∧ v.elems ≠ 0)
    ∧ Apart (vatSl 7 .s32)
    ∧ (let v := vop (.vins g0 0 3 (.short 3)) (some (vatSl 0 .f32)) none none 0 []
       v.out = none ∧ vecNeeds v = [] ∧ v.d = some (vatSl 0 .f32) ∧ (3#9).toNat < Slice.count (vatSl 0 .f32))
    ∧ Apart (vatSl 0 .f32)
    ∧ (let v := vop (.vext g0 3 8 (.short 3)) none (some (vatSl 8 .s32)) none 1 [granOf 8]
       v.out = none ∧ vecNeeds v = [] ∧ v.a = some (vatSl 8 .s32)) :=
  ⟨by decide +kernel, apart_vat _ _ (by decide +kernel), by decide +kernel, apart_vat _ _ (by decide +kernel), by decide +kernel⟩

theorem witness_GatherScatterRuns :
    (let v := vop (.vgath g0 0 8 1 2) (some (vatSl 0 .f32)) (some (vatSl 8 .s32)) none 0 [granOf 8]
     InUnit (inUnit v) 0 v [{ v with id := 2, start := 5000 }] ∧ v.out = none ∧ v.elems ≠ 0 ∧ vecNeeds v = []
      ∧ ((inUnit v).ctx v.by_.pos).wait = .vector v.id ∧ v.rx = 0x1000 ∧ Slice.indices (vatSl 8 .s32) ≠ [])
    ∧ (let v := vop (.vscat g0 1 8 1 2) none (some (vatSl 1 .f32)) (some (vatSl 8 .s32)) 0 [granOf 1, granOf 8]
       InUnit (inUnit v) 0 v [{ v with id := 2, start := 5000 }] ∧ v.out = none ∧ v.elems ≠ 0 ∧ vecNeeds v = []
        ∧ ((inUnit v).ctx v.by_.pos).wait = .vector v.id ∧ Slice.indices (vatSl 1 .f32) ≠ [] ∧ Slice.indices (vatSl 8 .s32) ≠ [])
    ∧ (∃ s1 ps, resolveAccess world (whoIs world 1) 0x1000 4 .read = (s1, .ok (.pieces ps)))
    ∧ (∃ s1 x, resolveAccess world (whoIs world 1) 0x9000 4 .read = (s1, .error (some x)))
    ∧ (∃ s1, resolveAccess tableLeased (whoIs tableLeased 1) 0x1000 4 .read = (s1, .error none))
    ∧ (∃ k, (resolveAccess remotePage (whoIs remotePage 1) 0x1000 4 .read).2 = .ok (.remote k))
    ∧ (let fin := fun (l : List Word) => PortDone.gather (vatSl 0 .f32) l 8
       Alone .read 8 .v .read (fin [0x1000]) ∧ Alone .read 8 .v .read (fin []))
    ∧ (let fin := fun (l : List (Word × List Byte)) => PortDone.scatter l
       Alone (.write [1, 2]) 2 .v .write (fin [(0x1000, [1, 2])]) ∧ Alone (.write [1, 2]) 2 .v .write (fin [])) :=
  ⟨by unfold InUnit; decide +kernel, by unfold InUnit; decide +kernel, ofPieces (by decide), ofError (by decide), ofWait (by decide),
    ofRemote (by decide), by unfold Alone Performs HasEvent AtHome Unhindered NonePending; decide,
    by unfold Alone Performs HasEvent AtHome Unhindered NonePending; decide⟩

theorem witness_VectorElements :
    (vecInt (vatSl 7 .s32).fmt = true ∧ (addOp []).a = some (vatSl 8 .s32) ∧ (addOp []).i = .vadd g0 ⟨7, 8, .tile 8, false⟩)
    ∧ (scalarFloat (vatSl 0 .f32).fmt = true
        ∧ ∀ n ∈ [dazVal .f32 false (floatVal .f32 0x3F800000)], ∃ neg m e, n = .fin neg m e)
    ∧ dazVal .f32 false (floatVal .f32 0xFF800000) = .inf true ∧ dazVal .f32 false (floatVal .f32 0x7FC00000) = .nan
    ∧ (fmtFloat (vatSl 1 .f32).fmt = true ∧ fmtInt (vatSl 8 .s32).fmt = true ∧ (addOp []).rm ≤ 4)
    ∧ (let v := vop (.vred g0 ⟨.add, 7, 8, 0, false⟩) (some (vatSl 7 .s32)) (some (vatSl 8 .s32)) none 1 [granOf 8]
       v.a = some (vatSl 8 .s32) ∧ (0#3).toNat < ([0, 0, 0, 0, 0] : List Nat).length ∧ 0 < (vatSl 8 .s32).ext.getD (0#3).toNat 1)
    ∧ (let v := vop (.vperm g0 7 8 8 0) (some (vatSl 7 .s32)) (some (vatSl 8 .s32)) (some (vatSl 8 .s32)) 1 [granOf 8]
       v.a = some (vatSl 8 .s32) ∧ v.b = some (vatSl 8 .s32)) := by
  refine ⟨by decide, ⟨by decide, ?_⟩, by decide, by decide, by decide, by decide, by decide⟩
  intro n h
  rw [List.mem_singleton.mp h]
  exact ⟨false, 0x800000, -23, by decide⟩

theorem witness_QuantisedBlocks :
    let v := fun (x : Byte) => vop (.vquant g0 ⟨11, 12, false⟩) (some sl11) (some sl12) none x ((List.range 8).map fun i => 0x10000000880 / 32 + i)
    let val := fun (x : Byte) (i : Nat) => dazVal .f32 false (floatVal .f32 (vecElem (v x) sl12 [i, 0, 0, 0, 0]))
    (v 0).out = none ∧ vecNeeds (v 0) = [] ∧ scalarFloat sl12.fmt = true ∧ fmtBlock sl11.fmt = true ∧ sl11.ext.length = 5
      ∧ sl11.ext.getD 0 0 % 64 = 0 ∧ 63 < Slice.count sl11 ∧ (∀ i, i < 64 → (ratOf (val 0 i)).isSome = true) ∧ vecNeeds (v 255) = []
      ∧ (ratOf (val 255 0)).isSome = false := by
  decide +kernel

/-! #### Matrix instructions -/

/-- Sixteen bytes of metadata that keep positions 0 to 3, for 4 blocks. -/
def meta16 : List Byte := [0x20, 0x88, 1, 0, 0x20, 0x88, 1, 0, 0x20, 0x88, 1, 0, 0x20, 0x88, 1, 0]
def meta128 : List Byte := meta16 ++ meta16 ++ meta16 ++ meta16 ++ meta16 ++ meta16 ++ meta16 ++ meta16

/-- Tiles of task 1: 0 and 1 hold S8, 32 by 32; 2 E4M3, K 128 by 32; 4 and 5 the FP32 scales of those; 6 S8, 4 by 32; 7
and 8 128 bytes of metadata, good and zero; 9 a group table of one group of 32 rows on tile 1; 10 one on deckle 6;
11 S8, 4 by 64. -/
def mat (pfx : Word) : State :=
  let t : Nat → Nat → Nat → Tile := fun dk voff n => ⟨some 1, dk, voff, n, .ready, .empty, slots0⟩
  let s := st pfx
  { s.setQuire 0 { Quire.reset with
      deckles := [(0, dkr 0x10 2 0 32 32 1 32), (1, dkr 5 2 0 128 32 1 128), (2, dkr 2 2 0 1 32 4 4), (3, dkr 2 2 0 1 1 4 4),
        (4, dkr 0x10 2 0 4 32 1 4), (5, dkr 0x14 1 0 128 1 1 0), (6, dkr 0x10 2 0x1000 32 32 1 32), (7, dkr 0x14 1 0 16 1 1 0), (8, dkr 0x10 2 0 4 64 1 4)]
      tiles := [(0, t 0 16 8), (1, t 0 24 8), (2, t 1 32 32), (4, t 2 96 1), (5, t 3 97 1), (6, t 4 98 1),
        (7, t 5 99 1), (8, t 5 100 1), (9, t 7 101 1), (10, t 7 102 1), (11, t 8 103 2)] } with
    mem := (meta128.zipIdx.filter (fun x => x.1 != 0)).map (fun x => (0x10000003180 + x.2, x.1))
      ++ [(0x10000003280, 32), (0x10000003287, 1), (0x10000003300, 32), (0x10000003306, 6), (0x10000003309, 0x10)] }

def msl (f : Fmt) (unit n e0 e1 s0 s1 : Nat) : Slice :=
  let b := 0x10000000000 + unit * 128
  ⟨f, BitVec.ofNat 64 b, 2, [e0, e1, 1, 1, 1], [s0, s1, 0, 0, 0], 0, e0, true, b, b + n * 128⟩

def vsl (unit n : Nat) : Slice :=
  let b := 0x10000000000 + unit * 128
  ⟨.n8, BitVec.ofNat 64 b, 1, [n, 1, 1, 1, 1], [1, 0, 0, 0, 0], 0, n, true, b, b + 128⟩

def mat0 : State := mat 1
/-- FMT has left PSC: PP and bit 10 of the payload. -/
def matP : State := mat 0x2040000000001

/-- Four zeroing entries stand in the core's queue. -/
def fullQueue (s : State) : State :=
  s.setCore 0 { s.core 0 with queue := List.replicate 4 { entryBase s ctx1 .mzero false noSlice with id := 3 } }

def sA : Slice := msl .s8 16 8 32 32 1 32
def sB : Slice := msl .s8 24 8 32 32 1 32
def sP : Slice := msl .e4m3 32 32 128 32 1 128
def sU : Slice := msl .f32 96 1 1 32 4 4
def sW : Slice := msl .f32 97 1 1 1 4 4
def sS : Slice := msl .s8 98 1 4 32 1 4
def sH : Slice := msl .s8 103 2 4 64 1 4

/-- Deckle 6: B in memory. -/
def sD : Slice := { sB with base := 0x1000, vat := false, lo := 0, hi := 0 }

theorem m0 : TileIn mat0 0 sA := by unfold TileIn Mine; decide +kernel
theorem m1 : TileIn mat0 1 sB := by unfold TileIn Mine; decide +kernel
theorem m2 : TileIn matP 2 sP := by unfold TileIn Mine; decide +kernel
theorem m4 : TileIn matP 4 sU := by unfold TileIn Mine; decide +kernel
theorem m5 : TileIn matP 5 sW := by unfold TileIn Mine; decide +kernel
theorem m6 : TileIn mat0 6 sS := by unfold TileIn Mine; decide +kernel
theorem m7 : TileIn mat0 7 (vsl 99 128) := by unfold TileIn Mine; decide +kernel
theorem m8 : TileIn mat0 8 (vsl 100 128) := by unfold TileIn Mine; decide +kernel
theorem m9 : TileIn mat0 9 (vsl 101 16) := by unfold TileIn Mine; decide +kernel
theorem m11 : TileIn mat0 11 sH := by unfold TileIn Mine; decide +kernel
theorem m10 : TileIn mat0 10 (vsl 102 16) := by unfold TileIn Mine; decide +kernel

theorem s0A : SourceIn mat0 (some 0) (codeA mat0) (some sA) := ⟨_, m0, by decide +kernel⟩
theorem s1B : SourceIn mat0 (some 1) (codeB mat0) (some sB) := ⟨_, m1, by decide +kernel⟩
theorem s6S : SourceIn mat0 (some 6) (codeA mat0) (some sS) := ⟨_, m6, by decide +kernel⟩

theorem witness_MmaEnters :
    IssuesVm g0 mat0 ∧ NoRounding mat0
      ∧ (SourceIn mat0 (some 0) (codeA mat0) (some sA) ∧ MatBIn mat0 (.tile 1) (codeB mat0) sB
        ∧ MatBIn mat0 (.dk 6) (codeB mat0) sD ∧ sD.rank = 2 ∧ sA.rank = 2 ∧ sB.rank = 2
        ∧ RegionFits 32 32 32 (96#16).toNat (224#16).toNat false ∧ sB.ext.getD 0 0 = 32 ∧ pairOk sA.fmt sB.fmt = true
        ∧ pfxPSC (pendingPfx (here mat0)) = false)
      ∧ (IssuesVm g0 matP ∧ NoRounding matP ∧ SourceIn matP (some 2) (codeA matP) (some sP)
        ∧ MatBIn matP (.tile 2) (codeB matP) sP ∧ sP.rank = 2 ∧ sP.rank = 2 ∧ RegionFits 32 32 128 0 0 false
        ∧ sP.ext.getD 0 0 = 128 ∧ pairOk sP.fmt sP.fmt = true ∧ pfxPSC (pendingPfx (here matP)) = true
        ∧ TileIn matP 4 sU ∧ TileIn matP 5 sW ∧ sU.ext.getD 0 0 = 128 / 128 ∧ sU.ext.getD 1 1 = 32
        ∧ sW.ext.getD 0 0 = (32 + 127) / 128 ∧ sW.ext.getD 1 1 = 128 / 128)
      ∧ (mat0.core (coreOf mat0.cur)).queue.length < 4 ∧ 4 ≤ ((fullQueue mat0).core (coreOf (fullQueue mat0).cur)).queue.length :=
  ⟨by unfold IssuesVm; decide, by unfold NoRounding; decide,
    ⟨s0A, s1B, ⟨sD, by decide +kernel, by decide +kernel, by decide +kernel⟩, by decide, by decide, by decide, by unfold RegionFits; decide, by decide, by decide,
      by decide⟩,
    ⟨by unfold IssuesVm; decide, by unfold NoRounding; decide, ⟨_, m2, by decide +kernel⟩, ⟨_, m2, by decide +kernel⟩, by decide, by decide,
      by unfold RegionFits; decide, by decide, by decide, by decide, m4, m5, by decide, by decide, by decide, by decide⟩,
    by decide, by decide⟩

/-- The bytes of metadata of 32 entries of 4, of memory from `a` on, and whether they are good. -/
def metaAt (s : State) (a : Nat) : List Byte := (List.range (32 * 4)).map fun i => Memory.read s.mem (a + i)
def metaGood (md : List Byte) : Prop :=
  let entry := fun (z : Nat) => ofBytes ((md.drop (z * 4)).take 4)
  ∀ z, z < 32 → entry z / 2 ^ (5 * 4) % 2 ^ (3 * 4) = 0 ∧ ∀ j, j + 1 < 4 → entry z / 2 ^ (5 * j) % 32 < entry z / 2 ^ (5 * (j + 1)) % 32

theorem meta_rises : metaGood (metaAt mat0 0x10000003180) := by
  have h : ∀ z, z < 32 → ofBytes (((metaAt mat0 0x10000003180).drop (z * 4)).take 4) / 2 ^ (5 * 4) % 2 ^ (3 * 4) = 0
    ∧ ∀ j, j < 3 → ofBytes (((metaAt mat0 0x10000003180).drop (z * 4)).take 4) / 2 ^ (5 * j) % 32
        < ofBytes (((metaAt mat0 0x10000003180).drop (z * 4)).take 4) / 2 ^ (5 * (j + 1)) % 32 := by decide +kernel
  exact fun z hz => ⟨(h z hz).1, fun j hj => (h z hz).2 j (by omega)⟩

theorem meta_flat : ¬ metaGood (metaAt mat0 0x10000003200) :=
  fun h => absurd ((h 0 (by decide)).2 0 (by decide)) (by decide +kernel)

/-- The places of the metadata of tiles 7 and 8, and of the group tables of tiles 9 and 10. -/
def placesAt (a n : Nat) : List Int := (List.range n).map fun (i : Nat) => (a : Int) + (i : Int)

theorem free_mat0 (a n : Nat) : IssueFree mat0 (placesAt a n) :=
  fun _ _ => ⟨rfl, rfl, fun e h => by
    rw [show mat0.quires = [(0, mat0.quire 0)] from rfl] at h
    rw [List.mem_singleton.mp h]
    exact fun p hp => by cases hp⟩

theorem witness_MmasEnters :
    IssuesVm g0 mat0 ∧ NoRounding mat0 ∧ pfxPSC (pendingPfx (here mat0)) = false
      ∧ SourceIn mat0 (some 6) (codeA mat0) (some sS) ∧ MatBIn mat0 (.tile 1) (codeB mat0) sB ∧ sS.rank = 2
      ∧ (TileIn mat0 7 (vsl 99 128) ∧ (elemAddr (vsl 99 128) []).1 = 0x10000003180 ∧ metaGood (metaAt mat0 0x10000003180)
          ∧ 0x10000003180 + 32 * 4 ≤ (vsl 99 128).hi ∧ IssueFree mat0 (placesAt 0x10000003180 128)
          ∧ ∀ a ∈ placesAt 0x10000003180 128, poisoned mat0 (a.toNat / 32 * 32) 32 = false)
      ∧ (TileIn mat0 8 (vsl 100 128) ∧ ¬ metaGood (metaAt mat0 0x10000003200) ∧ 0x10000003200 + 32 * 4 ≤ (vsl 100 128).hi
          ∧ IssueFree mat0 (placesAt 0x10000003200 128))
      ∧ (SourceIn mat0 (some 11) (codeA mat0) (some sH) ∧ TileIn mat0 9 (vsl 101 16) ∧ (elemAddr (vsl 101 16) []).1 = 0x10000003280
          ∧ sH.ext.getD 0 0 % 4 = 0 ∧ RegionFits 64 32 (sH.ext.getD 0 0 * 32 / 4) 0 0 false ∧ ¬ 0x10000003280 + 64 * 4 ≤ (vsl 101 16).hi)
      ∧ sS.ext.getD 0 0 % 4 = 0 ∧ RegionFits 32 32 (sS.ext.getD 0 0 * 32 / 4) 0 0 false ∧ sB.ext.getD 0 0 = sS.ext.getD 0 0 * 32 / 4
      ∧ pairOk sS.fmt sB.fmt = true ∧ sS.fmt ≠ .f32 ∧ fmtBlock sS.fmt = false :=
  ⟨by unfold IssuesVm; decide, by unfold NoRounding; decide, by decide, s6S, s1B, by decide,
    ⟨m7, by decide +kernel, meta_rises, by decide, free_mat0 _ _, by decide +kernel⟩, ⟨m8, meta_flat, by decide, free_mat0 _ _⟩,
    ⟨⟨_, m11, by decide +kernel⟩, m9, by decide, by decide, by unfold RegionFits; decide, by decide⟩, by decide, by unfold RegionFits; decide, by decide, by decide, by decide, by decide⟩

/-- A granule of the metadata is poisoned, or leased by a thread of another core. -/
theorem witness_IssueMeets :
    (let s := { mat0 with poison := [(0x10000003180 / 32, true)] }
     (∀ a ∈ placesAt 0x10000003180 128, heldBack s (doerOf s s.cur) (a.toNat / 32 / 4) = false ∧ leaseOn s (a.toNat / 32 / 4) = none)
      ∧ ∃ a ∈ placesAt 0x10000003180 128, poisoned s (a.toNat / 32 * 32) 32 = true)
    ∧ (let s := mat0.setCore 1 { Core.reset with leases := [⟨17, 0x10000003180 / 128, 5000, 16, [], 0, []⟩] }
       ∃ a ∈ placesAt 0x10000003180 128, heldBack s (doerOf s s.cur) (a.toNat / 32 / 4) = true) := by decide +kernel

theorem witness_MmgEnters :
    let places := fun (u : Slice) => (Slice.indices u).map fun ix => (elemAddr u ix).1
    let table := fun (u : Slice) => groupTable ((places u).map fun a => Memory.read mat0.mem a.toNat)
    IssuesVm g0 mat0 ∧ NoRounding mat0 ∧ SourceIn mat0 (some 0) (codeA mat0) (some sA) ∧ TileIn mat0 9 (vsl 101 16)
      ∧ TileIn mat0 10 (vsl 102 16) ∧ table (vsl 101 16) = [0x0100000000000020] ∧ table (vsl 102 16) = [0x10000006000000000020]
      ∧ grpList mat0 (here mat0) false (codeB mat0) [0x0100000000000020] = some [⟨32, sB⟩]
      ∧ grpList mat0 (here mat0) true (codeB mat0) [0x10000006000000000020] = some [⟨32, sD⟩]
      ∧ (let e := 0x0100000000000020
         e / 2 ^ 32 % 2 ^ 16 = 0 ∧ e % 2 ^ 32 % 32 = 0 ∧ e / 2 ^ 64 % 2 ^ 64 = 0 ∧ e / 2 ^ 48 % 2 ^ 8 = 0
          ∧ ∃ z, TileIn mat0 (BitVec.ofNat 8 (e / 2 ^ 56)) z)
      ∧ (let e := 0x10000006000000000020
         e / 2 ^ 32 % 2 ^ 16 = 0 ∧ e % 2 ^ 32 % 32 = 0 ∧ e / 2 ^ 56 % 2 ^ 8 = 0 ∧ e / 2 ^ 48 % 2 ^ 8 < 64)
      ∧ RegionFits 32 32 32 0 0 false ∧ pairOk sA.fmt sB.fmt = true
      ∧ places (vsl 101 16) = placesAt 0x10000003280 16 ∧ IssueFree mat0 (placesAt 0x10000003280 16)
      ∧ (∀ a ∈ placesAt 0x10000003280 16, poisoned mat0 (a.toNat / 32 * 32) 32 = false) :=
  ⟨by unfold IssuesVm; decide, by unfold NoRounding; decide, s0A, m9, m10, by decide +kernel, by decide +kernel, by decide +kernel,
    by decide +kernel, ⟨by decide, by decide, by decide, by decide, _, m1⟩, by decide, by unfold RegionFits; decide, by decide,
    by decide +kernel, free_mat0 _ _, by decide +kernel⟩

theorem witness_OtherMatrix :
    IssuesVm g0 mat0 ∧ pfxFA (pendingPfx (here mat0)) = 0 ∧ pfxFB (pendingPfx (here mat0)) = 0
      ∧ pfxPSC (pendingPfx (here mat0)) = false ∧ TileIn mat0 0 sA ∧ sA.rank = 2 ∧ fmtInt sA.fmt = true
      ∧ (96#16).toNat + sA.ext.getD 1 1 ≤ 128 ∧ (224#16).toNat + sA.ext.getD 0 0 ≤ 256
      ∧ (mat0.core (coreOf mat0.cur)).queue = [] ∧ IssuesVm g0 (fullQueue mat0)
      ∧ ((fullQueue mat0).core (coreOf (fullQueue mat0).cur)).queue ≠ [] :=
  ⟨by unfold IssuesVm; decide, by decide, by decide, by decide, m0, by decide, by decide, by decide, by decide, by decide,
    by unfold IssuesVm; decide, by decide⟩

theorem witness_Retest :
    (let s := on fun c => { c with wait := .retest }
     (s.ctx 1).run = .running ∧ (s.ctx 1).wait = .retest)
    ∧ (let s := fullQueue (on fun c => { c with wait := .mwait [1, 2] })
       (s.ctx 1).run = .running ∧ (s.ctx 1).wait = .mwait [1, 2] ∧ ∀ e ∈ (s.core (coreOf 1)).queue, e.id ∉ [1, 2]) := by decide

/-! #### The matrix unit -/

/-- A dense entry of S8 tiles over 32 rows and columns, of K elements. -/
def ent (k : Nat) : MatEntry :=
  { entryBase world ctx1 .mma false sA with id := 1, groups := [⟨32, sB⟩], row0 := 96, col0 := 224, m := 32, n := 32, k := k }

/-- Core 0 and core 7 hold the entries; the arbiter stands at p with count u. -/
def armed (e : MatEntry) (es : List MatEntry) (p u : Nat) : State :=
  let s := (world.setCore 0 { world.core 0 with queue := [e] }).setCore 7 { Core.reset with queue := es }
  s.setQuire 0 { s.quire 0 with arbP := p, arbU := u, tlb := [⟨1, 0x1000, leaf1⟩] }

theorem core_cases {i : Nat} (h : i < 8) : i = 0 ∨ i = 1 ∨ i = 2 ∨ i = 3 ∨ i = 4 ∨ i = 5 ∨ i = 6 ∨ i = 7 := by omega

theorem poisonIn_clean (s : State) (h : s.poison = []) (l : List Int) : poisonIn s l = none := by
  simp [poisonIn, poisoned, h, Sparse.get]

/-- No step of `armed` has been granted, and none fails. -/
theorem armed_ready (k p u : Nat) : (∀ i, i < 8 → ∀ e, headOf (armed (ent k) [ent k] p u) (8 * 0 + i) = some e → e.granted = false)
    ∧ ∀ i x, i < 8 → ¬ StepFails (armed (ent k) [ent k] p u) (8 * 0 + i) x := by
  have clean : stepFail (armed (ent k) [ent k] p u) (ent k) = none := by
    have h := poisonIn_clean (armed (ent k) [ent k] p u) rfl
    simp [stepFail, h]
    rfl
  constructor
  · intro i hi e
    rcases core_cases hi with rfl | rfl | rfl | rfl | rfl | rfl | rfl | rfl <;> intro h <;> cases h <;> rfl
  · rintro i x hi ⟨e, h, -, -, hf⟩
    rcases core_cases hi with rfl | rfl | rfl | rfl | rfl | rfl | rfl | rfl <;> cases h <;> exact absurd (clean.symm.trans hf) nofun

theorem witness_GrantRotates :
    let s := armed (ent 32) [ent 32]
    (∀ p u, (∀ i, i < 8 → ∀ e, headOf (s p u) (8 * 0 + i) = some e → e.granted = false) ∧ ∀ i x, i < 8 → ¬ StepFails (s p u) (8 * 0 + i) x)
      ∧ ((s 0 0).quire 0).unitFree ≤ (s 0 0).cyc
      ∧ coreReady (s 0 0) (8 * 0 + 0) = true ∧ 0 < weightOf (s 0 0) (8 * 0 + 0)
      ∧ ¬ (coreReady (s 0 1) (8 * 0 + 0) = true ∧ 1 < weightOf (s 0 1) (8 * 0 + 0)) ∧ coreReady (s 0 1) (8 * 0 + (0 + 1 + 6) % 8) = true
      ∧ (∀ k, k < 6 → ¬ coreReady (s 0 1) (8 * 0 + (0 + 1 + k) % 8) = true)
      ∧ coreReady (s 7 1) (8 * 0 + (7 + 1 + 0) % 8) = true :=
  ⟨armed_ready 32, by decide, by decide, by decide, by decide, by decide, by decide, by decide⟩

theorem witness_StepFaults :
    let x : Trap := ⟨.address, 0x1000, .eread, 0⟩
    let e := { ent 32 with fail := some x, by_ := ⟨1, 0, 0x1000, [], some 1, some 0, some 1⟩ }
    let s := armed e [] 0 0
    headOf s (8 * 0 + 0) = some e ∧ e.granted = false ∧ e.faulted = false ∧ stepFail s e = some x ∧ e.by_.part = some 0
      ∧ ∀ k y, k < 0 → ¬ StepFails s (8 * 0 + k) y := by
  refine ⟨by decide, by decide, by decide, by decide, by decide, fun k y h => by omega⟩

/-- Every granule of the vat that a step of `e` needs, read as zeros. -/
def readAll (e : MatEntry) : MatEntry :=
  { e with granted := true, cur := (vatNeeds e).map fun g => (vatKey (32 * g), List.replicate 32 0) }

/-- The granted step of `e` at core 0's head may end. -/
def StepReady (e : MatEntry) : Prop :=
  let s := armed (readAll e) [ent 32] 0 0
  (s.core (8 * 0 + 0)).queue = readAll e :: [] ∧ vatNeeds (readAll e) = [] ∧ (s.quire 0).unitFree ≤ s.cyc
    ∧ pairOk e.a.fmt (groupB e).fmt = true ∧ (fmtBlock e.a.fmt = false → e.half = none)
    ∧ e.row0 + rowsBefore e + (grpAt e e.grp).rows ≤ 128 ∧ e.col0 + e.n ≤ 256

/-- Entries of block-scaled operands, of scaled FP8 operands, and of three groups, the second empty. -/
def blocks : MatEntry := { ent 64 with a := { sP with fmt := .bs8 }, groups := [⟨32, { sP with fmt := .bs8 }⟩] }
def psc : MatEntry := { ent 128 with a := sP, groups := [⟨32, sP⟩], step := 3, scales := some (sU, sW) }
def groups3 : MatEntry := { ent 32 with groups := [⟨32, sB⟩, ⟨0, sB⟩, ⟨32, sB⟩], row0 := 64, kind := .mmg }

theorem ready_mid : StepReady (ent 64) := by unfold StepReady; decide +kernel
theorem ready_last : StepReady (ent 32) := by unfold StepReady; decide +kernel
theorem ready_half : StepReady blocks := by unfold StepReady; decide +kernel
theorem ready_chunk : StepReady { blocks with step := 1, half := some [] } := by unfold StepReady; decide +kernel
theorem ready_psc : StepReady psc := by unfold StepReady; decide +kernel
theorem ready_group : StepReady groups3 := by unfold StepReady; decide +kernel

theorem witness_TileSteps :
    StepReady (ent 64) ∧ 32 * ((ent 64).step + 1) < (ent 64).k ∧ StepReady (ent 32) ∧ (ent 32).k ≤ 32 * ((ent 32).step + 1)
      ∧ StepReady blocks ∧ fmtBlock blocks.a.fmt = true ∧ blocks.step % 2 = 0 ∧ StepReady { blocks with step := 1, half := some [] }
      ∧ StepReady psc ∧ StepReady groups3 ∧ (groups3.groups[2]?).map (·.rows) = some 32 ∧ (groups3.groups[1]?).map (·.rows) = some 0
      ∧ ∀ i, i < 8 → i ≠ 0 → ∀ x, headOf (armed (readAll (ent 64)) [ent 32] 0 0) (8 * 0 + i) = some x → x.granted = false := by
  refine ⟨ready_mid, by decide, ready_last, by decide, ready_half, by decide, by decide, ready_chunk, ready_psc, ready_group, rfl, rfl,
    fun i hi hn x => ?_⟩
  rcases core_cases hi with rfl | rfl | rfl | rfl | rfl | rfl | rfl | rfl
  · exact absurd rfl hn
  all_goals intro h; cases h <;> rfl

/-- A B that is streamed from address 0x1000, for which HBM of the mapped page is read. -/
def streamed : MatEntry :=
  let z : Slice := { sB with base := 0x1000, vat := false, lo := 0, hi := 0 }
  { ent 32 with groups := [⟨32, z⟩] }

theorem witness_OperandReads :
    (let s := armed streamed [] 0 0
     let ev : GEv := ⟨0x100000 / 32 * 32, 32, .coherent, BitVec.ofNat 64 ((0x1000#64).toNat / 32 * 32), .eread, .v, .read⟩
     headOf s 0 = some streamed ∧ streamed.kind = .mma ∧ streamed.faulted = false ∧ streamed.fail = none
      ∧ readStep streamed = some (0, 0) ∧ (grpAt streamed 0).b.vat = false ∧ granSize 0x100000 = 32
      ∧ (∃ a ∈ stepB streamed 0 0, (BitVec.ofInt 64 a).toNat / 32 = (0x1000#64).toNat / 32
          ∧ heldAddr streamed.got (BitVec.ofInt 64 a).toNat = false)
      ∧ resolve s (streamed.by_.who (quireOfCore 0)) 0x1000 .eread = (s, .ok (.locs [⟨0x100000, .coherent, 0x1000⟩]))
      ∧ DoerAtHome s (streamDoer 0 streamed) ev ∧ poisoned s (0x100000 / 32 * 32) 32 = false)
    ∧ (let e := { ent 32 with granted := true }
       let g := 0x10000000800 / 32
       let s := armed e [] 0 0
       headOf s 0 = some e ∧ g ∈ vatNeeds e ∧ (0x10000000800#64).toNat / 32 = g
        ∧ DoerAtHome s (streamDoer 0 e) (vatEv g .eread .read) ∧ poisoned s (32 * g) 32 = false
        ∧ poisoned { s with poison := [(g, true)] } (32 * g) 32 = true
        ∧ DoerAtHome { s with poison := [(g, true)] } (streamDoer 0 e) (vatEv g .eread .read)) := by
  unfold DoerAtHome NonePending
  refine ⟨⟨by decide, by decide, by decide, by decide, by decide, by decide, by decide, ⟨0x1000, by decide +kernel, by decide⟩,
    by decide +kernel, by decide, by decide⟩, by decide +kernel⟩

/-- An MST of 32 words of column 0 to the tile of `sU`. -/
def mstEnt (got : List (Nat × List Byte)) : MatEntry :=
  { entryBase { world with cyc := 4999 } ctx1 (.mst false false 0 0 5) true noSlice with td := some sU, m := 32, n := 1, got := got }

theorem apart_sU : Apart sU := by
  have h : ∀ i < 32, ∀ j < 32,
      let p := elemAddr sU (unlin sU.ext i)
      let q := elemAddr sU (unlin sU.ext j)
      0 ≤ p.1 ∧ (i ≠ j → 8 * p.1 + p.2 + fmtBits sU.fmt ≤ 8 * q.1 + q.2 ∨ 8 * q.1 + q.2 + fmtBits sU.fmt ≤ 8 * p.1 + p.2) := by
    decide +kernel
  exact fun i j hi hj => h i hi j hj

theorem witness_EntriesRun :
    (let e := entryBase { world with cyc := 4999 } ctx1 .mzero true noSlice
     let s := armed e [] 0 0
     (s.core 0).queue = e :: [] ∧ e.kind = .mzero ∧ e.since + 1 ≤ s.cyc)
    ∧ (let e := mstEnt []
       let g := 0x10000003000 / 32
       let s := armed e [] 0 0
       (s.core 0).queue = e :: [] ∧ e.kind = .mst false false 0 0 5 ∧ e.td = some sU ∧ e.faulted = false ∧ g ∈ mstNeeds e
        ∧ DoerAtHome s (mstDoer 0 e) (vatEv g .ewrite (.write [])))
    ∧ (let e := mstEnt ((List.range 4).map fun i => (0x10000003000 / 32 + i, []))
       let s := armed e [] 0 0
       (s.core 0).queue = e :: [] ∧ mstNeeds e = [] ∧ e.since + (e.m * e.n + 1023) / 1024 ≤ s.cyc)
    ∧ Apart sU := by
  unfold DoerAtHome NonePending
  exact ⟨by decide, by decide +kernel, by decide +kernel, apart_sU⟩

/-! #### Caches, the directory and the host -/

/-- The directory entry of line 8192, homed on die 0, is `x`; partition 0 has remote-data cache ways on every die. -/
def homed (x : Dir) (f : Die → Die) : State :=
  let s := (setDir world 8192 x).setPart 0 { (world.part 0) with rdcmask := 0xFFFFFFFFFFFFFFFF }
  s.setDie 0 (f Die.reset)

/-- An owned entry of die 2, and a request of core `core` for line 8192. -/
def dir2 : Dir := ⟨3, true, 2, 0⟩
def cohReq (die core : Nat) (k : CohKind) : CohReq := ⟨8192, die, core, some 0, k, true⟩

/-- The request stands first in its die's queue to die 0. -/
def queued (x : Dir) (r : CohReq) : State := (homed x id).setDie r.die { Die.reset with reqs := [r] }

/-- A lease on line 8192 of context 1. -/
def lineLeased (s : State) : State := s.setCore 0 { Core.reset with leases := [⟨1, 8192, 5000, 16, [], 0, []⟩] }

theorem witness_OrderPoint :
    let ok := fun (r : CohReq) (s : State) => AtOrderPoint s 0 r ∧ heldBack s (reqDoer r) r.line = false
      ∧ (∀ c ∈ (s.die 0).recalls, c.line ≠ r.line)
    ok (cohReq 1 511 .read) (queued dir2 (cohReq 1 511 .read)) ∧ (dirAt (homed dir2 id) 8192).owner.toNat = 2
      ∧ ok (cohReq 1 256 .read) (queued .reset (cohReq 1 256 .read)) ∧ rdcWays (homed .reset id) (some 0) 1 ≠ 0
      ∧ ok (cohReq 3 1023 .own) (queued .reset (cohReq 3 1023 .own)) ∧ ok (cohReq 2 512 .own) (queued dir2 (cohReq 2 512 .own))
      ∧ ok (cohReq 0 0 .own) (homed .reset id) ∧ ok (cohReq 0 255 .own) (homed dir2 id)
      ∧ (dirAt (homed .reset id) 8192).owned = false ∧ rdcWays world none 1 = 0 := by
  unfold AtOrderPoint; decide

theorem witness_RequestsWait :
    (let r := cohReq 1 256 .own
     r.core / 256 = r.die ∧ homeDie r.line = some 0 ∧ linkDown world 1 0 = false ∧ ∀ w ∈ (world.die 1).leaving, w.line ≠ r.line)
    ∧ (let r := cohReq 0 5 .own
       let s := lineLeased (homed .reset id)
       AtOrderPoint s 0 r ∧ heldBack s (reqDoer r) r.line = true)
    ∧ (let r : CohReq := ⟨0x8000000000000 / 128, 3, 1023, some 0, .own, true⟩
       r.die < 4 ∧ r.core / 256 = r.die ∧ rangeOf (128 * r.line) = .cxl ∧ rdcWays (homed .reset id) r.part r.die ≠ 0) := by
  unfold AtOrderPoint; decide

theorem witness_Evictions :
    let r := cohReq 1 300 .writeBack
    let rdc := fun (h : Hold) => (homed dir2 id).setDie 1 { Die.reset with rdc := [⟨8192, some 0, h, 3⟩] }
    let l1 := world.setCore 40 { Core.reset with l1d := [⟨8192, .coherent, .modified⟩] }
    r.core / 256 = r.die ∧ homeDie r.line ≠ some 1 ∧ (rdcAt (rdc .shared) 1 8192).1 = .shared ∧ (rdcAt (rdc .modified) 1 8192).1 = .modified
      ∧ (homeDie r.line).isSome = true ∧ homeDie (cohReq 0 40 .writeBack).line = some 0 ∧ l1dAt l1 40 8192 = .modified := by
  decide

theorem witness_Notified :
    (∀ k, (k = .own ∨ k = .read ∨ k = .hostSnoop) → ((homed .reset fun d => { d with seq := [cohReq 0 255 k] }).die 0).seq = cohReq 0 255 k :: [])
      ∧ cacheable 8192 = true ∧ NonePending (homed .reset fun d => { d with seq := [cohReq 0 255 .own] }) 8192
      ∧ (let s := { world with ctxs := [(0, ctx1), (1, ctx1)] }
         inKey s 0 ⟨8192, 0, 255, partOf s 0, .own, true⟩ = true ∧ inKey s 0 ⟨8192, 0, 255, some 7, .own, true⟩ = false)
      ∧ l1dAt (world.setCore 254 { Core.reset with l1d := [⟨8192, .coherent, .modified⟩] }) 254 8192 = .modified := by
  refine ⟨?_, by decide, by unfold NonePending; decide, by decide, by decide⟩
  rintro k (rfl | rfl | rfl) <;> decide

theorem witness_RecallAndWriteBack :
    (let c : CohKind → Nat → Recall := fun k d => ⟨8192, 2, cohReq d (256 * d) k⟩
     let s := fun k d => (homed dir2 fun x => { x with recalls := [c k d] }).setDie 2 { Die.reset with rdc := [⟨8192, some 0, .modified, 3⟩] }
     let ok := fun k d => ((s k d).die 0).recalls.find? (fun x => x.line == 8192) = some (c k d)
       ∧ ((s k d).die 0).recalls.find? (fun x => x.owner == (c k d).owner) = some (c k d) ∧ (c k d).req.line = 8192
       ∧ (c k d).owner < 4 ∧ (c k d).owner ≠ 0 ∧ (c k d).req.die < 4 ∧ (c k d).req.die ≠ (c k d).owner
     ok .read 1 ∧ ok .own 1 ∧ ok .own 0 ∧ (rdcAt (s .read 1) 2 8192).1 = .modified ∧ rdcWays (s .own 1) (some 0) 1 ≠ 0)
    ∧ (let w : Leaving := ⟨8192, 3, List.replicate 128 5, 1, 0⟩
       let s := fun x => (homed x id).setDie 2 { Die.reset with leaving := [w] }
       ((s dir2).die 2).leaving.find? (fun x => x.line == 8192) = some w ∧ homeDie 8192 = some 0
        ∧ ((s dir2).die 2).leaving.find? (fun y => homeDie y.line == some 0) = some w
        ∧ (dirAt (s dir2) 8192).owned = true ∧ (dirAt (s dir2) 8192).owner.toNat = 2 ∧ (dirAt (s dir2) 8192).ver = 3
        ∧ (dirAt (s .reset) 8192).owned = false) := by decide

theorem witness_HostMemory :
    (let ok := fun (s : State) (pa : Nat) (data : List Byte) => s.dev.trip = false ∧ granuleOf pa = some 0
       ∧ granuleBusy s pa = false ∧ data ≠ [] ∧ pa / 32 = (pa + data.length - 1) / 32 ∧ ideHolds s 0 = false
       ∧ NonePending s (lineOf pa)
     let shared := world.setFront { world.front with gran := [(0, 0xC000)] }
     ok shared 0 (List.replicate 32 1) ∧ heldBack shared (hostDoer 0) (lineOf 0) = false
      ∧ (Sparse.get 0 shared.front.gran 0).getLsbD 14 = true
      ∧ ok (lineLeased shared) 0x100000 [1] ∧ heldBack (lineLeased shared) (hostDoer 0x100000) (lineOf 0x100000) = true
      ∧ (lineLeased shared).dev.hostHeld = []
      ∧ ok world 0x3FFFFFFF [1] ∧ (Sparse.get 0 world.front.gran 0).getLsbD 14 = false
      ∧ ideHolds (shared.setDev { shared.dev with idereq := true }) 0 = true)
    ∧ rangeOf 0x8000000000000 = .cxl ∧ 0x8000000000000 % 128 + (List.replicate 128 (1 : Byte)).length ≤ 128
      ∧ rangeOf 0xBFFFFFFFFFFFF = .cxl ∧ 0xBFFFFFFFFFFFF % 128 + [(1 : Byte)].length ≤ 128 ∧ world.dev.trip = false
      ∧ rangeOf 0xC000000000000 = .pcie := by
  unfold NonePending
  refine ⟨⟨?_, ?_, ?_, ?_, ?_, ?_, ?_, ?_, ?_⟩, ?_⟩ <;> decide

theorem witness_Scrubbed : 5 < 6 ∧ deviceByte 0x100000 = true ∧ 3 < 4 ∧ 1 < 2 ^ 14 ∧ (world.ctx 1).run = .running := by decide

/-! #### Packets -/

/-- A packet from device 1, and its arrival in slot 1. -/
def pk (typ : BitVec 4) (arg : Nat) (payload : List Byte) : Packet :=
  { pkey := 5, src := 1, dst := 0, via := 0, cls := BitVec.ofNat 2 (typeClass typ.toNat), gen := false, hlim := 1, hop := false,
    credit := 0, seq := 0, ack := 3, kph := false, typ := typ, nonce := 0,
    arg := BitVec.ofNat 96 arg, tag := 0, payload := payload }

def arr (p : Packet) : Arrival := ⟨p, 0, 1, true, true, true, false, 2, 4⟩

/-- The fabric in slot 1, whose partner on plane 0 is device 1. -/
def fab1 : Fabric := { fab with slot := 1, cal := [(1, some 1)] }
def meet (s : State) : State := s.setFabric fab1

/-- `Arrives`, as one test. -/
def arrives (s : State) (a : Arrival) : Bool :=
  !a.own && s.fabric.state == 2 && !s.dev.trip && a.crcOk && a.tagOk && a.rsvOk && decide (a.plane < 16)
    && a.sender.toNat == (myDev s ^^^ calKey s a.plane s.fabric.slot) && (if a.pkt.hop then a.pkt.via else a.pkt.src) == a.sender
    && decide (a.pkt.payload.length ≤ 4096)
    && decide (a.pkt.typ.toNat < 9) && a.pkt.cls.toNat == typeClass a.pkt.typ.toNat && (a.pkt.hlim == 1 || a.pkt.hlim == 2)
    && a.pkt.dst.toNat == myDev s && partOfKey s a.pkt.pkey == some 0
    && inBlock s a.pkt.src.toNat && rankOf s 0 a.pkt.src.toNat == some 1
    && sessionWith s a.pkt.pkey a.pkt.src.toNat == some ⟨5, 1, 0, 0, false, none⟩ && !a.pkt.kph

theorem ofArrives {s : State} {a : Arrival} (h : arrives s a = true) : Arrives s a 0 := by
  simp only [arrives, Bool.and_eq_true, Bool.not_eq_true', beq_iff_eq, decide_eq_true_eq, Bool.or_eq_true] at h
  obtain ⟨⟨⟨⟨⟨⟨⟨⟨⟨⟨⟨⟨⟨⟨⟨⟨⟨⟨h1, h2⟩, h3⟩, h4⟩, h5⟩, h6⟩, h7⟩, h8⟩, h9⟩, h10⟩, h11⟩, h12⟩, h13⟩, h14⟩, h15⟩, h16⟩, h17⟩, h18⟩, h19⟩ := h
  exact ⟨h1, h2, h3, h4, h6, h7, h8, h9, h10, h11, h12, h13, h14, h15, fun _ => h16, fun _ => ⟨⟨1, h17⟩, h5, _, h18, .inl h19.symm⟩⟩

theorem ofNext {s : State} {a : Arrival} (h : arrives s a = true)
    (h' : a.pkt.seq = (pairCh s a.pkt.src.toNat a.pkt.cls.toNat).next ∧ (pairCh s a.pkt.src.toNat a.pkt.cls.toNat).window = []) :
    NextUp s a 0 := ⟨ofArrives h, h'⟩

theorem witness_ReorderWindow :
    let a := fun (n : BitVec 32) => arr { pk 3 0 [] with seq := n }
    let s := meet world
    Arrives s (a 1) 0 ∧ Arrives s (a 511) 0 ∧ Arrives s (a 512) 0
      ∧ (∀ x ∈ (pairCh s 1 2).window, x.pkt.seq ≠ (pairCh s 1 2).next) ∧ ((1 : BitVec 32) - (pairCh s 1 2).next).toNat ≠ 0
      ∧ ((511 : BitVec 32) - (pairCh s 1 2).next).toNat < 512 ∧ ¬ ((512 : BitVec 32) - (pairCh s 1 2).next).toNat < 512 :=
  ⟨ofArrives (by decide +kernel), ofArrives (by decide +kernel), ofArrives (by decide +kernel), by decide⟩

/-- The slot tag of context 1 with its SLOTGEN 0. -/
def tag1 : Nat := 2 ^ 40

/-- Context 1 migrates to device 1 under the fabric, after `n` refusals. -/
def leaving (rd : Option Reg) (n : Nat) : State := meet (on fun c => { c with wait := .migrate ⟨1, 1, none, rd, .none, 0, n⟩ })

/-- Context 1's access `op` of 8 bytes at address 0x1000 has been sent to device `dev`. -/
def askEv (op : GOp) (acc : Acc) : GEv := ⟨0, 8, .coherent, 0x1000, acc, .v, op⟩
def askPort (op : GOp) (acc : Acc) (fin : PortDone) (dev : Nat) : Port :=
  ⟨[askEv op acc], [], fin, 8, some dev, true, 0, 0x40, 5000, .dflt, none⟩
def asking : State := meet (on fun c => { c with wait := .port, port := some (askPort .read .read (.load 4 false) 1) })

theorem witness_AnswersAct :
    (∀ typ, (typ = 3 ∨ typ = 4 ∨ typ = 6) → NextUp (meet world) (arr (pk typ (tag1 + 1) [])) 0)
      ∧ ¬ Holds (meet world) (arr (pk 3 (tag1 + 1) []))
      ∧ (∀ typ, (typ = 3 ∨ typ = 4) → NextUp (leaving none 3) (arr (pk typ tag1 [])) 0)
      ∧ NextUp (leaving (some 4) 3) (arr (pk 4 tag1 [])) 0 ∧ NextUp (leaving none 2) (arr (pk 4 tag1 [])) 0
      ∧ (let ok := fun (rd : Option Reg) (n : Nat) => Holds (leaving rd n) (arr (pk 3 tag1 []))
           ∧ ((leaving rd n).ctx 1).wait = .migrate ⟨1, 1, none, rd, .none, 0, n⟩
         ok none 3 ∧ ok (some 4) 3 ∧ ok none 2)
      ∧ 1 ≠ myDev (leaving none 2) ∧ reachable (leaving none 2) (partOf (leaving none 2) 1) 1 = true ∧ leasesOf (leaving none 2) 1 = []
      ∧ (∀ v : Byte, (v = 0 ∨ v = 13) → NextUp asking (arr (pk 6 tag1 (List.replicate 32 0 ++ [v]))) 0)
      ∧ Holds asking (arr (pk 6 tag1 [])) ∧ (asking.ctx 1).port = some (askPort .read .read (.load 4 false) 1)
      ∧ ((List.replicate 32 (0 : Byte) ++ [0]).getD 32 0 = 0 ∧ (List.replicate 32 (0 : Byte) ++ [13]).getD 32 0 ≠ 0) := by
  refine ⟨?_, by unfold Holds; decide, ?_, ofNext (by decide +kernel) (by decide +kernel), ofNext (by decide +kernel) (by decide +kernel), ?_, by decide, by decide,
    by decide, ?_, by unfold Holds; decide, by decide⟩
  · rintro t (rfl | rfl | rfl) <;> exact ofNext (by decide +kernel) (by decide +kernel)
  · rintro t (rfl | rfl) <;> exact ofNext (by decide +kernel) (by decide +kernel)
  · unfold Holds; decide
  · rintro v (rfl | rfl) <;> exact ofNext (by decide +kernel) (by decide +kernel)

/-- The payload of a MIGR whose MIGR names quire 0. -/
def migBytes : List Byte := List.replicate 164 0 ++ [8, 0x80] ++ List.replicate 26 0

/-- Every context of 1 to 15 of quire 0 runs. -/
def crowded : State := meet { world with ctxs := (List.range 128).map fun p => (p, ctx1) }

theorem witness_MigrationPlaced :
    let a := arr (pk 2 0 migBytes)
    NextUp (meet world) a 0 ∧ a.pkt.typ = 2 ∧ reachable (meet world) (some 0) 1 = true ∧ NumbersFresh (meet world)
      ∧ migBytes.length = 192 ∧ migBytes.getD 164 0 = 8
      ∧ partOfQuire (meet world) 0 = some 0 ∧ freeContext (meet world) 0 = some 2
      ∧ NextUp crowded a 0 ∧ reachable crowded (some 0) 1 = true ∧ freeContext crowded 0 = none
      ∧ (let b := arr (pk 2 0 (migBytes.set 165 0xFF))
         NextUp (meet world) b 0 ∧ partOfQuire (meet world) 127 ≠ some 0) :=
  ⟨ofNext (by decide +kernel) (by decide +kernel), by decide, by decide +kernel, by unfold NumbersFresh; decide, by decide +kernel, by decide +kernel,
    by decide +kernel, by decide +kernel, ofNext (by decide +kernel) (by decide +kernel), by decide +kernel, by decide +kernel,
    ofNext (by decide +kernel) (by decide +kernel), by decide⟩

/-- Tile 3, EMPTY, four FP32 elements: 16 bytes; a COPYR's packet of transfer 9 to it, and a job that sends to device 1. -/
def copyData : Packet := pk 0 (pack [(7, 0), (1, 0), (8, 3), (32, 0), (32, 16), (16, 9)]) (List.replicate 16 7)
def copyAway : Packet := pk 0 (pack [(7, 127), (1, 0), (8, 3), (32, 0), (32, 16), (16, 9)]) (List.replicate 16 7)
def copyWrong : Packet := pk 0 (pack [(7, 0), (1, 0), (8, 2), (32, 0), (32, 16), (16, 9)]) (List.replicate 16 7)
def sender : Job := job 9 0 (.copyrSend 1 1 0 3 7 16 16 false) (vatSl 4 .f32) (some 4) none
def sends : State := meet (stocked [sender])

theorem witness_CopyrDelivered :
    (let s := meet (stocked [])
     NextUp s (arr copyData) 0 ∧ NextUp s (arr copyAway) 0 ∧ NextUp s (arr copyWrong) 0 ∧ rankOf s 0 1 = some 1
      ∧ reachable s (some 0) 1 = true ∧ 1 ≠ myDev s ∧ NumbersFresh s ∧ NoReceives s
      ∧ LandsAt s copyData 0 1 2 4 0x10000000980 ∧ copyAway.arg.extractLsb' 16 32 = 0
      ∧ partOfQuire s (copyAway.arg.extractLsb' 0 7).toNat ≠ some 0 ∧ meets s copyWrong 0 1 2 4 = .refused)
    ∧ (∀ v, (v = 0 ∨ v = 1) → let p := pk 1 (pack [(16, 7), (8, v)]) []
         NextUp sends (arr p) 0 ∧ sendJobOf sends 1 (p.arg.extractLsb' 0 16).toNat (some 0) = some (0, sender)
          ∧ p.arg.extractLsb' 16 8 = BitVec.ofNat 8 v)
    ∧ sender.faulted = false := by
  refine ⟨⟨ofNext (by decide +kernel) (by decide +kernel), ofNext (by decide +kernel) (by decide +kernel),
    ofNext (by decide +kernel) (by decide +kernel), by decide +kernel, by decide +kernel, by decide +kernel, by unfold NumbersFresh; decide,
    by unfold NoReceives; decide, ?_, by decide +kernel, by decide +kernel, by decide +kernel⟩, ?_, by decide +kernel⟩
  · exact ⟨by decide, by decide, by decide, ⟨vatSl 3 .f32, by decide +kernel, by decide +kernel⟩, by decide, by decide,
      by unfold NoReceives; decide, by decide, by decide, by decide, by unfold NonePending; decide⟩
  · rintro v (rfl | rfl) <;> exact ⟨ofNext (by decide +kernel) (by decide +kernel), by decide +kernel, by decide +kernel⟩

/-- The payload of a request of kind `k` for `n` bytes at 0x1000. -/
def asks (k n : Byte) : List Byte := [0, 16, 0, 0, 0, 0, 0, 0, k, n, 0, 2, 0x40, 0, 0, 0] ++ List.replicate 32 0

/-- Partition 0 resolves remote accesses under identifier 1, whose page 0x1000 quire 0 has cached. -/
def serves : State :=
  let s := (meet world).setPart 0 { (world.part 0) with migasid := 1 }
  s.setQuire 0 { s.quire 0 with tlb := [⟨1, 0x1000, leaf1⟩] }

/-- The request resolves in `serves` to work that starts with `ev`, which is performed at the Home. -/
def Resolves (p : Packet) (ev : GEv) (rest : List GEv) : Prop :=
  resolveRacc serves p 0 none = (serves, .ok ⟨0, ev :: rest, [], false, none⟩) ∧ DoerAtHome serves (raccDoer none 1 0 0) ev ∧ ev.len ≤ 32
    ∧ poisoned serves ev.pa ev.len = false

def servedEv (op : GOp) (acc : Acc) (k n : Nat) : GEv := ⟨0x100000 + k, n, .coherent, BitVec.ofNat 64 (0x1000 + k), acc, .v, op⟩

theorem witness_RemoteServed :
    (∀ k n : Byte, (k = 0 ∨ k = 1 ∨ k = 2) → (n = 8 ∨ n = 64) → NextUp serves (arr (pk 5 tag1 (asks k n))) 0)
      ∧ reachable serves (some 0) 1 = true ∧ NumbersFresh serves ∧ (pairCh serves 1 0).work = none ∧ serves.releases = []
      ∧ Resolves (pk 5 tag1 (asks 0 8)) (servedEv .read .read 0 8) []
      ∧ Resolves (pk 5 tag1 (asks 1 8)) (servedEv (.write (List.replicate 8 0)) .write 0 8) []
      ∧ Resolves (pk 5 tag1 (asks 2 8)) (servedEv (.rmw .add .b64 (0 : BitVec 64).toNat) .atomic 0 8) []
      ∧ isQueued (servedEv (.rmw .add .b64 0) .atomic 0 8) = false
      ∧ Resolves (pk 5 tag1 (asks 1 64)) (servedEv (.write (List.replicate 32 0)) .write 0 32) [servedEv (.write []) .write 32 32]
      ∧ (∃ s1 x, resolveRacc (meet world) (pk 5 tag1 (asks 0 8)) 0 none = (s1, .error (some x))) := by
  refine ⟨?_, by decide, by unfold NumbersFresh; decide, by decide, by decide, ?_, ?_, ?_, by decide, ?_, ⟨_, _, rfl⟩⟩
  · rintro k n (rfl | rfl | rfl) (rfl | rfl) <;> exact ofNext (by decide +kernel) (by decide +kernel)
  all_goals unfold Resolves DoerAtHome NonePending; decide +kernel

theorem witness_ControlPackets :
    NextUp (meet world) (arr (pk 7 0 [])) 0 ∧ NextUp (meet world) (arr (pk 8 0 [])) 0
      ∧ (let s := (meet world).setFabric { fab1 with sessions := [⟨5, 1, 0, 0, false, some [0, 1, 2]⟩] }
         sessionWith s 5 1 = some ⟨5, 1, 0, 0, false, some [0, 1, 2]⟩) :=
  ⟨ofNext (by decide +kernel) (by decide +kernel), ofNext (by decide +kernel) (by decide +kernel), by decide⟩

/-- A send job to this device's own rank: its 16 bytes of tile 4 have been read. -/
def ownJob : Job :=
  { job 9 0 (.copyrSend 0 0 0 3 7 16 16 false) (vatSl 4 .f32) (some 4) none with
    got := (List.range 16).map fun i => (0x10000000A00 + i, some 7) }
def ownCopy : State := linked.setQuire 0 { tiles with jobs := [ownJob] }
def ownPkt : Packet :=
  ownPacket ownCopy 0 0 (pack [(7, 0), (1, 0), (8, 3), (32, 0), (32, 16), (16, 7)]) (List.replicate 16 7)

def mig0 : Migration := ⟨0, 0, some 0, none, .none, 0, 0⟩
def ownMig : State := linked.setCtx 1 { ctx1 with wait := .migrate mig0 }
def ownAsk (op : GOp) (acc : Acc) (fin : PortDone) : State :=
  let s := serves.setFabric fab
  s.setCtx 1 { ctx1 with wait := .port, port := some (askPort op acc fin 0) }

theorem witness_OwnRank :
    ((ownDatas ownCopy).find? (fun e => ownArrival e.1 (some e.2.2.2) == ownArrival ownPkt (some (vatSl 4 .f32)))
        = some (ownPkt, 0, 0, vatSl 4 .f32)
      ∧ LandsAt ownCopy ownPkt 0 0 (ownArrival ownPkt (some (vatSl 4 .f32))).fmt (ownArrival ownPkt (some (vatSl 4 .f32))).count 0x10000000980)
    ∧ (let p := ownPacket ownMig 0 2 0 (migPayload ownMig 1 mig0)
       ownMigration ownMig 1 = some (p, 0)
        ∧ (ownMig.ctxs.filterMap fun e => ownMigration ownMig e.1).find? (fun e => ownArrival e.1 none == ownArrival p none) = some (p, 0)
        ∧ (ownMig.ctx 1).wait = .migrate mig0 ∧ mig0.acc = .none ∧ 0 = mig0.quire.getD (quireOf 1) ∧ partOfQuire ownMig 0 = some 0
        ∧ 0 = quireOf 1 ∧ linkDown ownMig (dieOf 1) (dieOfQuire 0) = false ∧ freeContext ownMig 0 = some 2)
    ∧ (let ok := fun (op : GOp) (acc : Acc) (fin : PortDone) =>
         let s := ownAsk op acc fin
         let x := askPort op acc fin 0
         let p := ownPacket s 0 5 (slotTag s 1) (raccPayload x (askEv op acc))
         ownRacc s 1 = some (p, 0)
          ∧ (s.ctxs.filterMap fun e => (ownRacc s e.1).map fun x => (e.1, x)).find?
              (fun e => ownArrival e.2.1 none == ownArrival p none) = some (1, p, 0)
          ∧ (s.ctx 1).port = some x
          ∧ resolveRacc s p 0 (some 1) = (s, .ok ⟨0, [servedEv op acc 0 8], [], false, none⟩)
          ∧ DoerAtHome s (raccDoer (some 1) (myDev s) 0 0) (servedEv op acc 0 8) ∧ poisoned s 0x100000 8 = false
       ok .read .read (.load 4 false) ∧ ok (.write (List.replicate 8 1)) .write .store) := by
  refine ⟨⟨by decide +kernel, ?_⟩, by decide +kernel, by unfold DoerAtHome NonePending; decide +kernel⟩
  exact ⟨by decide, by decide, by decide, ⟨vatSl 3 .f32, by decide +kernel, by decide +kernel⟩, by decide, by decide,
    by unfold NoReceives; decide, by decide, by decide, by decide, by unfold NonePending; decide⟩

/-! #### The fabric's traffic and registers -/

/-- A held packet to device 1, and the fabric with it. -/
def held : OutPkt := ⟨{ pk 3 0 [] with src := 0, dst := 1, via := 1 }, 16, 1, 0, 1, none, false, 0, 0, none, none⟩
def holding (o : OutPkt) : State := world.setFabric { fab1 with out := [o] }

theorem witness_SlotStarts :
    let s := holding { held with tries := 15, relayed := true }
    s.fabric.state = 2 ∧ owesForward s = false ∧ (∀ o ∈ s.fabric.out, o.tries < 16) ∧ NumbersFresh (s.setFabric { s.fabric with made := 1 }) := by
  unfold NumbersFresh; decide

theorem witness_ReceiptFrees :
    (holding held).fabric.state = 2 ∧ owesForward (holding held) = false
      ∧ (holding { held with sentAs := some (15, 0), relayed := true }).fabric.out = [{ held with sentAs := some (15, 0), relayed := true }]
      ∧ ∃ j, (some (15, 0) : Option (Nat × Nat)) = some (15, j) ∧ [true][j]? = some true := ⟨by decide, by decide, by decide, 0, by decide, by decide⟩

/-- Device 0 of a block of 4 is the relay of device 1's packet to device 3. -/
def relaying : State := world.setFabric { fab1 with fid := 0x20000, rtab0 := [(3, 0x8000)], cal := [(1, some 1), (961, some 3)] }
def via0 : Arrival := arr { pk 0 0 [] with dst := 3 }

theorem witness_Relays :
    (relaying.fabric.state = 2 ∧ via0.own = false ∧ via0.pkt.hop = false ∧ via0.pkt.via.toNat = myDev relaying
      ∧ via0.pkt.dst.toNat ≠ myDev relaying ∧ via0.crcOk = true ∧ pairingOk relaying via0 = true ∧ formOk via0 = true
      ∧ via0.pkt.src.toNat ≠ myDev relaying ∧ inBlock relaying 1 = true ∧ inBlock relaying 3 = true
      ∧ (rtab relaying false 3).getLsbD 15 = true ∧ partOfKey relaying 5 = some 0 ∧ cellsFree relaying 0 5 = true
      ∧ { via0 with crcOk := false }.crcOk ≠ true)
    ∧ NumbersFresh relaying
    ∧ (let o : OutPkt := { held with pkt := { pk 0 0 [] with dst := 3 }, relayed := true, toward := 3, sentAs := some (15, 0) }
       let s := relaying.setFabric { relaying.fabric with out := [o], open_ := true }
       s.fabric.state = 2 ∧ s.dev.trip = false ∧ s.fabric.open_ = true ∧ s.fabric.out[0]? = some o ∧ o.pkt.hop = false) := by
  unfold NumbersFresh; decide

theorem witness_Discards :
    (meet world).fabric.state = 2 ∧ (arr (pk 3 0 [])).own = false
      ∧ failsFor (meet world) { arr (pk 3 0 []) with crcOk := false } .badCrc = true
      ∧ failsFor (meet world) { arr (pk 3 0 []) with tagOk := false } .badTag = true
      ∧ failsFor (meet world) (arr { pk 3 0 [] with typ := 9 }) .badType = true
      ∧ failsFor (meet world) { arr (pk 3 0 []) with sender := 0 } .badPairing = true
      ∧ failsFor (meet world) (arr { pk 3 0 [] with pkey := 6 }) .unknownKey = true
      ∧ failsFor ((meet world).setFabric { fab1 with rmap := [] }) (arr (pk 3 0 [])) .unknownSrc = true
      ∧ failsFor (meet world) (arr { pk 3 0 [] with dst := 2 }) .relayRefuses = true := by decide +kernel

theorem witness_PairFails :
    held ∈ (holding held).fabric.out ∧ held.pkt.dst = 1 ∧ 16 ≤ held.tries
      ∧ ((holding held).fabric.out.filter fun x => x.pkt.dst == (1 : BitVec 10)) = [held] ∧ held.relayed = false
      ∧ (let o := { held with pkt := { pk 5 tag1 [] with src := 0, dst := 1 }, pos := some 1 }
         let s := asking.setFabric { fab1 with out := [o] }
         o.job = none ∧ o.pos = some 1 ∧ o.pkt.typ = 5 ∧ (o.pkt.arg.extractLsb' 40 14).toNat = 1 ∧ (s.ctx 1).run = .running
          ∧ (s.ctx 1).slotgen = o.pkt.arg.extractLsb' 0 32 ∧ (s.ctx 1).port = some (askPort .read .read (.load 4 false) 1))
      ∧ (let m : Migration := ⟨1, 1, none, some 4, .none, 0, 0⟩
         let s := leaving (some 4) 0
         let o := { held with pkt := { pk 2 0 (migPayload s 1 m) with src := 0, dst := 1 }, pos := some 1 }
         o.job = none ∧ tagPos (ofBytes ((o.pkt.payload.drop 152).take 8)) = 1
          ∧ tagGen (ofBytes ((o.pkt.payload.drop 152).take 8)) = (s.ctx 1).slotgen ∧ (s.ctx 1).run = .running
          ∧ (s.ctx 1).wait = .migrate m ∧ m.dst = (1 : BitVec 10).toNat ∧ m.dst ≠ myDev s ∧ leasesOf s 1 = [])
      ∧ sends.quires = [(0, sends.quire 0)] ∧ (sends.quire 0).jobs = [sender] ∧ sender.id = 9 ∧ sender.faulted = false := by
  decide +kernel

/-- In CONFIG as device 0 of a block of 2^b, with the default calendar. -/
def configured (b : Nat) : State := world.setFabric { fab with state := 1, fid := BitVec.ofNat 20 (b * 65536), cal := [] }

theorem keys_fit : ∀ p, p < 16 → ∀ u, u < 64 → calKey (configured 10) p u < 2 ^ blkLog (configured 10) := by decide +kernel
theorem keys_beyond : 2 ^ blkLog (configured 1) ≤ calKey (configured 1) 0 3 := by decide +kernel

/-- What a generation's table must pass. -/
def tablePasses (s : State) (g : Bool) : Prop := ∀ d, d < 1024 →
  (inBlock s d = true → d ≠ myDev s → ∃ p u, p < 16 ∧ u < 64 ∧ (rtab s g d).getLsbD p = true ∧ calKey s p u = (myDev s ^^^ d))
  ∧ ∀ n via cr, n < 4 → relayChoice (rtab s g d) n = some (via, cr) → inBlock s via = true ∧ via ≠ d ∧ via ≠ myDev s

theorem alone_passes : tablePasses ((configured 0).setFabric { (configured 0).fabric with rtab0 := [] }) true := by
  intro d hd
  constructor
  · intro h h'
    have hb : (inBlock ((configured 0).setFabric { (configured 0).fabric with rtab0 := [] }) d
      && d != myDev ((configured 0).setFabric { (configured 0).fabric with rtab0 := [] })) = true := by simp [h, h']
    have all : ∀ d, d < 1024 → (inBlock ((configured 0).setFabric { (configured 0).fabric with rtab0 := [] }) d
      && d != myDev ((configured 0).setFabric { (configured 0).fabric with rtab0 := [] })) = false := by decide +kernel
    exact absurd (hb.symm.trans (all d hd)) (by decide)
  · intro n via cr hn h
    have none_ : ∀ n, n < 4 → relayChoice (rtab ((configured 0).setFabric { (configured 0).fabric with rtab0 := [] }) true 0) n = none := by
      decide +kernel
    have e : rtab ((configured 0).setFabric { (configured 0).fabric with rtab0 := [] }) true d
        = rtab ((configured 0).setFabric { (configured 0).fabric with rtab0 := [] }) true 0 := rfl
    rw [e, none_ n hn] at h
    cases h

theorem pair_fails : ¬ tablePasses (configured 1) true := by
  intro h
  obtain ⟨p, u, hp, -, hr, -⟩ := (h 1 (by decide)).1 (by decide +kernel) (by decide +kernel)
  have all : ∀ p, p < 16 → (rtab (configured 1) true 1).getLsbD p = false := by decide +kernel
  exact absurd (hr.symm.trans (all p hp)) (by decide)

theorem witness_FabricStates :
    barsOpen (world.setDev { world.dev with idereq := true }) .host 0 = false ∧ barsOpen world .host 0 = true ∧ world.fabric.state = 0 ∧ barsOpen linked .mgmt 0 = true
      ∧ linked.fabric.state = 2 ∧ linked.fabric.out = [] ∧ (configured 1).fabric.state = 1 ∧ (configured 10).fabric.state = 1
      ∧ (∀ p u, p < 16 → u < 64 → calKey (configured 10) p u < 2 ^ blkLog (configured 10))
      ∧ (∃ p u, p < 16 ∧ u < 64 ∧ 2 ^ blkLog (configured 1) ≤ calKey (configured 1) p u)
      ∧ (true ≠ (configured 1).fabric.gensel ∧ ¬ tablePasses (configured 1) true)
      ∧ ∃ s : State, barsOpen s .host 0 = true ∧ true ≠ s.fabric.gensel ∧ tablePasses s true :=
by
  iterate 8 refine ⟨by decide, ?_⟩
  exact ⟨fun p u hp hu => keys_fit p hp u hu,
    ⟨0, 3, by decide, by decide, keys_beyond⟩, ⟨by decide, pair_fails⟩, _, by decide, by decide, alone_passes⟩

theorem witness_RankMaps :
    let s := configured 1
    barsOpen s .host 0 = true ∧ s.fabric.state = 1 ∧ quiresOf linked 127 = []
      ∧ (0x8001#16).getLsbD 15 = true ∧ inBlock s 1 = true ∧ hasKey s 0 1 = true ∧ (1#16).getLsbD 15 = false
      ∧ ¬ inBlock s ((0x8002#16).setWidth 10).toNat = true ∧ rankDev s 0 1 = some 1
      ∧ (let z := s.setFabric { s.fabric with rmap := [(0, 0x8000)] }
         ∀ r, r < 1024 → r ≠ 1023 → rankDev z 0 r ≠ some 1) := by
  iterate 9 refine ⟨by decide, ?_⟩
  intro z r hr _
  have h : ∀ r, r < 1024 → rankDev z 0 r ≠ some 1 := by decide +kernel
  exact h r hr

theorem witness_Sessions :
    linked.fabric.state = 2 ∧ partOfKey linked 5 = some 0 ∧ reachable linked (some 0) 1 = true ∧ NumbersFresh linked
      ∧ inBlock linked 1 = true ∧ 1 ≠ myDev linked ∧ sessionWith linked 5 1 = some ⟨5, 1, 0, 0, false, none⟩ := by
  unfold NumbersFresh; decide

/-! #### The front end -/

theorem ofOk {α : Type} {r : Fe α} {p : State → α → Bool}
    (h : (match r with | .ok (s1, .ok b) => p s1 b | _ => false) = true) : ∃ s1 b, r = .ok (s1, .ok b) ∧ p s1 b = true := by
  match r, h with
  | .ok (s1, .ok b), h => exact ⟨s1, b, rfl, h⟩

theorem ofErr {α : Type} {r : Fe α} (h : (match r with | .ok (_, .error _) => true | _ => false) = true) :
    ∃ s1 t, r = .ok (s1, .error t) := by
  match r, h with
  | .ok (s1, .error t), _ => exact ⟨s1, t, rfl⟩

theorem ofStop {α : Type} {r : Fe α} (h : (match r with | .error none => true | _ => false) = true) : r = .error none := by
  cases r with
  | error w => cases w with
    | none => rfl
    | some _ => simp at h
  | ok _ => simp at h

def isOk {α : Type} : Fr α → Bool
  | .ok _ => true
  | .error _ => false

def okSnd {α β : Type} : Fr (α × β) → Option β
  | .ok x => some x.2
  | .error _ => none

/-- Device 0 of partition 0, scheduled, under identifier 1, whose page 0x1000 is mapped; queue 0 at its start with 2^4
entries, queue 1 at a graph entry, queue 2 on a page that is not mapped, queue 3 of 2^16 entries. Launch records at 0x1040
(good, DONE 0), 0x1200 (good, DONE 0x1100) and 0x1400 (bad); graph nodes at 0x1800: 1 runs the first record, 2 waits for
node 0, 3 waits for eight nodes. -/
def fe : State :=
  let s := world.setQuire 0 { Quire.reset with tlb := [⟨1, 0x1000, leaf1⟩] }
  { s.setFront { s.front with
      vdt := [(0, BitVec.ofNat 128 (2 ^ 63 + 2 ^ 32))]
      queues := [(0, ⟨0x1000, 4, 0, 0, 0⟩), (1, ⟨0x1020, 4, 0, 0, 0⟩), (2, ⟨0x5000, 4, 0, 0, 0⟩), (3, ⟨0x1000, 16, 0, 0, 0⟩)] } with
    mem := [(0x100028, 1), (0x100048, 1), (0x100208, 1), (0x100251, 0x11), (0x100840, 0x40), (0x100841, 0x10), (0x100890, 1),
      (0x1008D0, 8)] }

theorem witness_Kicks :
    State.reset.dev.ready = false ∧ barsOpen (world.setDev { world.dev with trip := true }) .host 0 = false
      ∧ world.dev.ready = true ∧ barsOpen world .host 255 = true ∧ vdSched world 255 = false ∧ fe.dev.ready = true ∧ barsOpen fe .host 0 = true ∧ vdSched fe 0 = true
      ∧ 4 ≤ (lqueue fe 0 0).log.toNat ∧ (lqueue fe 0 3).log.toNat ≤ 16 ∧ (0#64).setWidth 32 = (lqueue fe 0 0).cons
      ∧ 2 ^ (lqueue fe 0 0).log.toNat < ((17#64).setWidth 32 - (lqueue fe 0 0).cons).toNat
      ∧ 2 ^ (lqueue fe 0 3).log.toNat < ((65537#64).setWidth 32 - (lqueue fe 0 3).cons).toNat := by decide

theorem witness_EntryTaken :
    fe.dev.ready = true ∧ barsOpen fe .host 0 = true ∧ vdSched fe 0 = true
      ∧ (let a := fun q => addrPlus (lqueue fe 0 q).base (16 * ((lqueue fe 0 q).cons.toNat % 2 ^ (lqueue fe 0 q).log.toNat))
         (let z := fe.setFront { fe.front with zeroing := [0] }
          feGet (latched z 0 0) 0 (a 0) 16 = .error none)
          ∧ (∃ s1 t, feGet (latched fe 0 2) 0 (a 2) 16 = .ok (s1, .error t))
          ∧ (∃ s1 b, feGet (latched fe 0 0) 0 (a 0) 16 = .ok (s1, .ok b) ∧ (!(b.getD 8 0).getLsbD 0 && b.length == 16
              && isOk (takeLaunch s1 0 0 0 none false (BitVec.ofNat 64 (ofBytes (b.take 8))))) = true)
          ∧ ∃ s1 b, feGet (latched fe 0 1) 0 (a 1) 16 = .ok (s1, .ok b) ∧ ((b.getD 8 0).getLsbD 0 && b.length == 16
              && isOk (takeReplay s1 0 1 0 false (BitVec.ofNat 64 (ofBytes (b.take 8))))) = true) :=
  ⟨by decide, by decide, by decide, ofStop (by decide +kernel), ofErr (by decide +kernel), ofOk (by decide +kernel), ofOk (by decide +kernel)⟩

/-- The header of a launch with one level of width 1. -/
def head1 (done : Byte) : List Byte := List.replicate 8 0 ++ [1] ++ List.replicate 72 0 ++ [done] ++ List.replicate 46 0

theorem head1_good (d : Byte) (h : d = 0 ∨ d = 0x11) : HeaderGood (head1 d) := by
  have e : ∀ i, 128 ≤ i → (head1 d).getD i 0 = 0 := fun i hi => List.getD_eq_default _ _ (by simpa [head1] using hi)
  have m : d ∈ [(0 : Byte), 0x11] := by rcases h with rfl | rfl <;> decide
  rcases h with rfl | rfl <;>
  · iterate 18 refine ⟨by decide +kernel, ?_⟩
    intro i hi
    by_cases h : 128 ≤ i
    · exact e i h
    · have : ∀ j, j < 32 → ∀ d : Byte, d ∈ [(0 : Byte), 0x11] → (head1 d).getD (96 + j) 0 = 0 := by decide +kernel
      have := this (i - 96) (by omega) _ m
      rwa [show 96 + (i - 96) = i by omega] at this

theorem witness_LaunchTaken :
    (let get := fun (a : Word) (h : List Byte) => a.toNat % 64 = 0 ∧ a.toNat < 2 ^ 56 ∧ h.length = 128
       ∧ ∃ s1 b, feGet (fe.tally (some (vdPart fe 0)) 39 1) 0 a 128 = .ok (s1, .ok b) ∧ (b == h) = true
     get 0x1040 (head1 0) ∧ get 0x1200 (head1 0x11) ∧ get 0x1400 (List.replicate 128 0))
    ∧ HeaderGood (head1 0) ∧ HeaderGood (head1 0x11) ∧ field (head1 0) 24 / 2 ^ 24 % 128 = 0 ∧ field (head1 0) 80 = 0
    ∧ field (head1 0x11) 80 ≠ 0 ∧ ¬ HeaderGood (List.replicate 128 0) ∧ field (List.replicate 128 0) 80 = 0
    ∧ (∃ s2 b, fePut fe 0 [(BitVec.ofNat 64 (field (head1 0x11) 80), toBytes 8 0 ++ toBytes 8 (teamCount (head1 0x11))
          ++ List.replicate 48 0 ++ List.replicate ((teamCount (head1 0x11) + 7) / 8) 0)] = .ok (s2, .ok b) ∧ true = true) := by
  refine ⟨⟨?_, ?_, ?_⟩, head1_good _ (Or.inl rfl), head1_good _ (Or.inr rfl), by decide +kernel,
    by decide +kernel, by decide +kernel, ?_, by decide +kernel, ofOk (p := fun _ _ => true) (by decide +kernel)⟩
  iterate 3
    · exact ⟨by decide, by decide, by decide +kernel, ofOk (by decide +kernel)⟩
  intro h
  exact absurd h.2.2.2.2.1 (by decide +kernel)

theorem witness_GraphCommits :
    (∃ s1 b, feGet fe 0 (addrPlus 0x1300 12) 1 = .ok (s1, .ok b)
        ∧ (b == [0] && (match fePut s1 0 [(addrPlus 0x1300 12, [1 - 0])] with | .ok (_, .ok ()) => true | _ => false)) = true)
      ∧ ∃ s1 b, feGet fe 0 (addrPlus 0x101C 12) 1 = .ok (s1, .ok b)
        ∧ (b == [1] && (match fePut s1 0 [(addrPlus 0x101C 12, [1 - 1])] with | .ok (_, .ok ()) => true | _ => false)) = true :=
  ⟨ofOk (by decide +kernel), ofOk (by decide +kernel)⟩

/-- A replay of generation 0 whose nodes stand at 0x1800; node 1 waits for none. -/
def replay1 : Replay := ⟨1, 0, 0, 0, 0, false, 0x1300, 0x1800, 4, 0, [], []⟩

theorem witness_NodeDispatched :
    let get := fun (i : Nat) (p : State → List Byte → Bool) =>
      ∃ s1 b, feGet fe 0 (addrPlus replay1.nodes (64 * i)) 64 = .ok (s1, .ok b) ∧ (b.length == 64 && p s1 b) = true
    let ndep := fun (b : List Byte) => ofBytes ((b.drop 16).take 2)
    let takes := fun (s1 : State) (b : List Byte) =>
      okSnd (takeLaunch s1 0 0 0 (some (1, 0)) false (BitVec.ofNat 64 (ofBytes ((b.drop 0).take 8))))
    get 0 (fun s1 b => ndep b == 0 && takes s1 b == some false) ∧ get 1 (fun s1 b => ndep b == 0 && takes s1 b == some true)
      ∧ get 2 (fun _ b => ndep b == 1 && ofBytes ((b.drop 18).take 2) == 0) ∧ get 3 (fun _ b => ndep b == 8) ∧ 0 ∉ replay1.ended
      ∧ replay1.gen < 2 :=
  ⟨ofOk (by decide +kernel), ofOk (by decide +kernel), ofOk (by decide +kernel), ofOk (by decide +kernel), by decide, by decide⟩

theorem witness_Scheduled :
    barsOpen world .host 255 = true ∧ (∀ q, q < 16 → (Sparse.get 0 world.front.pending 255).getLsbD q = true →
      (lqueue world 255 q).kick = (lqueue world 255 q).cons) := by decide

/-! #### Teams, items and tasks -/

/-- Launch 1 of device 0: `teams` teams on core `cores`. -/
def launch1 (teams : Nat) : Launch :=
  { id := 1, fn := 0, queue := 0, entryNo := 0, graph := none, ord := false, recAddr := 0x1040, entry := 0x1000, levels := 1, count := 2,
    args := [1, 2, 3, 4, 5, 6], done := 0, savelen := 0, qlimit := 0, vatlen := 64, cores := 2, matw := 0, teamlv := 0, prio := 0,
    dks := [], teams := teams, placed := 1, retired := [], gone := [], home := some 0, started := true, taken := 0, link := false,
    abort := none, ended := false }

/-- Device 0's launches and partition 0's tasks. -/
def running (ls : List Launch) (ts : List Task) : State := fe.setFront { fe.front with launches := ls, tasks := ts }

theorem witness_TeamChosen :
    chooseLaunch (running [launch1 2] [task1]) 0 = some (launch1 2, 0, 1) := by decide +kernel

/-- A launch of priority 3 on core 0, in whose way task 1 stands with a save area. -/
def urgent : Launch := { launch1 2 with id := 9, prio := 3, cores := 1 }

theorem witness_TeamPlaced :
    (let s := running [launch1 2] [task1]
     chooseLaunch s 0 = some (launch1 2, 0, 1) ∧ quireFor s 0 (launch1 2) = some 0
      ∧ freeRun s 0 ((launch1 2).vatlen + (launch1 2).savelen) = some 80 ∧ (launch1 2).started = true ∧ (launch1 2).done = 0
      ∧ tagUsed s 2 = false ∧ coreHolders s 0 (launch1 2).cores = [] ∧ Sparse.wf 0 s.front.owner = true)
    ∧ (let k := { task1 with savelen := 5000 }
       let s := running [urgent] [k]
       chooseLaunch s 0 = some (urgent, 0, 1) ∧ quireFor s 0 urgent = some 0 ∧ freeRun s 0 (urgent.vatlen + urgent.savelen) ≠ none
        ∧ urgent.started = true ∧ tagUsed s 2 = false ∧ coreHolders s 0 urgent.cores = [k]) := by decide +kernel

theorem witness_ItemToHead :
    (let s := running [launch1 2] [{ task1 with endItem := 3 }]
     taskOf s 1 = some { task1 with endItem := 3 } ∧ launchOf s 1 = some (launch1 2) ∧ s.front.handovers = []
      ∧ FirstFreeHead s { task1 with endItem := 3 } 0 ∧ (1 : Nat) + 1 < 3)
    ∧ (let t := { task1 with wfw := [1] }
       let s := (running [launch1 2] [t]).setCtx 1 { ctx1 with wait := .wfw 4 }
       taskOf s 1 = some t ∧ t.parked = false ∧ t.nextItem < t.endItem ∧ t.late = [] ∧ FirstFreeHead s t 0 ∧ 16 * 0 ∉ t.wfw
        ∧ t.endItem ≤ t.nextItem + 1 ∧ t.wfw.Nodup ∧ ∀ p ∈ t.wfw, (s.ctx p).wait = .wfw 4) := by
  refine ⟨⟨by decide, by decide, by decide, ⟨by decide, by decide, by decide, fun c h => absurd h (Nat.not_lt_zero c)⟩, by decide⟩,
    by decide, by decide, by decide, by decide, ⟨by decide, by decide, by decide, fun c h => absurd h (Nat.not_lt_zero c)⟩, by decide⟩

theorem witness_ItemToWaiter :
    let t := { task1 with wfw := [1], endItem := 3 }
    let z := ((running [launch1 2] [t]).setCtx 1 { ctx1 with wait := .wfw 4 }).setCtx 0 ctx1
    let s := z.setDev { z.dev with hostQ := [hostReq (.write [1]) false 0] }
    taskOf s 1 = some t ∧ launchOf s t.launch = some (launch1 2) ∧ t.parked = false ∧ t.nextItem < t.endItem ∧ t.wfw = 1 :: [] ∧ 1 ∉ ([] : List Nat)
      ∧ (s.ctx 1).wait = .wfw 4
      ∧ (∃ r ∈ s.dev.hostQ, r.by_ = .ctx 1 ∧ r.gen = (s.ctx 1).slotgen ∧ isStore r.op = true)
      ∧ ∀ c, c / 8 = t.quire → hasCore t.cores (c % 8) = true → (s.ctx (16 * c)).run ≠ .free := by
  refine ⟨by decide, by decide, by decide, by decide, by decide, by decide, by decide, ⟨hostReq (.write [1]) false 0, by decide⟩, fun c h1 h2 => ?_⟩
  have h1 : c / 8 = 0 := h1
  have hc : c < 8 := by omega
  have : ∀ c, c < 8 → hasCore 1 (c % 8) = true → c = 0 := by decide
  cases this c hc h2
  decide

theorem witness_TaskEnds :
    let s := fun n => (running [launch1 n] [{ task1 with nextItem := 2 }]).setCtx 1 { ctx1 with run := .halted }
    taskOf (s 1) 1 = some { task1 with nextItem := 2 } ∧ launchOf (s 1) 1 = some (launch1 1) ∧ launchOf (s 2) 1 = some (launch1 2)
      ∧ (launch1 1).done = 0 ∧ (launch1 1).graph = none ∧ (s 1).front.handovers = []
      ∧ (∀ e ∈ (s 1).ctxs, e.2.task = some 1 → e.2.run = .halted ∨ e.2.run = .free)
      ∧ (∀ e ∈ (s 1).quires, ∀ j ∈ e.2.jobs, j.by_.task ≠ some 1) ∧ (∀ e ∈ (s 1).cores, ∀ x ∈ e.2.queue, x.by_.task ≠ some 1)
      ∧ (∀ e ∈ (s 1).quires, e.2.copies = []) ∧ (∀ e ∈ (s 1).dies, e.2.copies = [])
      ∧ (launch1 1).teams ≤ (launch1 1).retired.length + 1 + (launch1 1).gone.length
      ∧ (launch1 2).retired.length + 1 + (launch1 2).gone.length < (launch1 2).teams := by
  decide

theorem witness_DieLinkFails :
    let s := running [launch1 2] [task1, { task1 with tag := 2, quire := 32 }]
    linkDown s 0 1 = false ∧ (0 : Nat) < 4 ∧ (1 : Nat) < 4 ∧ 0 ≠ 1 ∧ (∀ l ∈ s.front.launches, l.done = 0 ∧ l.graph = none) ∧ launchOf s 1 = some (launch1 2)
      ∧ (launch1 2).home = some 0 ∧ dieOfQuire 32 = 1 ∧ dieOfQuire 0 = 0 := by decide

/-! #### Pre-emption -/

/-- Task 2 of the same core, parked on quire 0 above task 1's region. -/
def task2 : Task := { task1 with tag := 2, region := 20000, savelen := 5000, parked := true, launch := 2 }
def saved1 : Task := { task1 with savelen := 5000 }

def hand1 (done : List Nat) (exch : List (Nat × Nat)) : Handover := ⟨0, 1, 1, some 2, 4993, done, exch⟩

/-- Task 1 is handed over to `w` on quire 0's core 0, where the slots of `done` have gone and `exch` runs. -/
def handing (cyc : Nat) (w : Task) (done : List Nat) (exch : List (Nat × Nat)) : State :=
  let s := running [] [saved1, w]
  { s.setFront { s.front with handovers := [hand1 done exch] } with cyc := cyc }

theorem witness_SliceEnds :
    (let s := running [] [saved1, task2]
     taskOf s 1 = some saved1 ∧ SliceRun s saved1 ∧ waiterFor s saved1 = some task2
      ∧ (∀ o ∈ coreHolders s saved1.quire task2.cores, SliceRun s o))
    ∧ (let x := { task1 with tag := 3, region := 40000, cores := 2 }
       let w := { task2 with cores := 3 }
       let s := running [] [saved1, w, x]
       taskOf s 1 = some saved1 ∧ SliceRun s saved1 ∧ waiterFor s saved1 = some w ∧ x ∈ coreHolders s saved1.quire w.cores
        ∧ ¬ SliceRun s x)
    ∧ (let t := { saved1 with since := 5000 }
       let s := (running [] [t]).setPart 0 { Part.reset with exist_ := true, quantum := 1 }
       taskOf s 1 = some t ∧ s.cyc < t.since + (s.part t.part).quantum.toNat * 65536) := by
  unfold SliceRun; decide +kernel

theorem quiet_of {s : State} (h1 : ∀ e ∈ s.cores, e.2.leases = []) (h2 : ∀ e ∈ s.quires, e.2.pend = []) (t : Task) : Quiet s t :=
  ⟨fun e he l hl => absurd hl (by rw [h1 e he]; exact List.not_mem_nil), fun e he p hp => absurd hp (by rw [h2 e he]; exact List.not_mem_nil)⟩

/-- The newcomer of a handover, where it is a task with nothing saved. -/
theorem empty_of {s : State} {h : Handover} {x : BitVec 16} {k : Task} (hx : h.inn = some x) (hk : taskOf s x = some k)
    (hs : k.hasSave = false) : NewcomerEmpty s h := by
  intro tag w h1 h2
  cases hx.symm.trans h1; cases hk.symm.trans h2; exact hs

theorem witness_SlotSaved :
    (let s := handing 4993 task2 [] []
     SlotDue s 1 (hand1 [] []) ∧ taskOf s 1 = some saved1 ∧ taskOf s 2 = some task2 ∧ (s.ctx 1).task = some 1 ∧ (s.ctx 1).run ≠ .free
      ∧ (s.ctx 1).wait = .none ∧ NewcomerEmpty s (hand1 [] []) ∧ QuietOver s (hand1 [] []) ∧ ∀ v ∈ (s.core (1 / 16)).vec, v.by_.pos ≠ 1)
    ∧ (let s := (handing 5007 task2 [] []).setCtx 15 { ctx1 with wait := .vector 3 }
       SlotDue s 15 (hand1 [] []) ∧ (s.ctx 15).task = some 1 ∧ (s.ctx 15).wait = .vector 3) := by
  refine ⟨⟨by unfold SlotDue; decide, by decide, by decide, by decide, by decide, by decide, empty_of (k := task2) rfl (by decide) rfl,
    fun _ _ t _ => quiet_of (by decide) (by decide) t, by decide⟩, by unfold SlotDue; decide⟩

theorem witness_SlotLoaded :
    let w := { task2 with hasSave := true, parked := false }
    let z := handing 4994 w [] []
    let s := { z with mem := [(ctxRecAddr w 2 + 168, 1)] }
    SlotDue s 2 (hand1 [] []) ∧ taskOf s 1 = some saved1 ∧ (hand1 [] []).inn = some 2 ∧ taskOf s 2 = some w ∧ w.hasSave = true
      ∧ hasCore w.cores (2 / 16 % 8) = true ∧ (s.ctx 2).run = .free ∧ ctxRecAddr saved1 2 + 192 ≤ ctxRecAddr w 2
      ∧ wordAt s (ctxRecAddr w 2 + 168) = 1 ∧ poisoned s (ctxRecAddr w 2) 192 = false ∧ QuietOver s (hand1 [] []) :=
by
  refine ⟨by unfold SlotDue; decide, ?_⟩
  iterate 9 refine ⟨by decide +kernel, ?_⟩
  exact fun _ _ t _ => quiet_of (by decide) (by decide) t

theorem witness_HeadGoesLast :
    (let s := handing 4993 task2 [] []
     handoverAt s 0 = some (hand1 [] []) ∧ taskOf s 1 = some saved1 ∧ taskOf s 2 = some task2 ∧ 16 * 0 + 15 ∉ (hand1 [] []).done)
    ∧ (let d := (List.range 15).map (· + 1)
       let s := (handing 5008 task2 d []).setCtx 0 ctx1
       handoverAt s 0 = some (hand1 d []) ∧ s.cyc % 16 = 0 ∧ (hand1 d []).start ≤ s.cyc ∧ 16 * 0 ∉ d
        ∧ (∀ i, 1 ≤ i → i ≤ 15 → 16 * 0 + i ∈ d) ∧ headOf s 0 = none ∧ 16 * 0 ∉ s.issued ∧ (s.ctx (16 * 0)).wait = .none
        ∧ NewcomerEmpty s (hand1 d []) ∧ (hand1 d []).inn ≠ some (hand1 d []).out ∧ QuietOver s (hand1 d [])
        ∧ ∀ i, i < 8 → hasCore (hand1 d []).cores i = true → 16 * (8 * (hand1 d []).quire + i) = 16 * 0) := by
  refine ⟨by decide, by decide, by decide, by decide, by decide, ?_, by decide, by decide, by decide, empty_of (k := task2) rfl (by decide) rfl, by decide,
    fun _ _ t _ => quiet_of (by decide) (by decide) t, by decide⟩
  · intro i h1 h2
    have : ∀ i, i < 15 → 16 * 0 + (i + 1) ∈ (List.range 15).map (· + 1) := by decide
    have := this (i - 1) (by omega)
    rwa [show i - 1 + 1 = i by omega] at this

theorem witness_ExchangeEnds :
    let s := fun (done : List Nat) => (handing 6032 task2 done [(0, 6032)]).setCtx 0 { ctx1 with wait := .exchange 6032 }
    (s []).front.handovers = [hand1 [] [(0, 6032)]] ∧ (hand1 [] [(0, 6032)]).exch = [(0, 6032)] ∧ 6032 ≤ (s []).cyc
      ∧ ((s []).ctx (16 * 0)).wait = .exchange 6032 ∧ headsDone (hand1 [] [(0, 6032)]) = false
      ∧ (s [0]).front.handovers = [hand1 [0] [(0, 6032)]] ∧ headsDone (hand1 [0] [(0, 6032)]) = true := by decide

theorem witness_TaskMoves :
    let w := { task2 with hasSave := true, launch := 1 }
    let s := running [launch1 2] [w]
    let z := s.setFront { s.front with owner := [(0, 1), (1, 1)] }
    taskOf s 2 = some w ∧ canRestore s w 0 = true ∧ w.held = [] ∧ taskOf z 2 = some w ∧ canRestore z w 1 = true ∧ 1 ≠ w.quire := by
  decide

theorem witness_TaskMovesQuiet :
    let w := { task2 with hasSave := true, launch := 1 }
    let s := running [launch1 2] [w]
    Quiet s w ∧ Quiet (s.setFront { s.front with owner := [(0, 1), (1, 1)] }) w := by
  unfold Quiet; decide

/-! #### Fetch -/

theorem ofError2 {r : State × Except (Option Trap) Res}
    (h : (match r with
      | (_, .error (some _)) => true
      | _ => false) = true) : ∃ s1 x, r = (s1, .error (some x)) := by
  obtain ⟨s1, x⟩ := r
  cases x with
  | error t => cases t with
    | none => simp at h
    | some x => exact ⟨s1, x, rfl⟩
  | ok y => simp at h

theorem witness_FetchDelivery :
    (let s := world.setQuire 0 { Quire.reset with fetches := [(1, 0x1000), (1, 0x1020)] }
     (s.quire 0).fetches = (1, 0x1000) :: [(1, 0x1020)] ∧ quireOf 1 = 0 ∧ (s.quire 0).served ≠ s.cyc + 1
      ∧ resolve s (whoIs s 1) (BitVec.ofNat 64 0x1000) .fetch = (s, .ok (.locs [⟨0x100000, .coherent, 0x1000⟩]))
      ∧ Sparse.get [] (s.quire 0).l1i (0x100000 / 32) = [] ∧ 0x100000 % 32 = 0 ∧ poisoned s 0x100000 32 = false
      ∧ DoerAtHome s ⟨some (.fetch 1), 0, none, partOf s 1, false⟩
          ⟨0x100000, 32, .coherent, BitVec.ofNat 64 0x1000, .fetch, .v, .read⟩)
    ∧ (let s := world.setQuire 0 { Quire.reset with fetches := [(1, 0x5000)] }
       (s.quire 0).fetches = [(1, 0x5000)] ∧ (s.quire 0).served ≠ s.cyc + 1
        ∧ ∃ s1 x, resolve s (whoIs s 1) (BitVec.ofNat 64 0x5000) .fetch = (s1, .error (some x)))
    ∧ (let s := world.setQuire 0 { Quire.reset with fetches := [(1, 0x1000)], served := 5001 }
       (s.quire 0).fetches = [(1, 0x1000)] ∧ (s.quire 0).served = s.cyc + 1) := by
  refine ⟨⟨by decide, by decide, by decide, by decide +kernel, by decide, by decide, by decide, ?_⟩, ⟨by decide, by decide, ?_⟩, by decide⟩
  · unfold DoerAtHome NonePending; decide
  · exact ofError2 (by decide +kernel)

/-! #### Partitions, device control and registers -/

/-- Partition 0 with its block as `p`, a quire of its own, and a task resident on the die or not. -/
def parted (p : Part) (tasks : List Task) : State :=
  let s := world.setPart 0 p
  s.setFront { s.front with tasks := tasks }

def there : Part := { Part.reset with exist_ := true }

theorem opened (p : Part) (l : List Task) : PartsOpen (parted p l) := ⟨rfl, rfl⟩

theorem witness_PartsShut :
    ¬ PartsOpen State.reset ∧ ¬ PartsOpen (world.setDev { world.dev with idereq := true }) := by unfold PartsOpen; decide

theorem witness_CreateDestroy :
    PartsOpen (parted there []) ∧ ((parted there []).part 127).exist_ = false ∧ ((parted there []).part 0).exist_ = true
      ∧ quiresOf (parted there []) 0 ≠ []
      ∧ (let s := (parted there []).setPart 1 there
         PartsOpen s ∧ (s.part 1).exist_ = true ∧ quiresOf s 1 = [] ∧ (s.part 1).busy = none) :=
  ⟨opened _ _, by decide, by decide, by decide, ⟨by decide, by decide⟩, by decide, by decide, by decide⟩

theorem witness_QuireCommands :
    PartsOpen (parted there []) ∧ PartsOpen (parted there [task1]) ∧ ((parted there []).part 0).exist_ = true
      ∧ ((parted there []).part 0).busy = none ∧ (∃ t ∈ (parted there [task1]).front.tasks, t.part = 0 ∧ dieOfQuire t.quire = dieOfQuire 31)
      ∧ partOfQuire (parted there []) 0 ≠ none ∧ partOfQuire (parted there []) 127 ≠ some 0 ∧ partOfQuire (parted there []) 127 = none
      ∧ inScrub (parted there []) 127 = false ∧ partOfQuire (parted there []) 0 = some 0
      ∧ ¬ ∃ t ∈ (parted there []).front.tasks, t.part = 0 ∧ dieOfQuire t.quire = dieOfQuire 127 :=
  ⟨opened _ _, opened _ _, by decide, by decide, ⟨task1, List.mem_singleton.mpr rfl, by decide, by decide⟩, by decide, by decide, by decide,
    by decide, by decide, by rintro ⟨t, h, _⟩; cases h⟩

theorem witness_ScrubCompletes :
    let s := fun b => parted { there with busy := some (b, 127) } []
    (∀ b, ((s b).part 0).busy = some (b, 127) ∧ Unleased (s b))
      ∧ (let z := (s true).setCore 0 { Core.reset with leases := [⟨1, vatBase 127 / 128, 9000, 4, List.replicate 128 0, 0, []⟩] }
         ∃ l ∈ (z.core 0).leases, l.owner / 128 ≠ 127 ∧ vatBase 127 ≤ 128 * l.line ∧ 128 * l.line < vatBase 127 + 0x800000) := by
  unfold Unleased; decide

/-- A ring of 16 records, of which all stand unconsumed. -/
def fullRing : Part := { there with fqbase := 0x40, fqlog := 4, fqprod := 16, unposted := [rec1] }

theorem witness_RingConsumed :
    PartsOpen (parted there []) ∧ ((parted there []).part 0).unposted = [] ∧ PartsOpen (parted fullRing [])
      ∧ ((parted fullRing []).part 0).exist_ = true ∧ ((parted fullRing []).part 0).unposted = [rec1]
      ∧ ringTakes ((parted fullRing []).setPart 0 { (parted fullRing []).part 0 with fqcons := 16 }) 0 = true :=
  ⟨opened _ _, by decide, opened _ _, by decide, by decide, by decide⟩

/-- Context 1 FAULTED with record 7, undelivered unless `d`; FSEQ names it. -/
def faulty (d : Bool) (task : Option (BitVec 16)) : State :=
  (parted { there with recs := [{ rec1 with delivered := d }], fseq := 7 } []).setCtx 1
    { ctx1 with run := .faulted, handle := some 7, task := task }

/-- The head context FAULTED with record 7, whose core's accumulator exchange runs. -/
def faultyHead : State :=
  let s := (parted { there with recs := [rec1], fseq := 7 } []).setCtx 0
    { ctx1 with run := .faulted, handle := some 7, task := some 1 }
  s.setFront { s.front with handovers := [⟨0, 1, 9, some 1, 4993, [], [(0, 6032)]⟩] }

theorem witness_HostAnswers :
    PartsOpen (parted there []) ∧ findRec (parted there []) 0 ((parted there []).part 0).fseq = none
      ∧ holderOf (parted there []) 0 ((parted there []).part 0).fseq = none
      ∧ (∀ d t, PartsOpen (faulty d t)) ∧ findRec (faulty true (some 1)) 0 7 = some { rec1 with delivered := true }
      ∧ (let ok := fun (t : Option (BitVec 16)) => ((faulty false t).part 0).exist_ = true ∧ findRec (faulty false t) 0 ((faulty false t).part 0).fseq = some rec1
           ∧ rec1.delivered = false ∧ rec1.src = .ctx ∧ holderOf (faulty false t) 0 rec1.seq = some 1
         ok (some 1) ∧ ok none ∧ ((faulty false none).ctx 1).task = none ∧ ((faulty false (some 1)).ctx 1).task.isSome = true)
      ∧ (let s := (parted { there with fseq := 7 } [task1]).setCtx 1 { ctx1 with run := .faulted, handle := some 7 }
         PartsOpen s ∧ findRec s 0 (s.part 0).fseq = none ∧ holderOf s 0 (s.part 0).fseq = some 1)
      ∧ (PartsOpen faultyHead ∧ findRec faultyHead 0 7 = some rec1 ∧ holderOf faultyHead 0 7 = some 0
         ∧ ∃ h, faultyHead.front.handovers = [h] ∧ h.exch = [(0 / 16, 6032)]) := by
  refine ⟨opened _ _, by decide, by decide, fun _ _ => ⟨rfl, rfl⟩, by decide, by decide, ⟨⟨rfl, rfl⟩, by decide, by decide⟩,
    ⟨rfl, rfl⟩, by decide, by decide, _, rfl, rfl⟩

theorem witness_CacheWays :
    let s := (parted { there with rdcmask := 0x3, scopedw := 8 } []).setPart 1 { there with rdcmask := 0x8000 }
    let big : BitVec 4 := 9
    PartsOpen s ∧ (s.part 0).exist_ = true ∧ Unleased s
      ∧ (∃ e ∈ s.front.parts, e.1 ≠ 0 ∧ e.2.exist_ = true ∧ e.2.rdcmask &&& 0x8000 ≠ 0)
      ∧ (¬ ∃ e ∈ s.front.parts, e.1 ≠ 0 ∧ e.2.exist_ = true ∧ e.2.rdcmask &&& 0x4 ≠ 0)
      ∧ (∀ d, d < 4 → (s.die d).copies = [] ∧ (s.die d).rdc = [])
      ∧ 8 < big.toNat ∧ (s.part 0).scopedw ≤ (8#4).toNat ∧ (0#4).toNat ≤ 8
      ∧ 0 ∈ quiresOf s 0 ∧ quireSet s 0 5 ≤ (s.part 0).scopedw := by
  refine ⟨⟨by decide, by decide⟩, by decide, by unfold Unleased; decide, by decide, by decide, by decide, by decide, by decide, by decide,
    by decide, by decide⟩

theorem witness_Granules :
    (let s := world
     PartsOpen s ∧ (∀ e ∈ s.front.zeroing, e.1 ≠ granKey 0 0)
      ∧ ¬ ((0x8001#16).getLsbD 15 = false ∨ ∃ q ∈ quiresOf s ((0x8001#16).toNat % 128), dieOfQuire q = 0)
      ∧ (∃ q ∈ quiresOf s ((0xC000#16).toNat % 128), dieOfQuire q = 0)
      ∧ (Sparse.get 0 s.front.gran (granKey 0 0) ^^^ (0xC000 &&& 0xC07F)) &&& 0x807F = 0
      ∧ (Sparse.get 0 s.front.gran (granKey 3 177) ^^^ (0x8000 &&& 0xC07F)) &&& 0x807F ≠ 0
      ∧ (0x0000#16).getLsbD 15 = false
      ∧ (∀ e ∈ s.quires, ∀ c ∈ e.2.copies, granuleOf (128 * c.line) ≠ some (granKey 0 0))
      ∧ ∀ e ∈ s.dies, ∀ c ∈ e.2.copies, granuleOf (128 * c.line) ≠ some (granKey 0 0))
    ∧ (let s := world.setFront { world.front with zeroing := [(granKey 3 177, 0x8000)] }
       s.front.zeroing.find? (fun e => e.1 == granKey 3 177) = some (granKey 3 177, 0x8000)
        ∧ (s.part ((0x8000#16).toNat % 128)).unposted = [] ∧ granuleOf (granBase 3 177) = some (granKey 3 177)
        ∧ (granKey 3 177, 0x8000) ∈ s.front.zeroing) := by
  refine ⟨⟨⟨by decide, by decide⟩, by decide⟩, by decide⟩

theorem witness_QueueRegisters :
    barsOpen fe .host 255 = true ∧ barsOpen (fe.setDev { fe.dev with idereq := true }) .host 255 = false ∧ (lqueue fe 255 15).kick = (lqueue fe 255 15).cons ∧ (lqueue fe 255 15).prod = (lqueue fe 255 15).cons
      ∧ (lqueue (setLqueue fe 0 0 ⟨0x1000, 4, 1, 0, 1⟩) 0 0).prod ≠ (lqueue (setLqueue fe 0 0 ⟨0x1000, 4, 1, 0, 1⟩) 0 0).cons := by
  decide

theorem witness_PowerAndIde :
    barsOpen world .host 0 = true ∧ barsOpen (world.setDev { world.dev with idereq := true }) .host 0 = false
      ∧ 60 ≤ (60#7).toNat ∧ (120#7).toNat ≤ 120 ∧ (59#7).toNat < 60 ∧ 120 < (121#7).toNat
      ∧ (2999#16).toNat < (if world.dev.hot then 1500 else 25 * world.dev.pwrcap.toNat)
      ∧ 3000 ≥ (if world.dev.hot then 1500 else 25 * world.dev.pwrcap.toNat)
      ∧ (world.dev.hot = true ↔ 420 ≤ (419#10).toNat) ∧ (419#10).toNat < 460 := by decide

theorem witness_Temperature :
    420 ≤ (420#10).toNat ∧ (459#10).toNat < 460 ∧ 460 ≤ (460#10).toNat ∧ (419#10).toNat < 420
      ∧ (let s := world.setDev { world.dev with hot := true, trip := true }
         s.dev.hot = true ∧ s.dev.trip = true ∧ 16383 < 16384 ∧ ({ s with agenda := [.issue 16383] }).agenda = .issue 16383 :: []) := by decide

theorem witness_BringUp :
    (let s := State.reset.setDev { Dev.reset with bstep := 2 }
     barsOpen s .host 0 = true ∧ s.dev.ready = false ∧ s.dev.booterr = false ∧ 2 ≤ s.dev.bstep ∧ 1 ≤ (1#25).toNat
      ∧ (16777216#25).toNat ≤ 16777216 ∧ ¬ 1 ≤ (0#25).toNat ∧ ¬ (16777217#25).toNat ≤ 16777216)
    ∧ State.reset.dev.bstep = 0 ∧ (tick State.reset).dev.bstep = 1
    ∧ world.dev.ready = true
    ∧ ∀ k, k = 3 ∨ k = 4 → let s := (State.reset.setDev { Dev.reset with bstep := k }).setPart 5 { Part.reset with snapSeq := 2 }
        s.dev.bstep = k ∧ s.dev.booterr = false ∧ s.dev.ready = false ∧ (s.part 5).snapSeq ≠ 0 := by
  refine ⟨by decide, by decide, by decide +kernel, by decide, ?_⟩
  rintro k (rfl | rfl) <;> decide

theorem witness_Measurements :
    let s := (parted there []).setPart 1 { Part.reset with final := some (List.replicate 512 0) }
    ((s.part 1).final = some (List.replicate 512 0) ∧ (s.part 0).final = none)
      ∧ (∃ fn, (⟨.doe 255, 0, none⟩ : MeasReq).who = .doe fn ∧ vdPart s fn = 0) ∧ vdPart s 255 ≠ 127
      ∧ ¬ (s.dev.trip = true ∧ (⟨.mgmt, 7, some [5]⟩ : MeasReq).who = .mgmt)
      ∧ ((world.setDev { world.dev with trip := true }).dev.trip = true)
      ∧ (0x05#8).toNat = 5 ∧ (0x1F#8).toNat < 0x20 ∧ 0x9F < (0xA0#8).toNat ∧ (0xFE#8).toNat < 0xFF := by
  refine ⟨⟨by decide +kernel, by decide +kernel⟩, ⟨255, rfl, by decide +kernel⟩, by decide +kernel⟩

theorem witness_FabricRegisters :
    barsOpen linked .host 0 = true ∧ linked.fabric.state ≠ 1 ∧ false = linked.fabric.gensel ∧ true ≠ linked.fabric.gensel
      ∧ barsOpen (configured 1) .host 0 = true ∧ (configured 1).fabric.state = 1 ∧ (0xA0000#128).toNat / 2 ^ 16 % 16 ≤ 10
      ∧ 10 < (0xB0000#128).toNat / 2 ^ 16 % 16 ∧ 1023 = 64 * 15 + 63
      ∧ (((configured 1).fabric.rcells.filter (·.1 != 127)).map (·.2.toNat)).sum + (16124#128).toNat % 2 ^ 32 ≤ 16128
      ∧ (let u : BitVec 128 := 3 + 2 ^ 8
         u.toNat % 4 = 3 ∧ u.getLsbD 16 = false ∧ (configured 1).fabric.gensel = !u.getLsbD 8 ∨ u.getLsbD 8 = (configured 1).fabric.gensel)
      ∧ 0x400000 ≤ (0x47FFFF : Nat) := by
  decide

theorem witness_PartitionRegisters :
    PartsOpen (parted there []) ∧ ((parted there []).part 0).exist_ = true ∧ ((parted there []).part 0).unposted = []
      ∧ partOfQuire (parted there []) 0 = some 0 ∧ ((parted there []).part 127).exist_ = false :=
  ⟨opened _ _, by decide, by decide, by decide, by decide⟩

theorem witness_OtherRegisters :
    barsOpen world .host 0 = true ∧ (0#128).getLsbD 63 = false ∧ (0x8000000000000000#128).getLsbD 63 = true
      ∧ Sparse.get 0 world.front.pending 255 = 0 ∧ world.dev.ready = true ∧ State.reset.dev.ready = false
      ∧ State.reset.dev.booterr = false ∧ 32760 + 8 ≤ 32768 ∧ barsOpen State.reset .host 0 = true := by decide

theorem witness_BarOffsets :
    ideHolds world 0 = false ∧ world.dev.trip = false ∧ ideHolds (world.setDev { world.dev with idereq := true }) 255 = true
      ∧ (255 : Nat) ≠ 0 ∧ 0x1100 ≤ (0x1100 : Nat) := by decide

/-! #### Encodings and steps -/

theorem witness_DecodeAfterEncode :
    (Instr.mma ⟨7, true⟩ true 255 (.dk 63) 255 254 65535 32).wf = true
      ∧ (Instr.mma ⟨7, true⟩ true 255 (.dk 63) 255 254 65535 32).isEvent = false := by decide

theorem witness_EncodeAfterDecode :
    decode (toBytes 8 0x148 ++ [1, 2]) = .ok (.halt g0, [1, 2]) := by decide

theorem witness_RefusedEncodings :
    let word := fun (major : Nat) => toBytes 16 (4 * major)
    (∀ m, m ∈ [0, 0x09, 0x0F, 0x3B, 0x3F, 0x4F, 0x7B, 0x7F, 0x86, 0x8F, 0x9A, 0xFF] →
        16 ≤ (word m).length ∧ ofBytes (word m) % 4 ≠ 3 ∧ ofBytes (word m) / 4 % 256 = m ∧ reservedMajor m)
      ∧ (16 ≤ (toBytes 16 0x20148).length ∧ ofBytes (toBytes 16 0x20148) / 2 ^ 14 % 16 = 8)
      ∧ (toBytes 7 0x148 ≠ [] ∧ (toBytes 7 0x148).length < 8 + 4 * (ofBytes (toBytes 7 0x148) % 4))
      ∧ ([3] : List Byte) ≠ [] ∧ ofBytes ([3] : List Byte) % 4 = 3 := by
  unfold reservedMajor; decide

/-- An issue turn of context 1, whose block at 0x1000 holds the bytes. -/
def slotted (cyc : Nat) (bytes : List Byte) (err : Option Trap) : State :=
  { (on fun c => { c with block := some ⟨0x1000, bytes, err⟩ }) with cyc := cyc, agenda := [.issue 1] }

/-- A HALT, and 24 bytes of zeros. -/
def haltBlock : List Byte := [0x48, 1] ++ List.replicate 30 0

theorem at_slot (bytes : List Byte) (err : Option Trap)
    (h0 : cyclesToSlot { slotted 4993 bytes err with agenda := [] } 1 = 0)
    (h : mayIssue { slotted 4993 bytes err with agenda := [] } 1 = true) :
    AtSlot (slotted 4993 bytes err) { slotted 4993 bytes err with agenda := [] } 1 ⟨0x1000, bytes, err⟩ :=
  ⟨[], rfl, by decide, rfl, (by rw [h0]; rfl), h, rfl, if_pos (show (0x1000 : Nat) = blockAddr 0x1000 by decide)⟩

theorem witness_StepRunsInstruction :
    AtSlot (slotted 4993 haltBlock none) { slotted 4993 haltBlock none with agenda := [] } 1 ⟨0x1000, haltBlock, none⟩
      ∧ decode (haltBlock.drop ((({ slotted 4993 haltBlock none with agenda := [] } : State).ctx 1).pc.toNat % 32))
          = .ok (.halt g0, List.replicate 24 0)
      ∧ ({ world with agenda := [.event .coldReset] } : State).agenda = .event .coldReset :: [] ∧ Instr.isEvent .coldReset = true
      ∧ Instr.wf .coldReset = true ∧ dueHandovers world = [] ∧ mayTake world .coldReset = true ∧ mayTake world (.kick 0 0 0) = true
      ∧ ({ world with agenda := [.tick] } : State).agenda = .tick :: [] ∧ cycleOver world = true
      ∧ cycleOver { slotted 4993 haltBlock none with agenda := [] } = false ∧ (∀ e ∈ world.front.parts, e.2.unposted = []) :=
  ⟨at_slot _ _ (by decide) (by decide), by decide, rfl, by decide, by decide, by decide, by decide, by decide, rfl, by decide, by decide, by decide⟩

theorem witness_IssueWithoutInstruction :
    let skip := [(3 : Byte)] ++ List.replicate 31 0
    let bytes := fun (b : List Byte) => b.drop ((({ slotted 4993 b none with agenda := [] } : State).ctx 1).pc.toNat % 32)
    AtSlot (slotted 4993 skip none) { slotted 4993 skip none with agenda := [] } 1 ⟨0x1000, skip, none⟩
      ∧ decode (bytes skip) = .error .skipCode
      ∧ AtSlot (slotted 4993 (List.replicate 32 0) none) { slotted 4993 (List.replicate 32 0) none with agenda := [] } 1
          ⟨0x1000, List.replicate 32 0, none⟩
      ∧ (∃ e, decode (bytes (List.replicate 32 0)) = .error e ∧ e ≠ .skipCode)
      ∧ AtSlot (slotted 4993 [] (some ⟨.translation, 0x1000, .fetch, 0⟩)) { slotted 4993 [] (some ⟨.translation, 0x1000, .fetch, 0⟩) with agenda := [] }
          1 ⟨0x1000, [], some ⟨.translation, 0x1000, .fetch, 0⟩⟩ ∧ partOf world 1 = some 0 := by
  refine ⟨at_slot _ _ (by decide) (by decide), by decide, at_slot _ _ (by decide) (by decide), ?_, at_slot _ _ (by decide) (by decide), by decide⟩
  have h : (match decode ((List.replicate 32 (0 : Byte)).drop (0x1000 % 32)) with | .error e => decide (e ≠ .skipCode) | .ok _ => false) = true := by
    decide
  show ∃ e, decode ((List.replicate 32 (0 : Byte)).drop (0x1000 % 32)) = .error e ∧ e ≠ .skipCode
  revert h
  cases decode ((List.replicate 32 (0 : Byte)).drop (0x1000 % 32)) with
  | error e => exact fun h => ⟨e, rfl, of_decide_eq_true h⟩
  | ok x => simp

/-- The world has the invariant, and its next step answers a next state. -/
theorem witness_StepKeepsInv : Claims.Inv world ∧ (match step { world with agenda := [.tick] } with | .next _ => true | _ => false) = true := by
  unfold Claims.Inv NumbersFresh; decide

theorem witness_InvAtReset :
    Claims.Inv State.reset ∧ (match exec .coldReset State.reset with | .next _ => true | _ => false) = true := by
  unfold Claims.Inv NumbersFresh; exact ⟨by decide, rfl⟩

theorem witness_MemoryLaws :
    Memory.wf [(5, 1)] = true ∧ (∀ a, Memory.read [(5, 1)] a = Memory.read (Memory.write [] 5 1) a) :=
  ⟨by decide, fun _ => rfl⟩

/-! ### Single steps; each expected value is worked out by hand from the rule that its line cites, or is the spec's own -/

/-- What a step answers, read by `f`. -/
def after {α : Type} (r : Host.Outcome State Fault Refusal) (f : State → α) : Option α :=
  match r with
  | .next t => some (f t)
  | _ => none

/-- g[rd] after an instruction of context 1, whose registers 2 and 3 hold the words. -/
def result (i : Instr) (rd : Reg) (x y : Word) : Option Word :=
  after (exec i (on fun c => (c.setReg 2 x).setReg 3 y)) fun t => (t.ctx 1).reg rd

def bin (ty : ITy) (sf : Bool) : IntBin := ⟨ty, 1, 2, .reg 3, sf⟩
def small (n : BitVec 28) : Src := .imm (.i28 n)

/-- The table of R117. -/
theorem test_r117_add : result (.add g0 (bin .s8 false)) 1 0x123400000000007F 1 = some 0xFFFFFFFFFFFFFF80
    ∧ result (.add g0 (bin .s8 true)) 1 0x123400000000007F 1 = some 0x7F
    ∧ result (.add g0 ⟨.n8, 1, 2, small 1, false⟩) 1 0xFF 0 = some 0 := by decide
theorem test_r117_div : result (.div g0 (bin .s32 false)) 1 0x80000000 0xFFFFFFFF = some 0xFFFFFFFF80000000
    ∧ result (.rem g0 (bin .s32 false)) 1 0x80000000 0xFFFFFFFF = some 0 := by decide
theorem test_r117_mulh : result (.mulh g0 ⟨.n64, 1, 2, small 2, false⟩) 1 0xFFFFFFFFFFFFFFFF 0 = some 1
    ∧ result (.mulh g0 ⟨.dflt, 1, 2, small 2, false⟩) 1 0xFFFFFFFFFFFFFFFF 0 = some 0xFFFFFFFFFFFFFFFF := by decide
theorem test_r117_sha : result (.sha g0 ⟨.s32, 1, 2, small 33, false⟩) 1 0x80000000 0 = some 0xFFFFFFFFC0000000 := by decide
theorem test_r117_divide : after (exec (.div g0 ⟨.dflt, 1, 2, small 0, false⟩) ringed)
    (fun t => ((t.ctx 1).run, (t.ctx 1).reg 1, (t.part 0).recs.map (·.trap.cause))) = some (.faulted, 0x1000, [.divide]) := by decide

/-- R115, R116: 3 − 5; −3 × 5; −7 rem 2 truncates toward zero; the counts of shifts are taken modulo the width. -/
theorem test_sub_mul_rem : result (.sub g0 (bin .dflt false)) 1 3 5 = some 0xFFFFFFFFFFFFFFFE
    ∧ result (.mul g0 (bin .s16 false)) 1 0xFFFD 5 = some 0xFFFFFFFFFFFFFFF1
    ∧ result (.rem g0 (bin .s8 false)) 1 0xF9 2 = some 0xFFFFFFFFFFFFFFFF := by decide
theorem test_shifts : result (.shl g0 (bin .n8 false)) 1 0x81 9 = some 2 ∧ result (.shr g0 (bin .dflt false)) 1 0x8000000000000000 63 = some 1
    ∧ result (.rot g0 (bin .n64 false)) 1 0x8000000000000000 1 = some 1 := by decide
theorem test_logic : result (.and g0 (bin .dflt false)) 1 0xC 0xA = some 8 ∧ result (.or g0 (bin .dflt false)) 1 0xC 0xA = some 0xE
    ∧ result (.xor g0 (bin .dflt false)) 1 0xC 0xA = some 6 ∧ result (.andn g0 (bin .dflt false)) 1 0xC 0xA = some 4 := by decide
theorem test_min_max : result (.min g0 (bin .dflt false)) 1 0xFFFFFFFFFFFFFFFF 3 = some 0xFFFFFFFFFFFFFFFF
    ∧ result (.max g0 (bin .n64 false)) 1 0xFFFFFFFFFFFFFFFF 3 = some 0xFFFFFFFFFFFFFFFF := by decide
/-- R118: the count of a zero source is the width. -/
theorem test_counts : result (.clz g0 ⟨.n16, 1, 2⟩) 1 1 0 = some 15 ∧ result (.ctz g0 ⟨.s8, 1, 2⟩) 1 0x100 0 = some 8
    ∧ result (.popc g0 ⟨.dflt, 1, 2⟩) 1 0xFFFFFFFFFFFFFFFF 0 = some 64 := by decide
/-- R119, R120: a field's top bit extends under S64. -/
theorem test_bit_fields : result (.bfx g0 .s64 1 2 4 4) 1 0x80 0 = some 0xFFFFFFFFFFFFFFF8 ∧ result (.bfx g0 .n64 1 2 4 4) 1 0x80 0 = some 8
    ∧ result (.bfi g0 3 2 8 8) 3 0x5A 0xFFFFFFFF = some 0xFFFF5AFF := by decide
theorem test_extends : result (.sext g0 .s8 1 2) 1 0x80 0 = some 0xFFFFFFFFFFFFFF80 ∧ result (.zext g0 .n16 1 2) 1 0x12345 0 = some 0x2345 := by
  decide
/-- R121, R122: the type decides how a comparison reads its sources; SEL reads p1, which is 0. -/
theorem test_compare : after (exec (.cmp g0 .lt .dflt 2 9 (.reg 2)) world) (fun t => (t.ctx 1).st.getLsbD 2) = some true
    ∧ after (exec (.cmp g0 .lt .n64 2 9 (.reg 2)) world) (fun t => (t.ctx 1).st.getLsbD 2) = some false
    ∧ result (.sel g0 1 1 2 3) 1 7 9 = some 9 := by decide
theorem test_moves : result (.mov g0 1 2) 1 7 0 = some 7 ∧ result (.vset g0 1 2 (.imm 0x40)) 1 7 0 = some 0x4000000000000007
    ∧ result (.vget g0 1 2) 1 0x4000000000000007 0 = some 0x40 ∧ result (.vclr g0 1 2) 1 0x4000000000000007 0 = some 7 := by decide

/-- R91, R127: 1 + 2 = 3, 3 × 0.5 = 1.5, 1 / 3 rounds to nearest, and 1 / 0 is an infinity with DZ. -/
theorem test_float : result (.fadd g0 ⟨.f32, 1, 2, 3⟩) 1 0x3F800000 0x40000000 = some 0x40400000
    ∧ result (.fmul g0 ⟨.f16, 1, 2, 3⟩) 1 0x4200 0x3800 = some 0x3E00
    ∧ result (.fdiv g0 ⟨.f32, 1, 2, 3⟩) 1 0x3F800000 0x40400000 = some 0x3EAAAAAB
    ∧ result (.fdiv g0 ⟨.f32, 1, 2, 3⟩) 1 0x3F800000 0 = some 0x7F800000 := by decide +kernel
theorem test_float_root : result (.fsqrt g0 .f32 1 2) 1 0x40800000 0 = some 0x40000000
    ∧ result (.fcvt g0 .f32 .s32 false 1 2) 1 0xFFFFFFFF 0 = some 0xBF800000
    ∧ result (.fcvt g0 .s8 .f32 true 1 2) 1 0x43800000 0 = some 0x7F := by decide +kernel

/-- R132 to R136: a target is PC + OFF × 4, a guard that fails goes on, and CALL and RET join by g15. -/
theorem test_branches : after (exec (.br g0 (-2)) world) (fun t => (t.ctx 1).pc) = some 0xFF8
    ∧ after (exec (.br ⟨1, false⟩ (-2)) world) (fun t => (t.ctx 1).pc) = some 0x1008
    ∧ after (exec (.callReg g0 1) world) (fun t => ((t.ctx 1).pc, (t.ctx 1).reg 15)) = some (0x1000, 0x1008)
    ∧ after (exec (.ret g0) (on fun c => c.setReg 15 0x4000000000002000)) (fun t => (t.ctx 1).pc) = some 0x2000 := by decide
theorem test_jump_traps : after (exec (.jmp g0 15) ringed) (fun t => ((t.ctx 1).run, (t.ctx 1).pc)) = some (.faulted, 0x1000) := by decide

/-- R147, R176 to R182: a load and a store stand in the Issue Port, and the granule event carries them out. -/
def twice (i : Instr) (s : State) : Host.Outcome State Fault Refusal :=
  match exec i s with
  | .next t => exec (.granuleEventPerform 1) t
  | o => o

/-- Events one after the other. -/
def inTurn (l : List Instr) (s : State) : Host.Outcome State Fault Refusal :=
  l.foldl (fun o i => match o with
    | .next t => exec i t
    | o => o) (.next s)

def filled : State := { world with mem := [(0x100000, 0x80), (0x100001, 0xFF)] }

theorem test_loads : after (twice (.ld g0 .b16 .dflt 4 (.base8 1 0 0)) filled) (fun t => ((t.ctx 1).reg 4, (t.ctx 1).pc)) = some (0xFF80, 0x1008)
    ∧ after (twice (.ldx g0 .b8 .dflt 4 (.base8 1 0 0)) filled) (fun t => (t.ctx 1).reg 4) = some 0xFFFFFFFFFFFFFF80 := by decide +kernel
theorem test_stores : after (twice (.st g0 .b16 .dflt 11 (.base8 1 0 0)) filled) (fun t => (Memory.read t.mem 0x100000, Memory.read t.mem 0x100001))
    = some (0, 4) := by decide +kernel
theorem test_atomics : after (twice (.atom g0 .add .b8 .v .dflt 4 2 (.base8 1 0 0)) filled)
      (fun t => ((t.ctx 1).reg 4, Memory.read t.mem 0x100000)) = some (0x80, 0x83)
    ∧ after (twice (.cas g0 .b8 .v .dflt 4 1 8 2 (.base8 1 0 0)) filled)
      (fun t => ((t.ctx 1).st.getLsbD 1, Memory.read t.mem 0x100000)) = some (true, 3) := by decide +kernel

/-- R270 to R272, R276: a thread spawned, ended, and a trap by software. -/
theorem test_threads : after (exec (.spawn g0 4 2 1 3) (headed id)) (fun t => ((t.ctx 2).pc, (t.ctx 2).reg 0, (t.ctx 0).reg 4)) = some (0x1000, 0, 0)
    ∧ after (exec (.halt g0) world) (fun t => (t.ctx 1).run) = some .halted := by decide
theorem test_trap : after (exec (.trap g0 5) ringed) (fun t => ((t.ctx 1).run, (t.part 0).recs.map fun r => (r.trap.cause, r.pc)))
    = some (.faulted, [(.software, 0x1000)]) := by decide

/-- R14: POS of context 1 of core 0 of quire 0, and CYC; R79: FMT leaves its payload. -/
theorem test_special : after (exec (.srd g0 4 3) world) (fun t => (t.ctx 1).reg 4) = some 5000
    ∧ after (exec (.swr g0 5 9) world) (fun t => (t.ctx 1).seed) = some 0xFFFFFFFFFFFFFFFF
    ∧ after (exec (.fmt ⟨0, false, true, 0, 2⟩) world) (fun t => stPP (t.ctx 1).st) = some true := by decide

/-- R204, R206: a tile entry is made and freed. -/
theorem test_tiles : after (exec (.talloc g0 true 255 1 16 4) (stocked [])) (fun t => ((tileAt t 0 255).owner, (tileAt t 0 255).st)) = some (some 1, .ready)
    ∧ after (exec (.tfree g0 0) (stocked [])) (fun t => (tileAt t 0 0).owner) = some none := by decide

/-- R213, R244: a vector instruction and a matrix entry run their course. -/
theorem test_vector : after (exec (.vadd g0 ⟨0, 1, .tile 1, false⟩) { stocked [] with mem := [(0x10000000882, 0x80), (0x10000000883, 0x3F)] })
    (fun t => after (inTurn [.vectorOpComplete 0 (some 0x800000044), .vectorOpComplete 0 (some 0x800000040)] { t with cyc := 5001 })
      fun u => Memory.readBytes u.mem 0x10000000800 4) = some (some [0, 0, 0, 0x40]) := by
  decide +kernel
theorem test_mzero : after (exec (.mzero g0 true) world) (fun t =>
    after (exec (.mzeroEntryRun 0) { t with cyc := 5001 }) fun u => (u.core 0).queue.length) = some (some 0) := by decide +kernel

/-- R76: an instruction that is placed runs at the next step, after reset. -/
theorem test_placed : after (step (State.reset.withFetchWord 64 0x148)) (fun t => (t.ctx 0).run) = some .free := by decide +kernel

end Sys2Proof.Tests
end

section
/-! PROOFS. Special registers and meters: what SRD, SWR and MREAD answer for each index (R5, R12 to R15, R282). -/
namespace Sys2Proof.Proofs.SpecialRegisters
open Sys2Proof.Machine Sys2Proof.Claims

/-! ### The model's words, bit by bit -/

/-- `stFields` is the set of the bits that R12 names. -/
theorem getLsbD_stFields : ∀ j, j < 64 → stFields.getLsbD j = inSt j := by decide

/-- `swrMask` is the set of the bits that R13 lets SWR write. -/
theorem getLsbD_swrMask : ∀ j, j < 64 → swrMask.getLsbD j = decide ((1 ≤ j ∧ j ≤ 7) ∨ j = 14 ∨ j = 15
    ∨ (16 ≤ j ∧ j ≤ 20) ∨ (24 ≤ j ∧ j ≤ 26) ∨ j = 29) := by decide

/-- A word with the bits of a mask taken from another. -/
theorem getLsbD_merge (w v m : Word) {j : Nat} (hj : j < 64) :
    ((w &&& ~~~m) ||| (v &&& m)).getLsbD j = if m.getLsbD j then v.getLsbD j else w.getLsbD j := by
  rw [BitVec.getLsbD_or, BitVec.getLsbD_and, BitVec.getLsbD_and, BitVec.getLsbD_not, decide_eq_true hj]
  cases m.getLsbD j
  · simp
  · simp

/-- WID reads 0 above the widths of its levels (R14). -/
theorem getLsbD_widRead (c : Ctx) {j : Nat} (hj : j < 64) :
    (widRead c).getLsbD j = (decide (j < (levelWidths c.levels).sum) && c.wid.getLsbD j) := by
  rw [widRead, BitVec.getLsbD_ofNat, testBit_bits, Nat.zero_add, toNat_testBit]
  simp [hj]

/-- TASK reads 0 in a slot that belongs to no task (R14). -/
theorem taskWord_none {c : Ctx} (h : c.task = none) : taskWord c = 0 := by rw [taskWord, h]

/-- Bit 16 of TASK lies above the tag, so that adding it sets it (R14). -/
theorem taskWord_some {c : Ctx} {t : BitVec 16} (h : c.task = some t) : taskWord c = 0x10000 ||| t.setWidth 64 := by
  have hor : 2 ^ 16 + t.toNat = 2 ^ 16 ||| t.toNat := by simpa using Nat.two_pow_add_eq_or_of_lt t.isLt 1
  have ht : t.toNat < 2 ^ 64 := by omega
  have hsum : 2 ^ 16 + t.toNat < 2 ^ 64 := by omega
  apply BitVec.eq_of_toNat_eq
  calc (taskWord c).toNat = (2 ^ 16 + t.toNat) % 2 ^ 64 := by rw [taskWord, h, BitVec.toNat_ofNat, Nat.add_comm]
    _ = 2 ^ 16 ||| t.toNat := by rw [Nat.mod_eq_of_lt hsum, hor]
    _ = (0x10000 ||| t.setWidth 64).toNat := by
      rw [BitVec.toNat_or, BitVec.toNat_setWidth, Nat.mod_eq_of_lt ht]; rfl

/-- POS: the position below the device's identifier on the fabric (R14). -/
theorem posWord_eq (s : State) (pos : Nat) :
    posWord s pos = BitVec.ofNat 64 (pos % 2 ^ 14 + 2 ^ 32 * (s.fabric.fid.toNat % 1024)) := by
  rw [posWord, bits, Nat.pow_zero, Nat.div_one, Nat.mul_comm (2 ^ 32)]; rfl

theorem stField_eq_extractLsb' (v : Word) (lo n : Nat) : stField v lo n = (v.extractLsb' lo n).toNat := by
  rw [stField, bits, BitVec.extractLsb'_toNat, Nat.shiftRight_eq_div_pow]

/-! ### The instructions' arms -/

theorem exec_srd (g : Guard) (rd : Reg) (x : BitVec 12) (s : State) : exec (.srd g rd x) s = execSrd g rd x s := rfl
theorem exec_swr (g : Guard) (x : BitVec 12) (ra : Reg) (s : State) : exec (.swr g x ra) s = execSwr g x ra s := rfl
theorem exec_mread (g : Guard) (rd : Reg) (idx : BitVec 6) (s : State) :
    exec (.mread g rd idx) s = execMread g rd idx s := rfl

/-! ### SRD (R14, R15) -/

theorem specRead_capw (s : State) (pos : Nat) {x : Nat} (hlo : 0x100 ≤ x) (hhi : x ≤ 0x1FF) :
    specRead s pos x = some (capWord x) := by
  have h : ∀ k, k < 7 → x ≠ k := fun k hk => by omega
  simp [specRead, h, hlo, hhi]

theorem specRead_reserved (s : State) (pos : Nat) {x : Nat} (hx : (7 ≤ x ∧ x < 0x100) ∨ 0x1FF < x) :
    specRead s pos x = none := by
  have h : ∀ k, k < 7 → x ≠ k := fun k hk => by omega
  have hcap : ¬ (0x100 ≤ x ∧ x ≤ 0x1FF) := by omega
  simp only [specRead, h, hcap, if_false, Nat.reduceLT]

section
variable {g : Guard} {s : State} (h : Issues g s)
include h

/-- SRD of an index that reads `v` writes `v`. -/
theorem srd_writes {rd : Reg} {x : BitVec 12} {v : Word} (hv : specRead s s.cur x.toNat = some v) :
    Writes (.srd g rd x) s rd v := by
  rw [Writes, Instr.bytes_srd, exec_srd, execSrd]
  exact guarded_retires h (by rw [hv]) rfl rfl

/-- SRD of an index that reads nothing traps. -/
theorem srd_traps {rd : Reg} {x : BitVec 12} (hv : specRead s s.cur x.toNat = none) :
    TrapsWith (.srd g rd x) s .operand := by
  refine ⟨operand x.toNat, rfl, ?_⟩
  rw [Traps, exec_srd, execSrd]
  exact guarded_traps h (by rw [hv])

/-! ### SWR (R13, R15) -/

/-- SWR to ST with an assigned RM merges the writable bits into ST. -/
theorem swr_st_retires {ra : Reg} (hrm : ¬ 5 ≤ stField ((here s).reg ra) 24 3) :
    ∃ t, exec (.swr g 4 ra) s = .next t ∧
      Retires s t { here s with st := ((here s).st &&& ~~~swrMask) ||| ((here s).reg ra &&& swrMask) } 8 := by
  rw [exec_swr, execSwr]
  exact guarded_retires h (by simp only [if_true, if_neg hrm]) rfl rfl

theorem swr_st_traps {ra : Reg} (hrm : 5 ≤ stField ((here s).reg ra) 24 3) : TrapsWith (.swr g 4 ra) s .operand := by
  refine ⟨operand ((here s).reg ra).toNat, rfl, ?_⟩
  rw [Traps, exec_swr, execSwr]
  exact guarded_traps h (by simp only [if_true, if_pos hrm])

theorem swr_seed_retires (ra : Reg) :
    ∃ t, exec (.swr g 5 ra) s = .next t ∧ Retires s t { here s with seed := (here s).reg ra } 8 := by
  have hst : (5 : BitVec 12) ≠ 4 := by decide
  rw [exec_swr, execSwr]
  exact guarded_retires h (by simp only [if_neg hst, if_true]) rfl rfl

theorem swr_other_traps {ra : Reg} {x : BitVec 12} (hst : x ≠ 4) (hseed : x ≠ 5) :
    TrapsWith (.swr g x ra) s .operand := by
  refine ⟨operand x.toNat, rfl, ?_⟩
  rw [Traps, exec_swr, execSwr]
  exact guarded_traps h (by simp only [if_neg hst, if_neg hseed])

/-! ### MREAD (R282) -/

theorem mread_writes {rd : Reg} {idx : BitVec 6} {n : Nat} (hidx : ¬ 48 ≤ idx.toNat) (hn : partOf s s.cur = some n) :
    Writes (.mread g rd idx) s rd (meterValue s n idx.toNat) := by
  rw [Writes, Instr.bytes_mread, exec_mread, execMread]
  exact guarded_retires h (by simp only [if_neg hidx, hn]) rfl rfl

theorem mread_traps {rd : Reg} {idx : BitVec 6} (hidx : 48 ≤ idx.toNat) : TrapsWith (.mread g rd idx) s .operand := by
  refine ⟨operand idx.toNat, rfl, ?_⟩
  rw [Traps, exec_mread, execMread]
  exact guarded_traps h (by simp only [if_pos hidx])

end

/-! ### The three claims -/

theorem specialRegisterRead : SpecialRegisterRead := by
  intro g rd s h c
  refine ⟨?pos, ⟨widRead c, srd_writes h rfl, fun j hj => getLsbD_widRead c hj⟩, srd_writes h rfl, srd_writes h rfl,
    ⟨c.st &&& stFields, srd_writes h rfl, ?st⟩, srd_writes h rfl, ?task,
    fun x hlo hhi => ⟨capWord x.toNat, srd_writes h (specRead_capw s s.cur hlo hhi)⟩,
    fun x hx => srd_traps h (specRead_reserved s s.cur hx)⟩
  case pos =>
    rw [← posWord_eq]
    exact srd_writes h rfl
  case st =>
    intro j hj
    rw [BitVec.getLsbD_and, getLsbD_stFields j hj, Bool.and_comm]
  case task =>
    have hw : Writes (.srd g rd 6) s rd (taskWord c) := srd_writes h rfl
    split
    · next htask => rwa [taskWord_some htask] at hw
    · next htask => rwa [taskWord_none htask] at hw

theorem specialRegisterWrite : SpecialRegisterWrite := by
  intro g ra s h v writable
  refine ⟨fun hrm => ?st, fun hrm => ?reserved, swr_seed_retires h ra, fun x hst hseed => swr_other_traps h hst hseed⟩
  case st =>
    rw [← stField_eq_extractLsb'] at hrm
    obtain ⟨t, hexec, hret⟩ := swr_st_retires h (Nat.not_le.mpr (Nat.lt_succ_of_le hrm))
    refine ⟨t, _, hexec, hret, fun j hj => ?_⟩
    rw [getLsbD_merge _ _ _ hj, getLsbD_swrMask j hj]
    simp only [decide_eq_true_eq, writable, v]
  case reserved =>
    rw [← stField_eq_extractLsb'] at hrm
    exact swr_st_traps h hrm

theorem meterRead : MeterRead := fun _ _ _ _ h =>
  ⟨fun hidx _ hn => ⟨meterLag, Nat.min_le_left _ _, mread_writes h (Nat.not_le.mpr hidx) hn⟩, fun hidx => mread_traps h hidx⟩

/-- Settles O11: SRD, SWR and MREAD read and write as their indices say, or trap. -/
theorem specialRegisters : Obligations.SpecialRegisters := by
  unfold Obligations.SpecialRegisters
  exact ⟨specialRegisterRead, specialRegisterWrite, meterRead⟩

end Sys2Proof.Proofs.SpecialRegisters
end

section
/-! PROOFS. The rules that an instruction's proof starts from: an instruction that only writes a register or a predicate, and
one that traps, by the effect of its body (R10, R11, R37). -/
namespace Sys2Proof.Proofs.Scalar
open Sys2Proof.Machine Sys2Proof.Claims

section
variable {i : Instr} {g : Guard} {s : State} {len : Nat} {body : Ctx → Eff}

/-- The body of `i` writes one register. -/
theorem writes_of_body {rd : Reg} {v : Word} (h : Issues g s) (hexec : exec i s = guarded g false len s body)
    (hlen : i.bytes = len) (hbody : body (here s) = writes s (here s) rd v len) : Writes i s rd v := by
  rw [Writes, hexec, hlen]
  exact guarded_retires h hbody rfl rfl

/-- The body of `i` writes one predicate. -/
theorem writesPred_of_body {pd : Pred} {v : Bool} (h : Issues g s) (hexec : exec i s = guarded g false len s body)
    (hlen : i.bytes = len) (hbody : body (here s) = writesPred s (here s) pd v len) : WritesPred i s pd v := by
  rw [WritesPred, hexec, hlen]
  exact guarded_retires h hbody rfl rfl

/-- The body of `i` is a trap. -/
theorem traps_of_body {x : Trap} (h : Issues g s) (hexec : exec i s = guarded g false len s body)
    (hbody : body (here s) = bad s x) : Traps i s x := by
  rw [Traps, hexec]
  exact guarded_traps h hbody

/-- The body of `i` is an OPERAND trap whose info the manual leaves open. -/
theorem operand_of_body {n : Nat} (h : Issues g s) (hexec : exec i s = guarded g false len s body)
    (hbody : body (here s) = bad s (operand n)) : TrapsWith i s .operand :=
  ⟨operand n, rfl, traps_of_body h hexec hbody⟩

end

end Sys2Proof.Proofs.Scalar
end

section
/-! PROOFS. Logic, shifts, bit counts and bit fields (R115, R118, R119). -/
namespace Sys2Proof.Proofs.BitsAndCounts
open Sys2Proof.Machine Sys2Proof.Claims Sys2Proof.Proofs.Scalar

/-! ### Logic and shifts (R115) -/

theorem exec_and (g : Guard) (o : IntBin) (s : State) : exec (.and g o) s = execAnd g o s := rfl
theorem exec_or (g : Guard) (o : IntBin) (s : State) : exec (.or g o) s = execOr g o s := rfl
theorem exec_xor (g : Guard) (o : IntBin) (s : State) : exec (.xor g o) s = execXor g o s := rfl
theorem exec_andn (g : Guard) (o : IntBin) (s : State) : exec (.andn g o) s = execAndn g o s := rfl
theorem exec_shl (g : Guard) (o : IntBin) (s : State) : exec (.shl g o) s = execShl g o s := rfl
theorem exec_shr (g : Guard) (o : IntBin) (s : State) : exec (.shr g o) s = execShr g o s := rfl
theorem exec_sha (g : Guard) (o : IntBin) (s : State) : exec (.sha g o) s = execSha g o s := rfl
theorem exec_rot (g : Guard) (o : IntBin) (s : State) : exec (.rot g o) s = execRot g o s := rfl

/-- An instruction on the low bits of its sources has the result that its function on naturals gives at the type's width. -/
theorem bitResult_of_bitBin {mk : Guard → IntBin → Instr} {f : Nat → Nat → Nat → Int}
    {op : (ty : ITy) → BitVec (width ty) → Word → BitVec (width ty)}
    (hexec : ∀ g o s, exec (mk g o) s = bitBin f g o s) (hlen : ∀ g o, (mk g o).bytes = srcBytes o.b)
    (hop : ∀ ty (x : BitVec (width ty)) (y : Word),
      BitVec.ofInt (width ty) (f (width ty) x.toNat (lowBits ty y).toNat) = op ty x y) : BitResult mk op := by
  intro g o s h
  refine writes_of_body h (hexec g o s) (hlen g o) ?_
  rw [lowOf_eq, lowOf_eq, width_eq, ext_eq, extInt, hop]

theorem count_lt_width (ty : ITy) (y : Word) : count ty y < width ty :=
  Nat.mod_lt _ (by cases ty <;> decide)

section
variable {w : Nat} (x y : BitVec w)

theorem ofNat_andNot : BitVec.ofNat w (x.toNat &&& (2 ^ w - 1 - y.toNat)) = x &&& ~~~y := by
  rw [BitVec.ofNat_and, ← BitVec.toNat_not, BitVec.ofNat_toNat, BitVec.ofNat_toNat, BitVec.setWidth_eq, BitVec.setWidth_eq]

theorem ofNat_mul_two_pow (n : Nat) : BitVec.ofNat w (x.toNat * 2 ^ n) = x <<< n := by
  apply BitVec.eq_of_toNat_eq
  rw [BitVec.toNat_ofNat, BitVec.toNat_shiftLeft, Nat.shiftLeft_eq]

theorem ofNat_div_two_pow (n : Nat) : BitVec.ofNat w (x.toNat / 2 ^ n) = x >>> n := by
  rw [← Nat.shiftRight_eq_div_pow, ← BitVec.toNat_ushiftRight, BitVec.ofNat_toNat, BitVec.setWidth_eq]

/-- The signed reading of a number of `w` bits. -/
theorem signedReading_eq_toInt (hw : 0 < w) :
    (if 2 ^ (w - 1) ≤ x.toNat then (x.toNat : Int) - 2 ^ w else x.toNat) = x.toInt := by
  have h2 : 2 ^ w = 2 * 2 ^ (w - 1) := by rw [← Nat.pow_succ', Nat.succ_eq_add_one, Nat.sub_add_cancel hw]
  have hlt : 2 * x.toNat < 2 ^ w ↔ ¬ 2 ^ (w - 1) ≤ x.toNat := by omega
  rw [BitVec.toInt_eq_toNat_cond, if_congr hlt rfl rfl, ite_not]
  push_cast
  rfl

theorem ofInt_fdiv_two_pow (n : Nat) : BitVec.ofInt w (x.toInt.fdiv (2 ^ n)) = x.sshiftRight n := by
  rw [Int.fdiv_eq_ediv_of_nonneg _ (by positivity), BitVec.sshiftRight, Int.shiftRight_eq_div_pow]
  rfl

/-- The two parts of a rotation fill disjoint bits. -/
theorem ofNat_rotate {n : Nat} (hn : n < w) :
    BitVec.ofNat w (x.toNat * 2 ^ n % 2 ^ w + x.toNat / 2 ^ (w - n)) = x.rotateLeft n := by
  have hdiv : x.toNat / 2 ^ (w - n) < 2 ^ n := by
    rw [Nat.div_lt_iff_lt_mul (Nat.two_pow_pos _), ← Nat.pow_add, Nat.add_sub_cancel' hn.le]
    exact x.isLt
  have hmul : x.toNat * 2 ^ n % 2 ^ w = 2 ^ n * (x.toNat % 2 ^ (w - n)) := by
    rw [Nat.mul_comm, ← Nat.mul_mod_mul_left, ← Nat.pow_add, Nat.add_sub_cancel' hn.le]
  have hsum : x.toNat * 2 ^ n % 2 ^ w + x.toNat / 2 ^ (w - n) = (x.rotateLeft n).toNat := by
    rw [BitVec.toNat_rotateLeft, Nat.mod_eq_of_lt hn, Nat.shiftLeft_eq, Nat.shiftRight_eq_div_pow, hmul,
      ← Nat.two_pow_add_eq_or_of_lt hdiv]
  rw [hsum, BitVec.ofNat_toNat, BitVec.setWidth_eq]

end

theorem bitwiseAndShift : BitwiseAndShift := by
  refine ⟨?and, ?or, ?xor, ?andn, ?shl, ?shr, ?sha, ?rot⟩
  case and =>
    exact bitResult_of_bitBin exec_and Instr.bytes_and fun ty x y => by
      simp [BitVec.ofInt_natCast, BitVec.ofNat_and]
  case or =>
    exact bitResult_of_bitBin exec_or Instr.bytes_or fun ty x y => by
      simp [BitVec.ofInt_natCast, BitVec.ofNat_or]
  case xor =>
    exact bitResult_of_bitBin exec_xor Instr.bytes_xor fun ty x y => by
      simp [BitVec.ofInt_natCast, BitVec.ofNat_xor]
  case andn =>
    exact bitResult_of_bitBin exec_andn Instr.bytes_andn fun ty x y => by
      rw [BitVec.ofInt_natCast, ofNat_andNot]
  case shl =>
    exact bitResult_of_bitBin exec_shl Instr.bytes_shl fun ty x y => by
      rw [BitVec.ofInt_natCast, ofNat_mul_two_pow, count]
  case shr =>
    exact bitResult_of_bitBin exec_shr Instr.bytes_shr fun ty x y => by
      rw [BitVec.ofInt_natCast, ofNat_div_two_pow, count]
  case sha =>
    exact bitResult_of_bitBin exec_sha Instr.bytes_sha fun ty x y => by
      rw [signedReading_eq_toInt x (Nat.zero_lt_of_lt (count_lt_width ty y)), ofInt_fdiv_two_pow, count]
  case rot =>
    exact bitResult_of_bitBin exec_rot Instr.bytes_rot fun ty x y => by
      rw [BitVec.ofInt_natCast]
      exact ofNat_rotate x (count_lt_width ty y)

/-! ### Counts of bits (R118) -/

theorem exec_clz (g : Guard) (o : IntUn) (s : State) : exec (.clz g o) s = execClz g o s := rfl
theorem exec_ctz (g : Guard) (o : IntUn) (s : State) : exec (.ctz g o) s = execCtz g o s := rfl
theorem exec_popc (g : Guard) (o : IntUn) (s : State) : exec (.popc g o) s = execPopc g o s := rfl

theorem writes_of_countUn {i : Instr} {f : Nat → Nat → Nat} {g : Guard} {o : IntUn} {s : State} (h : Issues g s)
    (hexec : exec i s = countUn f g o s) (hlen : i.bytes = 8) :
    Writes i s o.rd (BitVec.ofNat 64 (f (width o.ty) (lowBits o.ty ((here s).reg o.ra)).toNat)) := by
  refine writes_of_body h hexec hlen ?_
  rw [lowOf_eq, width_eq]

section
variable {w : Nat} (x : BitVec w)

/-- Above the highest one bit of a number that is not 0, and at it, as `leadingZeros` counts. -/
theorem leadingZeros_spec : leadingZeros w x.toNat ≤ w
    ∧ (∀ i, i < leadingZeros w x.toNat → x.getLsbD (w - 1 - i) = false)
    ∧ (leadingZeros w x.toNat < w → x.getLsbD (w - 1 - leadingZeros w x.toNat) = true) := by
  by_cases hx : x.toNat = 0
  · have hn : leadingZeros w x.toNat = w := if_pos hx
    have h0 : x = 0#w := BitVec.eq_of_toNat_eq (by simpa using hx)
    rw [hn]
    exact ⟨Nat.le_refl w, fun i _ => by simp [h0], fun h => absurd h (Nat.lt_irrefl w)⟩
  · have hn : leadingZeros w x.toNat = w - 1 - x.toNat.log2 := if_neg hx
    have hlog : x.toNat.log2 < w := (Nat.log2_lt hx).2 x.isLt
    rw [hn]
    refine ⟨by omega, fun i hi => ?above, fun _ => ?top⟩
    case above =>
      exact Nat.testBit_lt_two_pow ((Nat.log2_lt hx).1 (by omega))
    case top =>
      rw [show w - 1 - (w - 1 - x.toNat.log2) = x.toNat.log2 by omega]
      exact Nat.testBit_log2 hx

end

theorem trailingZeros_spec (w x : Nat) : trailingZeros w x ≤ w ∧ (∀ i, i < trailingZeros w x → x.testBit i = false)
    ∧ (trailingZeros w x < w → x.testBit (trailingZeros w x) = true) := by
  induction w generalizing x with
  | zero => simp [trailingZeros]
  | succ w ih =>
    obtain ⟨hle, hlow, htop⟩ := ih (x / 2)
    rw [trailingZeros]
    split
    case isTrue hodd => simp [Nat.testBit_zero, hodd]
    case isFalse heven =>
      rw [Nat.add_comm 1]
      refine ⟨Nat.succ_le_succ hle, fun i hi => ?_, fun h => ?_⟩
      · cases i with
        | zero => simpa [Nat.testBit_zero] using heven
        | succ i => rw [Nat.testBit_succ]; exact hlow i (Nat.lt_of_succ_lt_succ hi)
      · rw [Nat.testBit_succ]
        exact htop (Nat.lt_of_succ_lt_succ h)

theorem popCount_eq (x n : Nat) : popCount x n = ((List.range n).filter fun i => x.testBit i).length := by
  induction n with
  | zero => rfl
  | succ n ih =>
    have hbit : bits x n 1 = (x.testBit n).toNat := (Nat.toNat_testBit x n).symm
    rw [popCount, List.range_succ, List.foldl_append, List.filter_append, List.length_append, ← ih]
    rw [List.foldl_cons, List.foldl_nil, hbit, popCount]
    cases hb : x.testBit n with
    | false => simp [hb]
    | true => simp [hb]

theorem countBits : CountBits := by
  intro g o s h x w
  refine ⟨?clz, ?ctz, ?popc⟩
  case clz =>
    obtain ⟨hle, hhigh, htop⟩ := leadingZeros_spec x
    exact ⟨_, hle, hhigh, htop, writes_of_countUn h (exec_clz g o s) (Instr.bytes_clz g o)⟩
  case ctz =>
    obtain ⟨hle, hlow, htop⟩ := trailingZeros_spec w x.toNat
    exact ⟨_, hle, hlow, htop, writes_of_countUn h (exec_ctz g o s) (Instr.bytes_ctz g o)⟩
  case popc =>
    have hw := writes_of_countUn h (exec_popc g o s) (Instr.bytes_popc g o)
    rw [popCount_eq] at hw
    exact hw

/-! ### Bit fields (R119) -/

theorem exec_bfx (g : Guard) (ty : BfxTy) (rd ra : Reg) (pos : BitVec 6) (len : BitVec 7) (s : State) :
    exec (.bfx g ty rd ra pos len) s = execBfx g ty rd ra pos len s := rfl
theorem exec_bfi (g : Guard) (rd ra : Reg) (pos : BitVec 6) (len : BitVec 7) (s : State) :
    exec (.bfi g rd ra pos len) s = execBfi g rd ra pos len s := rfl

theorem fieldOk_iff (pos : BitVec 6) (len : BitVec 7) :
    fieldOk pos len = true ↔ 1 ≤ len.toNat ∧ len.toNat ≤ 64 ∧ pos.toNat + len.toNat ≤ 64 := by
  simp only [fieldOk, Bool.and_eq_true, bne_iff_ne, decide_eq_true_eq, and_assoc]
  omega

/-- What BFX writes of a field of `n` bits: the field, extended by `neg`. -/
def fieldWord (x n : Nat) (neg : Bool) : Word := BitVec.ofInt 64 (if neg then (x : Int) - 2 ^ n else x)

/-- Subtracting 2^n from a field of `n` bits sets every bit above it. -/
theorem getLsbD_fieldWord {x n j : Nat} {neg : Bool} (hx : x < 2 ^ n) (hn : n ≤ 64) (hj : j < 64) :
    (fieldWord x n neg).getLsbD j = if j < n then x.testBit j else neg := by
  cases neg with
  | false =>
    have hval : fieldWord x n false = BitVec.ofNat 64 x := BitVec.ofInt_natCast 64 x
    rw [hval, BitVec.getLsbD_ofNat, decide_eq_true hj, Bool.true_and]
    split
    · rfl
    · next h => exact Nat.testBit_lt_two_pow (Nat.lt_of_lt_of_le hx (Nat.pow_le_pow_right (by decide) (Nat.not_lt.mp h)))
  | true =>
    have hp : 2 ^ n * (2 ^ (64 - n) - 1) + 2 ^ n = 2 ^ 64 := by
      rw [← Nat.mul_succ, Nat.succ_eq_add_one, Nat.sub_add_cancel (Nat.two_pow_pos _), ← Nat.pow_add,
        Nat.add_sub_cancel' hn]
    have hint : (x : Int) - 2 ^ n = ((2 ^ n * (2 ^ (64 - n) - 1) + x : Nat) : Int) + -(2 ^ 64 : Nat) := by
      rw [← hp]
      push_cast
      ring
    have hval : fieldWord x n true = BitVec.ofNat 64 (2 ^ n * (2 ^ (64 - n) - 1) + x) := by
      rw [fieldWord, if_pos rfl, hint, BitVec.ofInt_add, BitVec.ofInt_natCast]
      exact BitVec.add_zero _
    rw [hval, BitVec.getLsbD_ofNat, decide_eq_true hj, Bool.true_and, Nat.testBit_two_pow_mul_add _ hx,
      Nat.testBit_two_pow_sub_one]
    split
    · rfl
    · next h => exact decide_eq_true (by omega)

theorem bits_one_beq (x lo : Nat) : (bits x lo 1 == 1) = x.testBit lo := by
  rw [show bits x lo 1 = (x.testBit lo).toNat from (Nat.toNat_testBit x lo).symm]
  cases x.testBit lo
  · rfl
  · rfl

section
variable {g : Guard} {s : State} {rd ra : Reg} {pos : BitVec 6} {len : BitVec 7} (h : Issues g s)
include h

theorem bfx_writes (ty : BfxTy) (hok : fieldOk pos len = true) :
    Writes (.bfx g ty rd ra pos len) s rd (fieldWord (bits ((here s).reg ra).toNat pos.toNat len.toNat) len.toNat
      (ty != .n64 && bits (bits ((here s).reg ra).toNat pos.toNat len.toNat) (len.toNat - 1) 1 == 1)) :=
  writes_of_body h (exec_bfx g ty rd ra pos len s) (Instr.bytes_bfx g ty rd ra pos len) (if_pos hok)

theorem bfx_traps (ty : BfxTy) (hbad : ¬ fieldOk pos len = true) : TrapsWith (.bfx g ty rd ra pos len) s .operand :=
  operand_of_body h (exec_bfx g ty rd ra pos len s) (if_neg hbad)

theorem bfi_writes (hok : fieldOk pos len = true) :
    Writes (.bfi g rd ra pos len) s rd (putBits ((here s).reg rd) pos.toNat len.toNat ((here s).reg ra).toNat) :=
  writes_of_body h (exec_bfi g rd ra pos len s) (Instr.bytes_bfi g rd ra pos len) (if_pos hok)

theorem bfi_traps (hbad : ¬ fieldOk pos len = true) : TrapsWith (.bfi g rd ra pos len) s .operand :=
  operand_of_body h (exec_bfi g rd ra pos len s) (if_neg hbad)

end

theorem bitFields : BitFields := by
  intro g ty rd ra pos len s h p n x
  refine ⟨fun hfield => ⟨⟨_, fun j hj => ?bfx, bfx_writes h ty ((fieldOk_iff pos len).2 hfield)⟩,
    ⟨_, fun j hj => ?bfi, bfi_writes h ((fieldOk_iff pos len).2 hfield)⟩⟩, fun hfield => ?traps⟩
  case bfx =>
    obtain ⟨hpos, hle, -⟩ := hfield
    have hlast : n - 1 < n := Nat.sub_lt hpos Nat.one_pos
    rw [getLsbD_fieldWord (bits_lt _ _ _) hle hj, bits_one_beq, testBit_bits, testBit_bits, decide_eq_true hlast,
      Bool.true_and, ← Nat.add_sub_assoc hpos, toNat_testBit, toNat_testBit]
    split
    · next hjn => rw [decide_eq_true hjn, Bool.true_and]
    · rfl
  case bfi =>
    rw [getLsbD_putBits _ _ _ _ _ hj, toNat_testBit]
  case traps =>
    have hbad : ¬ fieldOk pos len = true := fun hok => by
      rw [fieldOk_iff] at hok
      omega
    exact ⟨bfx_traps h ty hbad, bfi_traps h hbad⟩

/-- Settles O2: each clause is the model's arithmetic on naturals read as bits. -/
theorem bitsAndCounts : Obligations.BitsAndCounts := by
  unfold Obligations.BitsAndCounts
  exact ⟨bitwiseAndShift, countBits, bitFields⟩

end Sys2Proof.Proofs.BitsAndCounts
end

section
/-! PROOFS. Moves, comparisons, selection, effective addresses and view bytes (R68, R120 to R126). -/
namespace Sys2Proof.Proofs.MovesAndAddresses
open Sys2Proof.Machine Sys2Proof.Claims Sys2Proof.Proofs.Scalar

/-! ### The instructions' arms -/

theorem exec_sext (g : Guard) (ty : ExtTy) (rd ra : Reg) (s : State) :
    exec (.sext g ty rd ra) s = execSext g ty rd ra s := rfl
theorem exec_zext (g : Guard) (ty : ExtTy) (rd ra : Reg) (s : State) :
    exec (.zext g ty rd ra) s = execZext g ty rd ra s := rfl
theorem exec_mov (g : Guard) (rd ra : Reg) (s : State) : exec (.mov g rd ra) s = execMov g rd ra s := rfl
theorem exec_movi (g : Guard) (rd : Reg) (i : Imm) (s : State) : exec (.movi g rd i) s = execMovi g rd i s := rfl
theorem exec_cmp (g : Guard) (k : ICond) (ty : ITy) (pd : Pred) (ra : Reg) (b : Src) (s : State) :
    exec (.cmp g k ty pd ra b) s = execCmp g k ty pd ra b s := rfl
theorem exec_sel (g : Guard) (rd : Reg) (pn : Pred) (ra rb : Reg) (s : State) :
    exec (.sel g rd pn ra rb) s = execSel g rd pn ra rb s := rfl
theorem exec_lea (g : Guard) (rd : Reg) (a : Addr) (s : State) : exec (.lea g rd a) s = execLea g rd a s := rfl
theorem exec_vqual (g : Guard) (rd ra : Reg) (die : Bool) (s : State) :
    exec (.vqual g rd ra die) s = execVqual g rd ra die s := rfl
theorem exec_vget (g : Guard) (rd ra : Reg) (s : State) : exec (.vget g rd ra) s = execVget g rd ra s := rfl
theorem exec_vclr (g : Guard) (rd ra : Reg) (s : State) : exec (.vclr g rd ra) s = execVclr g rd ra s := rfl

/-! ### Moves (R120) -/

/-- The low `n` bits of a word, as a mask takes them. -/
theorem setWidth_setWidth_eq_and (x : Word) (n : Nat) :
    (x.setWidth n).setWidth 64 = x &&& BitVec.ofNat 64 (2 ^ n - 1) := by
  apply BitVec.eq_of_getLsbD_eq
  intro j hj
  rw [BitVec.getLsbD_setWidth, BitVec.getLsbD_setWidth, BitVec.getLsbD_and, BitVec.getLsbD_ofNat,
    Nat.testBit_two_pow_sub_one, decide_eq_true hj, Bool.true_and, Bool.true_and, Bool.and_comm]

theorem moves : Moves := by
  intro g ty rd ra i s h x
  have hsext := writes_of_body h (exec_sext g ty rd ra s) (Instr.bytes_sext g ty rd ra) rfl
  have hzext := writes_of_body h (exec_zext g ty rd ra s) (Instr.bytes_zext g ty rd ra) rfl
  have hmovi := writes_of_body h (exec_movi g rd i s) (Instr.bytes_movi g rd i) rfl
  rw [setWidth_setWidth_eq_and] at hzext
  refine ⟨?sext, ?zext, writes_of_body h (exec_mov g rd ra s) (Instr.bytes_mov g rd ra) rfl, ?movi⟩
  case sext =>
    cases ty <;> exact hsext
  case zext =>
    cases ty <;> exact hzext
  case movi =>
    cases i <;> exact hmovi

/-! ### Compare and select (R121, R122) -/

theorem toNat_and_bne_zero {w : Nat} (x y : BitVec w) : (x.toNat &&& y.toNat != 0) = (x &&& y != 0) := by
  rw [← BitVec.toNat_and]
  simp [bne, BEq.beq, ← BitVec.toNat_inj]

theorem compare : Compare := by
  intro g k ty pd ra b s h x y
  have hcmp := writesPred_of_body h (exec_cmp g k ty pd ra b s) (Instr.bytes_cmp g k ty pd ra b) rfl
  rw [int_eq, int_eq, lowOf_eq, lowOf_eq] at hcmp
  cases k with
  | tst => rwa [icondHolds, toNat_and_bne_zero] at hcmp
  | ne => rwa [icondHolds, bne, beq_eq_decide, ← decide_not] at hcmp
  | _ => exact hcmp

theorem select : Select := by
  intro g rd pn ra rb s h
  have hsel := writes_of_body h (exec_sel g rd pn ra rb s) (Instr.bytes_sel g rd pn ra rb) rfl
  simpa [predOf] using hsel

/-! ### Addresses and view bytes (R68, R123 to R126) -/

theorem bits_eq_extractLsb' (x : Word) (lo n : Nat) : bits x.toNat lo n = (x.extractLsb' lo n).toNat :=
  SpecialRegisters.stField_eq_extractLsb' x lo n

/-- Replacing bits 56 to 63 replaces the view byte. -/
theorem putBits_view (x : Word) (n : Nat) : putBits x 56 8 n = atView x (BitVec.ofNat 8 n) := by
  apply BitVec.eq_of_getLsbD_eq
  intro j hj
  rw [getLsbD_putBits _ _ _ _ _ hj, atView, BitVec.getLsbD_append, BitVec.getLsbD_setWidth, BitVec.getLsbD_ofNat]
  by_cases hv : j < 56
  · simp [hv]
  · have hlt : j - 56 < 8 := by omega
    have hin : 56 ≤ j ∧ j < 56 + 8 := by omega
    simp [hv, hlt, hin]

theorem putBits_view_toNat (x : Word) (v : BitVec 8) : putBits x 56 8 v.toNat = atView x v := by
  rw [putBits_view, BitVec.ofNat_toNat, BitVec.setWidth_eq]

theorem withView_eq (a : Word) (v : BitVec 8) : withView a v = if v = 0 then a else atView a v := by
  rw [withView, putBits_view_toNat]

theorem twoPow_eq_pow (w n : Nat) : BitVec.twoPow w n = (2 : BitVec w) ^ n := by
  apply BitVec.eq_of_toNat_eq
  rw [BitVec.toNat_twoPow, BitVec.toNat_pow, Nat.pow_mod]
  rfl

theorem eaOf_eq_effective (c : Ctx) (a : Addr) : eaOf c a = effective c a := by
  cases a with
  | index ra rb k v =>
    have hscale : c.reg rb <<< k.toNat = c.reg rb * 2 ^ k.toNat := by
      rw [BitVec.shiftLeft_eq_mul_twoPow, twoPow_eq_pow]
    rw [eaOf, effective, withView_eq, hscale]
  | _ => exact withView_eq _ _

theorem loadEffectiveAddress : LoadEffectiveAddress := by
  intro g rd a s h
  rw [← eaOf_eq_effective]
  exact writes_of_body h (exec_lea g rd a s) (Instr.bytes_lea g rd a) rfl

theorem viewReserved_iff (n : Nat) : viewReserved n = true ↔ (1 ≤ n ∧ n ≤ 0x3F) ∨ (0x44 ≤ n ∧ n ≤ 0x7F) := by
  simp [viewReserved]

/-- The view byte that VSET takes. -/
def viewSource (c : Ctx) : VwSrc → BitVec 8
  | .reg r => (c.reg r).setWidth 8
  | .imm v => v

theorem exec_vset (g : Guard) (rd ra : Reg) (v : VwSrc) (s : State) :
    exec (.vset g rd ra v) s = guarded g false 8 s fun c =>
      if viewReserved (viewSource c v).toNat then bad s (operand (viewSource c v).toNat)
      else writes s c rd (atView (c.reg ra) (viewSource c v)) 8 := by
  cases v with
  | reg r =>
    have hbyte : ∀ c : Ctx, bits (c.reg r).toNat 0 8 = (viewSource c (.reg r)).toNat := fun c => by
      rw [viewSource, BitVec.toNat_setWidth, bits, Nat.pow_zero, Nat.div_one]
    simp only [← putBits_view_toNat, ← hbyte]
    rfl
  | imm v =>
    simp only [← putBits_view_toNat]
    rfl

section
variable {g : Guard} {s : State} {rd ra : Reg} (h : Issues g s)
include h

/-- VQUAL stamps view byte `n` into a pointer whose view byte is 0. -/
theorem vqual_writes (die : Bool) {n : Nat} (hn : (if die then 0x40 + dieOf s.cur else 0x80 + quireOf s.cur) = n) :
    Writes (.vqual g rd ra die) s rd (if ((here s).reg ra).extractLsb' 56 8 = 0
      then atView ((here s).reg ra) (BitVec.ofNat 8 n) else (here s).reg ra) := by
  have hw := writes_of_body h (exec_vqual g rd ra die s) (Instr.bytes_vqual g rd ra die) rfl
  have hzero : bits ((here s).reg ra).toNat 56 8 = 0 ↔ ((here s).reg ra).extractLsb' 56 8 = 0 := by
    rw [bits_eq_extractLsb']
    exact BitVec.toNat_inj (y := 0)
  simpa only [hn, putBits_view, hzero] using hw

theorem vset_writes {v : VwSrc} (hv : ¬ viewReserved (viewSource (here s) v).toNat = true) :
    Writes (.vset g rd ra v) s rd (atView ((here s).reg ra) (viewSource (here s) v)) :=
  writes_of_body h (exec_vset g rd ra v s) (Instr.bytes_vset g rd ra v) (if_neg hv)

theorem vset_traps {v : VwSrc} (hv : viewReserved (viewSource (here s) v).toNat = true) :
    TrapsWith (.vset g rd ra v) s .operand :=
  operand_of_body h (exec_vset g rd ra v s) (if_pos hv)

theorem vget_writes : Writes (.vget g rd ra) s rd ((((here s).reg ra).extractLsb' 56 8).setWidth 64) := by
  rw [← BitVec.ofNat_toNat, ← bits_eq_extractLsb']
  exact writes_of_body h (exec_vget g rd ra s) (Instr.bytes_vget g rd ra) rfl

theorem vclr_writes : Writes (.vclr g rd ra) s rd (atView ((here s).reg ra) 0) := by
  rw [← putBits_view_toNat]
  exact writes_of_body h (exec_vclr g rd ra s) (Instr.bytes_vclr g rd ra) rfl

end

theorem views : Views := by
  intro g rd ra rb v s h x top r reserved
  refine ⟨vqual_writes h false rfl, vqual_writes h true ?die, fun hr => ?regOk, fun hr => ?regReserved, fun hv => ?immOk,
    fun hv => ?immReserved, vget_writes h, vclr_writes h⟩
  case die => exact congrArg (0x40 + ·) (Nat.div_div_eq_div_mul s.cur 128 32).symm
  case regOk => exact vset_writes (v := .reg rb) h (mt (viewReserved_iff _).1 hr)
  case regReserved => exact vset_traps (v := .reg rb) h ((viewReserved_iff _).2 hr)
  case immOk => exact vset_writes (v := .imm v) h (mt (viewReserved_iff _).1 hv)
  case immReserved => exact vset_traps (v := .imm v) h ((viewReserved_iff _).2 hv)

/-- Settles O3: each instruction writes the word or the predicate that its rule names. -/
theorem movesAndAddresses : Obligations.MovesAndAddresses := by
  unfold Obligations.MovesAndAddresses
  exact ⟨moves, compare, select, loadEffectiveAddress, views⟩

end Sys2Proof.Proofs.MovesAndAddresses
end

section
/-! PROOFS. Branches, jumps, calls and returns (R78, R132 to R138). -/
namespace Sys2Proof.Proofs.ControlFlow
open Sys2Proof.Machine Sys2Proof.Claims Sys2Proof.Proofs.Scalar

/-! ### What a taken branch changes (R138) -/

/-- Only what the quires' fetch ports hold has changed. -/
def FetchesOnly (s t : State) : Prop :=
  t = { s with quires := t.quires } ∧ ∀ q, { t.quire q with fetches := (s.quire q).fetches } = s.quire q

theorem FetchesOnly.refl (s : State) : FetchesOnly s s := ⟨rfl, fun _ => rfl⟩

theorem FetchesOnly.trans {s t u : State} (h : FetchesOnly s t) (h' : FetchesOnly t u) : FetchesOnly s u := by
  obtain ⟨hst, hqst⟩ := h
  obtain ⟨htu, hqtu⟩ := h'
  refine ⟨by rw [htu, hst], fun q => ?_⟩
  rw [← hqst q, ← hqtu q]

theorem fetchesOnly_setQuire (s : State) (q : Nat) (l : List (Nat × Nat)) :
    FetchesOnly s (s.setQuire q { s.quire q with fetches := l }) := by
  refine ⟨rfl, fun p => ?_⟩
  rw [State.quire_setQuire]
  split
  · next h => rw [h]
  · rfl

theorem fetchesOnly_requestBlock (s : State) (pos a : Nat) : FetchesOnly s (requestBlock s pos a) := by
  rw [requestBlock]
  split
  · exact .refl s
  · exact fetchesOnly_setQuire ..

/-- A taken branch gives the context its target, may ask the fetch port for a block, and is counted. -/
theorem jumpTo_eq (s : State) (pos : Nat) (target : BitVec 56) : ∃ a u,
    FetchesOnly (s.setCtx pos { s.ctx pos with pc := target, refused := 0, ahead := a }) u
      ∧ jumpTo s pos target = u.tally (partOf s pos) 32 1 := by
  unfold jumpTo
  extract_lets c keep q s1 s2
  refine ⟨if keep then c.ahead else none, _, ?_, rfl⟩
  have h2 : FetchesOnly (s.setCtx pos { c with pc := target, refused := 0, ahead := if keep then c.ahead else none }) s2 :=
    fetchesOnly_setQuire _ (quireOf pos) _
  clear_value s2
  generalize (if keep then c.ahead else none) = a at h2 ⊢
  split
  · exact h2
  · exact h2.trans (fetchesOnly_requestBlock ..)

theorem jumpTo_jumps (s : State) (target : BitVec 56) : Jumps s (jumpTo s s.cur target) (here s) target := by
  obtain ⟨a, u, ⟨hu, hq⟩, hj⟩ := jumpTo_eq s s.cur target
  have hctx : ∀ p, u.ctx p = (s.setCtx s.cur { here s with pc := target, refused := 0, ahead := a }).ctx p := fun p => by
    rw [hu]; rfl
  have hhere : here (jumpTo s s.cur target) = { here s with pc := target, refused := 0, ahead := a } := by
    rw [hj, here, State.tally_ctx, State.tally_cur, hctx, hu]
    exact State.ctx_setCtx_same ..
  refine ⟨by rw [hhere], fun p hp => ?others, ?same, fun q => ?fetches, ?counted⟩
  case others =>
    rw [hj, State.tally_ctx, hctx, State.ctx_setCtx, if_neg hp]
  case same =>
    rw [hj, hu]
    simp [SameButQuires, SameMemory, SameTime]
  case fetches =>
    rw [hj, State.tally_quire]
    exact hq q
  case counted =>
    rw [hj]
    intro k i hi
    have hcount : counter u k i = counter s k i := by rw [hu]; rfl
    rw [← hcount]
    exact State.tally_counted u (partOf s s.cur) 32 1 (by decide) k i hi

/-- A taken branch that also writes a register: as one from the context after the write. -/
theorem jumpTo_setCtx_jumps (s : State) (c : Ctx) (target : BitVec 56) (ht : c.task = (here s).task)
    (hp : c.part = (here s).part) : Jumps s (jumpTo (s.setCtx s.cur c) s.cur target) c target := by
  have hpart : partOf (s.setCtx s.cur c) s.cur = partOf s s.cur := partOf_congr rfl (by simpa using ht) (by simpa using hp)
  have hc : here (s.setCtx s.cur c) = c := State.ctx_setCtx_same ..
  obtain ⟨hhere, hothers, hsame, hfetch, hcount⟩ := jumpTo_jumps (s.setCtx s.cur c) target
  rw [hc] at hhere
  refine ⟨hhere, fun p hne => ?_, hsame, hfetch, ?_⟩
  · exact (hothers p hne).trans ((State.ctx_setCtx ..).trans (if_neg hne))
  · rw [← hpart]
    exact hcount

/-! ### The instructions' arms -/

theorem exec_nop (g : Guard) (s : State) : exec (.nop g) s = execNop g s := rfl
theorem exec_br (g : Guard) (off : BitVec 34) (s : State) : exec (.br g off) s = execBr g off s := rfl
theorem exec_brTile (g : Guard) (t : Handle) (cv : BitVec 3) (cn : Bool) (off : BitVec 34) (s : State) :
    exec (.brTile g t cv cn off) s = execBrTile g t cv cn off s := rfl
theorem exec_brChan (g : Guard) (ch cv : BitVec 3) (cn : Bool) (off : BitVec 34) (s : State) :
    exec (.brChan g ch cv cn off) s = execBrChan g ch cv cn off s := rfl
theorem exec_jmp (g : Guard) (n : Reg) (s : State) : exec (.jmp g n) s = execJmp g n s := rfl
theorem exec_call (g : Guard) (off : BitVec 34) (s : State) : exec (.call g off) s = execCall g off s := rfl
theorem exec_callReg (g : Guard) (n : Reg) (s : State) : exec (.callReg g n) s = execCallReg g n s := rfl
theorem exec_ret (g : Guard) (s : State) : exec (.ret g) s = execRet g s := rfl

section
variable {i : Instr} {g : Guard} {s : State} {body : Ctx → Eff} (h : Issues g s)
  (hexec : exec i s = guarded g false 8 s body)
include h hexec

/-- The body of `i` is a taken branch. -/
theorem jumps_of_body {target : BitVec 56} (hbody : body (here s) = ok (jumpTo s s.cur target)) :
    ∃ u, exec i s = .next u ∧ Jumps s u (here s) target :=
  ⟨_, by rw [hexec, guarded_issues body h, hbody, settle_ok], jumpTo_jumps s target⟩

/-- The body of `i` is a taken branch that also writes registers. -/
theorem jumps_of_setCtx_body {c : Ctx} {target : BitVec 56}
    (hbody : body (here s) = ok (jumpTo (s.setCtx s.cur c) s.cur target)) (ht : c.task = (here s).task)
    (hp : c.part = (here s).part) : ∃ u, exec i s = .next u ∧ Jumps s u c target :=
  ⟨_, by rw [hexec, guarded_issues body h, hbody, settle_ok], jumpTo_setCtx_jumps s c target ht hp⟩

/-- The body of `i` is a conditional branch. -/
theorem branches_of_body {test : Bool} {off : BitVec 34} (hbody : body (here s) = branchIf test (here s) off s) :
    ∃ u, exec i s = .next u ∧ (test = true → Jumps s u (here s) (relTarget (here s).pc off))
      ∧ (test = false → Retires s u (here s) 8) := by
  cases test with
  | true =>
    obtain ⟨u, hnext, hjumps⟩ := jumps_of_body h hexec hbody
    exact ⟨u, hnext, fun _ => hjumps, nofun⟩
  | false =>
    rw [hexec]
    obtain ⟨u, hnext, hret⟩ := guarded_retires (len := 8) h hbody rfl rfl
    exact ⟨u, hnext, nofun, fun _ => hret⟩

end

/-! ### Targets (R78, R132) -/

theorem relTarget_eq (pc : BitVec 56) (off : BitVec 34) : relTarget pc off = pc + 4 * off.signExtend 56 := by
  rw [relTarget, BitVec.shiftLeft_eq_mul_twoPow, BitVec.mul_comm]
  rfl

theorem bits_low_two_eq_zero (x : Word) : bits x.toNat 0 2 = 0 ↔ x &&& 3 = 0 := by
  have hand : (x &&& 3).toNat = bits x.toNat 0 2 := by
    rw [BitVec.toNat_and, bits, Nat.pow_zero, Nat.div_one]
    exact Nat.and_two_pow_sub_one_eq_mod x.toNat 2
  rw [← hand]
  exact BitVec.toNat_inj (y := 0)

theorem branchReg_aligned {x : Word} (hx : x &&& 3 = 0) (s : State) (c : Ctx) :
    branchReg s x c = ok (jumpTo (s.setCtx s.cur c) s.cur (x.setWidth 56)) :=
  if_pos ((bits_low_two_eq_zero x).2 hx)

theorem branchReg_unaligned {x : Word} (hx : x &&& 3 ≠ 0) (s : State) (c : Ctx) :
    branchReg s x c = bad s ⟨.align, x, .none, 0⟩ :=
  if_neg (mt (bits_low_two_eq_zero x).1 hx)

/-- The test of BR.TILE and BR.CHAN: whether the state's code compares with CV otherwise than CN. -/
theorem branchTest_iff (a b : Nat) (cn : Bool) : ((a == b) != cn) = true ↔ ¬(a = b ↔ cn = true) := by
  cases cn <;> simp

/-! ### The claims -/

theorem branches : Branches := by
  intro g off t ch cv cn s h target tileIs chanIs
  have hnop : ∃ u, exec (.nop g) s = .next u ∧ Retires s u (here s) 8 := by
    rw [exec_nop, execNop]
    exact guarded_retires h rfl rfl rfl
  have hbr := jumps_of_body h (exec_br g off s) rfl
  obtain ⟨u, hu, htaken, huntaken⟩ := branches_of_body h (exec_brTile g t cv cn off s) rfl
  obtain ⟨v, hv, hvtaken, hvuntaken⟩ := branches_of_body h (exec_brChan g ch cv cn off s) rfl
  rw [relTarget_eq] at hbr htaken hvtaken
  rw [branchTest_iff] at htaken hvtaken
  rw [← Bool.not_eq_true, branchTest_iff, not_not] at huntaken hvuntaken
  exact ⟨hnop, hbr, ⟨u, hu, htaken, huntaken⟩, ⟨v, hv, hvtaken, hvuntaken⟩⟩

theorem callsAndJumps : CallsAndJumps := by
  intro g n off s h link x r
  refine ⟨?call, fun hx => ⟨?jmp, ?callReg⟩, fun hr => ?ret, fun hx => ⟨?jmpAlign, ?callRegAlign⟩,
    fun hr => ?retAlign⟩
  case call =>
    rw [← relTarget_eq]
    exact jumps_of_setCtx_body h (exec_call g off s) rfl rfl rfl
  case jmp => exact jumps_of_setCtx_body h (exec_jmp g n s) (branchReg_aligned hx ..) rfl rfl
  case callReg => exact jumps_of_setCtx_body h (exec_callReg g n s) (branchReg_aligned hx ..) rfl rfl
  case ret => exact jumps_of_setCtx_body h (exec_ret g s) (branchReg_aligned hr ..) rfl rfl
  case jmpAlign => exact traps_of_body h (exec_jmp g n s) (branchReg_unaligned hx ..)
  case callRegAlign => exact traps_of_body h (exec_callReg g n s) (branchReg_unaligned hx ..)
  case retAlign => exact traps_of_body h (exec_ret g s) (branchReg_unaligned hr ..)

/-- Settles O7: a taken branch gives the context its target and asks the fetch port for the block; an unaligned register
target traps before anything is written. -/
theorem controlFlow : Obligations.ControlFlow := by
  unfold Obligations.ControlFlow
  exact ⟨branches, callsAndJumps⟩

end Sys2Proof.Proofs.ControlFlow
end

section
/-! PROOFS. Sparse maps in canonical form: each key is listed once, with what the map reads there. -/
namespace Sys2Proof.Proofs.SparseMaps
open Sys2Proof.Machine

variable {α : Type} {d : α}

/-- What a map reads other than its default is listed. -/
theorem mem_of_get_ne {m : Sparse α} {i : Nat} (h : Sparse.get d m i ≠ d) : (i, Sparse.get d m i) ∈ m := by
  induction m with
  | nil => exact absurd rfl h
  | cons e r ih =>
    obtain ⟨k, v⟩ := e
    rw [Sparse.get] at h ⊢
    split
    · next hk => rw [hk]; exact List.mem_cons_self
    · next hk =>
      rw [if_neg hk] at h
      exact List.mem_cons_of_mem _ (ih h)

variable [DecidableEq α]

theorem wfFrom_cons {k b : Nat} {v : α} {r : Sparse α} :
    Sparse.wfFrom d b ((k, v) :: r) = true ↔ b ≤ k ∧ v ≠ d ∧ Sparse.wfFrom d (k + 1) r = true := by
  simp only [Sparse.wfFrom, Bool.and_eq_true, decide_eq_true_eq, and_assoc]

theorem le_key_of_wfFrom {m : Sparse α} {b : Nat} (h : Sparse.wfFrom d b m = true) : ∀ e ∈ m, b ≤ e.1 := by
  induction m generalizing b with
  | nil => exact fun e he => absurd he List.not_mem_nil
  | cons e r ih =>
    obtain ⟨hb, -, hr⟩ := wfFrom_cons.1 h
    intro x hx
    rcases List.mem_cons.1 hx with rfl | hx
    · exact hb
    · exact Nat.le_trans (Nat.le_succ_of_le hb) (ih hr x hx)

theorem keys_nodup_of_wfFrom {m : Sparse α} {b : Nat} (h : Sparse.wfFrom d b m = true) : (m.map (·.1)).Nodup := by
  induction m generalizing b with
  | nil => exact List.nodup_nil
  | cons e r ih =>
    obtain ⟨-, -, hr⟩ := wfFrom_cons.1 h
    rw [List.map_cons, List.nodup_cons]
    refine ⟨fun hmem => ?_, ih hr⟩
    obtain ⟨x, hx, hkey⟩ := List.mem_map.1 hmem
    exact absurd (le_key_of_wfFrom hr x hx) (by rw [hkey]; exact Nat.not_succ_le_self _)

theorem get_of_mem {m : Sparse α} {b : Nat} (h : Sparse.wfFrom d b m = true) : ∀ e ∈ m, Sparse.get d m e.1 = e.2 := by
  induction m generalizing b with
  | nil => exact fun e he => absurd he List.not_mem_nil
  | cons e r ih =>
    obtain ⟨-, -, hr⟩ := wfFrom_cons.1 h
    intro x hx
    rw [Sparse.get]
    rcases List.mem_cons.1 hx with rfl | hx
    · exact if_pos rfl
    · rw [if_neg (Nat.ne_of_lt (le_key_of_wfFrom hr x hx)), ih hr x hx]

end Sys2Proof.Proofs.SparseMaps
end

section
/-! PROOFS. ALIGN takes its context out of the rotation, and ALIGN_RELEASE lets waiters go (R139). -/
namespace Sys2Proof.Proofs.Align
open Sys2Proof.Machine Sys2Proof.Claims Sys2Proof.Proofs.SparseMaps

/-! ### ALIGN -/

theorem exec_align (g : Guard) (limit : BitVec 20) (s : State) : exec (.align g limit) s = execAlign g limit s := rfl

/-- A change of the current context reaches nothing else. -/
theorem setCtx_frame (s : State) (c : Ctx) : OthersSame s (s.setCtx s.cur c) ∧ SameElsewhere s (s.setCtx s.cur c) :=
  ⟨fun p hp => by rw [State.ctx_setCtx, if_neg hp], by simp [SameElsewhere, SameButQuires, SameMemory, SameTime]⟩

/-! ### The release of ALIGN's waiters -/

theorem exec_alignRelease (q : Nat) (pc : BitVec 56) (s : State) :
    exec (.alignRelease q pc) s = execAlignRelease q pc s := rfl

/-- A waiter gone on past its ALIGN. -/
def resumed (c : Ctx) : Ctx := { c with pc := c.pc + 8, refused := 0, wait := .none }

theorem resumePast_ctx (s : State) (pos p : Nat) :
    (resumePast s pos 8).ctx p = if p = pos then resumed (s.ctx pos) else s.ctx p := by
  rw [resumePast, retireAt, leaveRotation, State.tally_ctx, State.ctx_setCtx, State.ctx_setCtx_same]
  split
  · rfl
  · next h => rw [State.ctx_setCtx, if_neg h]

theorem resumePast_eq (s : State) (pos : Nat) : ∃ cs a, resumePast s pos 8 = { s with ctxs := cs, assize := a } := by
  rw [resumePast, retireAt]
  obtain ⟨a, ha⟩ := State.tally_eq _ (partOf (leaveRotation s pos .none) pos) 32 1
  exact ⟨_, a, ha⟩

/-- The waiters of a list gone on, one after another. -/
def resumeAll (s : State) (l : List (Nat × Ctx)) : State := l.foldl (fun s e => resumePast s e.1 8) s

theorem resumeAll_eq (s : State) (l : List (Nat × Ctx)) : ∃ cs a, resumeAll s l = { s with ctxs := cs, assize := a } := by
  induction l generalizing s with
  | nil => exact ⟨s.ctxs, s.assize, rfl⟩
  | cons e r ih =>
    obtain ⟨cs, a, he⟩ := resumePast_eq s e.1
    obtain ⟨cs', a', hr⟩ := ih (resumePast s e.1 8)
    exact ⟨cs', a', hr.trans (by rw [he])⟩

theorem resumeAll_same (s : State) (l : List (Nat × Ctx)) : SameElsewhere s (resumeAll s l) := by
  obtain ⟨cs, a, h⟩ := resumeAll_eq s l
  rw [h]
  simp [SameElsewhere, SameButQuires, SameMemory, SameTime]

theorem resumeAll_ctx_of_notMem {l : List (Nat × Ctx)} {p : Nat} (h : p ∉ l.map (·.1)) (s : State) :
    (resumeAll s l).ctx p = s.ctx p := by
  induction l generalizing s with
  | nil => rfl
  | cons e r ih =>
    rw [List.map_cons, List.mem_cons, not_or] at h
    obtain ⟨hne, hr⟩ := h
    rw [resumeAll, List.foldl_cons]
    exact (ih hr _).trans ((resumePast_ctx ..).trans (if_neg hne))

/-- A context listed once goes on once. -/
theorem resumeAll_ctx_of_mem {l : List (Nat × Ctx)} {p : Nat} (hnd : (l.map (·.1)).Nodup) (h : p ∈ l.map (·.1))
    (s : State) : (resumeAll s l).ctx p = resumed (s.ctx p) := by
  induction l generalizing s with
  | nil => exact absurd h List.not_mem_nil
  | cons e r ih =>
    rw [List.map_cons, List.nodup_cons] at hnd
    obtain ⟨hfresh, hnd⟩ := hnd
    rw [resumeAll, List.foldl_cons]
    by_cases hp : p = e.1
    · rw [hp]
      exact (resumeAll_ctx_of_notMem hfresh _).trans ((resumePast_ctx ..).trans (if_pos rfl))
    · rw [List.map_cons, List.mem_cons] at h
      rw [← (resumePast_ctx s e.1 p).trans (if_neg hp)]
      exact ih hnd (h.resolve_left hp) _

/-- The event lets go of the waiters that `alignFree` names, and is no move where there are none. -/
theorem exec_alignRelease_next {q : Nat} {pc : BitVec 56} {s t : State} :
    exec (.alignRelease q pc) s = .next t ↔
      s.ctxs.filter (alignFree s q pc) ≠ [] ∧ t = resumeAll s (s.ctxs.filter (alignFree s q pc)) := by
  rw [exec_alignRelease, execAlignRelease]
  generalize s.ctxs.filter (alignFree s q pc) = l
  cases l with
  | nil => simp [when]
  | cons e r => simp [when, resumeAll, eq_comm]

/-! ### Which waiters the event lets go -/

theorem participates_iff (q : Nat) (tag : BitVec 16) (s : State) (p : Nat) :
    participates q (some tag) (p, s.ctx p) = true ↔ takesPart q tag s p := by
  simp only [participates, takesPart, Bool.and_eq_true, beq_iff_eq, Option.isSome_some, and_true, and_assoc]
  split
  · next hrun hwfw => simp [hrun, hwfw]
  · next hrun hwfw =>
    have hno : ∀ r, (s.ctx p).wait ≠ .wfw r := hwfw
    simp [hrun, hno]
  · next hrun => simp [hrun]
  · next hrunning hfaulted _ =>
    have hrun : (s.ctx p).run ≠ .running := hrunning
    have hfault : (s.ctx p).run ≠ .faulted := hfaulted
    simp [hrun, hfault]

theorem task_of_takesPart {q : Nat} {tag : BitVec 16} {s : State} {p : Nat} (h : takesPart q tag s p) :
    (s.ctx p).task = some tag := by
  obtain ⟨-, htask, -⟩ := h
  exact htask

theorem waitsAt_iff (pc : BitVec 56) (s : State) (p : Nat) : waitsAt pc (s.ctx p) = true ↔ ∃ x n, alignsAt s pc p x n := by
  simp only [waitsAt, alignsAt]
  split
  · next hw => simp [hw, and_comm]
  · next hw =>
    refine ⟨nofun, fun ⟨x, n, _, hwait⟩ => absurd hwait (hw _ x n)⟩

section
variable {s : State} (hwf : Sparse.wf Ctx.reset s.ctxs = true)

/-- A context that belongs to a task is listed. -/
theorem mem_ctxs_of_task {p : Nat} {tag : BitVec 16} (h : (s.ctx p).task = some tag) : (p, s.ctx p) ∈ s.ctxs :=
  mem_of_get_ne fun hreset => by
    rw [State.ctx, hreset] at h
    exact absurd h (by simp [Ctx.reset])

include hwf

theorem eq_ctx_of_mem {e : Nat × Ctx} (h : e ∈ s.ctxs) : e = (e.1, s.ctx e.1) := by
  rw [State.ctx, get_of_mem hwf e h]

/-- Every listed participant of the task waits there, as every one does. -/
theorem all_wait_iff (q : Nat) (pc : BitVec 56) (tag : BitVec 16) :
    (s.ctxs.all fun e => !participates q (some tag) e || waitsAt pc e.2) = true
      ↔ ∀ p, takesPart q tag s p → ∃ x n, alignsAt s pc p x n := by
  rw [List.all_eq_true]
  constructor
  · intro hall p hp
    have hmem : (p, s.ctx p) ∈ s.ctxs := mem_ctxs_of_task (task_of_takesPart hp)
    have hpart : participates q (some tag) (p, s.ctx p) = true := (participates_iff q tag s p).2 hp
    have hw := hall _ hmem
    rw [hpart, Bool.not_true, Bool.false_or] at hw
    exact (waitsAt_iff pc s p).1 hw
  · intro hmet e he
    rw [eq_ctx_of_mem hwf he, Bool.or_eq_true, Bool.not_eq_true', ← Bool.not_eq_true, participates_iff, waitsAt_iff]
    exact Classical.or_iff_not_imp_left.2 fun hp => hmet e.1 (not_not.1 hp)

/-- A waiter is let go where its limit has passed in its slot, or where its task meets. -/
theorem alignFree_iff {q pos since limit : Nat} {pc : BitVec 56} {tag : BitVec 16} (hq : quireOf pos = q)
    (ha : alignsAt s pc pos since limit) (ht : (s.ctx pos).task = some tag) :
    alignFree s q pc (pos, s.ctx pos) = true ↔ (since + limit ≤ s.cyc ∧ s.cyc % 16 = slotOf pos)
      ∨ ∀ p, takesPart q tag s p → ∃ x n, alignsAt s pc p x n := by
  have hwaits : waitsAt pc (s.ctx pos) = true := (waitsAt_iff pc s pos).2 ⟨since, limit, ha⟩
  obtain ⟨-, hwait⟩ := ha
  rw [alignFree, hwaits, ht, hwait, Bool.and_eq_true, Bool.or_eq_true, all_wait_iff hwf, or_comm]
  simp [hq]

/-- The listed waiters that the event lets go, by position. -/
theorem mem_released_iff {q pos : Nat} {pc : BitVec 56} {tag : BitVec 16} (ht : (s.ctx pos).task = some tag) :
    pos ∈ (s.ctxs.filter (alignFree s q pc)).map (·.1) ↔ alignFree s q pc (pos, s.ctx pos) = true := by
  rw [List.mem_map]
  constructor
  · rintro ⟨e, he, rfl⟩
    obtain ⟨hmem, hfree⟩ := List.mem_filter.1 he
    rwa [← eq_ctx_of_mem hwf hmem]
  · exact fun hfree => ⟨_, List.mem_filter.2 ⟨mem_ctxs_of_task ht, hfree⟩, rfl⟩

theorem released_nodup (f : Nat × Ctx → Bool) : ((s.ctxs.filter f).map (·.1)).Nodup :=
  (keys_nodup_of_wfFrom hwf).sublist (List.filter_sublist.map _)

end

theorem quireOf_of_released {s : State} {q p : Nat} {pc : BitVec 56}
    (h : p ∈ (s.ctxs.filter (alignFree s q pc)).map (·.1)) : quireOf p = q := by
  obtain ⟨e, he, rfl⟩ := List.mem_map.1 h
  have hfree := (List.mem_filter.1 he).2
  simp only [alignFree, Bool.and_eq_true, beq_iff_eq] at hfree
  obtain ⟨⟨hq, -⟩, -⟩ := hfree
  exact hq

theorem alignHoldsAndReleases : AlignHoldsAndReleases := by
  constructor
  · intro g limit s h
    obtain ⟨hothers, hsame⟩ := setCtx_frame s
      { here s with wait := .align (here s).pc s.cyc (if limit = 0 then 4096 else limit.toNat) }
    refine ⟨_, ?_, hothers, hsame, rfl, State.ctx_setCtx_same ..⟩
    rw [exec_align, execAlign, guarded_issues _ h, settle_ok]
  · intro q pc tag since limit pos s hwf hq ha ht passed met
    have hreleased : pos ∈ (s.ctxs.filter (alignFree s q pc)).map (·.1) ↔ passed ∨ met :=
      (mem_released_iff hwf ht).trans (alignFree_iff hwf hq ha ht)
    constructor
    · intro hfree
      have hmem := hreleased.2 hfree
      have hne : s.ctxs.filter (alignFree s q pc) ≠ [] := fun hnil => by
        rw [hnil] at hmem
        exact List.not_mem_nil hmem
      exact ⟨_, exec_alignRelease_next.2 ⟨hne, rfl⟩, resumeAll_ctx_of_mem (released_nodup hwf _) hmem s,
        resumeAll_same s _, fun p hp => resumeAll_ctx_of_notMem (mt quireOf_of_released hp) s⟩
    · intro hpassed hmet t ht'
      obtain ⟨-, rfl⟩ := exec_alignRelease_next.1 ht'
      exact resumeAll_ctx_of_notMem (mt hreleased.1 (not_or.2 ⟨hpassed, hmet⟩)) s

end Sys2Proof.Proofs.Align
end

section
/-! PROOFS. The iteration counters of a task: GCHUNK.INIT and GCHUNK (R140 to R144). -/
namespace Sys2Proof.Proofs.IterationCounters
open Sys2Proof.Machine Sys2Proof.Claims Sys2Proof.Proofs.Scalar

theorem exec_gchunkInit (g : Guard) (n : BitVec 2) (ra rb rc : Reg) (s : State) :
    exec (.gchunkInit g n ra rb rc) s = execGchunkInit g n ra rb rc s := rfl
theorem exec_gchunk (g : Guard) (pd : Pred) (rd : Reg) (n : BitVec 2) (s : State) :
    exec (.gchunk g pd rd n) s = execGchunk g pd rd n s := rfl

/-! ### A counter of a task replaced -/

/-- Only the counter's own place in the list changes. -/
theorem setCtr_eq (t : Task) (n : BitVec 2) (x : IterCtr) : ∃ l, setCtr t n x = { t with ctrs := l }
    ∧ ∀ m : BitVec 2, l.getD m.toNat IterCtr.reset = if m = n then x else t.ctrs.getD m.toNat IterCtr.reset := by
  refine ⟨_, rfl, fun m => ?_⟩
  have hm : m.toNat < 4 := m.isLt
  rw [List.getD_eq_getElem?_getD, List.getElem?_map, List.getElem?_range hm, Option.map_some, Option.getD_some]
  simp only [BitVec.toNat_inj]

/-- Counter `n` of `t` is `x` after the step, and nothing else of the front end has changed. -/
def PutsCounter (s u : State) (t : Task) (n : BitVec 2) (x : IterCtr) : Prop :=
  ∃ l, u.front = { s.front with tasks := s.front.tasks.map fun v => if v.tag = t.tag then { t with ctrs := l } else v }
    ∧ ∀ m : BitVec 2, l.getD m.toNat IterCtr.reset = if m = n then x else t.ctrs.getD m.toNat IterCtr.reset

theorem putsCounter_of_front {s u : State} {t : Task} {n : BitVec 2} {x : IterCtr}
    (h : u.front = (s.setTask (setCtr t n x)).front) : PutsCounter s u t n x := by
  obtain ⟨l, hl, hget⟩ := setCtr_eq t n x
  refine ⟨l, ?_, hget⟩
  rw [h, hl]
  rfl

/-- What retiring after a task's change does. -/
theorem retire_setTask_spec (s : State) (t : Task) (c : Ctx) (ht : c.task = (here s).task) (hp : c.part = (here s).part) :
    let u := retire (s.setTask t) c 8
    SameButFront s u ∧ OthersSame s u ∧ here u = { c with pc := c.pc + 8, refused := 0 }
      ∧ u.front = (s.setTask t).front := by
  obtain ⟨hhere, hothers, ⟨hsame, hquires⟩, -⟩ := retire_spec (s.setTask t) c 8 ht hp
  obtain ⟨hmem, htime, hcores, hdies, hfront, hdev, hfabric, hreleases⟩ := hsame
  exact ⟨⟨hmem, htime, hcores, hquires, hdies, hdev, hfabric, hreleases⟩, hothers, hhere, hfront⟩

/-- The body of `i` replaces a counter of a task and may write registers and a predicate. -/
theorem puts_of_body {i : Instr} {g : Guard} {s : State} {body : Ctx → Eff} {c : Ctx} {t : Task} {n : BitVec 2}
    {x : IterCtr} (h : Issues g s) (hexec : exec i s = guarded g false 8 s body)
    (hbody : body (here s) = ok (retire (s.setTask (setCtr t n x)) c 8))
    (ht : c.task = (here s).task) (hp : c.part = (here s).part) :
    ∃ u, exec i s = .next u ∧ SameButFront s u ∧ OthersSame s u
      ∧ here u = { c with pc := c.pc + 8, refused := 0 } ∧ PutsCounter s u t n x := by
  obtain ⟨hsame, hothers, hhere, hfront⟩ := retire_setTask_spec s (setCtr t n x) c ht hp
  exact ⟨_, by rw [hexec, guarded_issues body h, hbody, settle_ok], hsame, hothers, hhere, putsCounter_of_front hfront⟩

/-- A trap changes no task. -/
theorem takeTrap_tasks (s : State) (pos : Nat) (x : Trap) : (takeTrap s pos x).front.tasks = s.front.tasks := by
  obtain ⟨-, hfront, -, -⟩ := trapped_frame s pos
  cases hpart : partOf s pos with
  | none => rw [takeTrap_none x hpart, hfront]
  | some n => rw [takeTrap_some x hpart, (postOnly_post ..).front, hfront]

/-! ### GCHUNK.INIT (R141) -/

section
variable {g : Guard} {s : State} {n : BitVec 2} {ra rb rc : Reg} (h : Issues g s)
include h

theorem gchunkInit_puts {t : Task} (ht : (here s).task.bind (taskOf s) = some t)
    (hp : bits ((here s).reg rc).toNat 0 16 ≠ 0) (hminc : bits ((here s).reg rc).toNat 16 32 ≠ 0)
    (htop : bits ((here s).reg rc).toNat 48 16 = 0) :
    ∃ u, exec (.gchunkInit g n ra rb rc) s = .next u ∧ SameButFront s u ∧ OthersSame s u
      ∧ here u = { here s with pc := (here s).pc + 8, refused := 0 }
      ∧ PutsCounter s u t n ⟨(here s).reg ra, (here s).reg rb, ((here s).reg rc).setWidth 16,
          ((here s).reg rc).extractLsb' 16 32⟩ := by
  have hgood : ¬(bits ((here s).reg rc).toNat 0 16 = 0 ∨ bits ((here s).reg rc).toNat 16 32 = 0
      ∨ bits ((here s).reg rc).toNat 48 16 ≠ 0) := by simp [hp, hminc, htop]
  refine puts_of_body h (exec_gchunkInit g n ra rb rc s) ?_ rfl rfl
  simp only [ht, if_neg hgood]
  rw [BitVec.ofNat_toNat, MovesAndAddresses.bits_eq_extractLsb', BitVec.ofNat_toNat, BitVec.setWidth_eq]

theorem gchunkInit_traps (hbad : (here s).task.bind (taskOf s) = none ∨ bits ((here s).reg rc).toNat 0 16 = 0
      ∨ bits ((here s).reg rc).toNat 16 32 = 0 ∨ bits ((here s).reg rc).toNat 48 16 ≠ 0) :
    ∃ k, Traps (.gchunkInit g n ra rb rc) s (operand k) := by
  cases ht : (here s).task.bind (taskOf s) with
  | none => exact ⟨0, traps_of_body h (exec_gchunkInit g n ra rb rc s) (by simp only [ht])⟩
  | some t =>
    rw [ht] at hbad
    have hbits := hbad.resolve_left (Option.some_ne_none t)
    exact ⟨_, traps_of_body h (exec_gchunkInit g n ra rb rc s) (by simp only [ht, if_pos hbits]; rfl)⟩

end

/-! ### GCHUNK (R142, R144) -/

theorem regOdd_iff (rd : Reg) : regOdd rd = true ↔ rd.toNat % 2 = 1 := by
  rw [regOdd, BitVec.getLsbD, Nat.testBit_zero, decide_eq_true_eq]

theorem chunkOf_eq (x : IterCtr) : chunkOf x = if x.remain.toNat = 0 then 0
    else min (max (x.remain.toNat / (2 * x.p.toNat)) x.minc.toNat) x.remain.toNat :=
  if_congr (BitVec.toNat_inj (y := 0)).symm rfl rfl

section
variable {g : Guard} {s : State} {pd : Pred} {rd : Reg} {n : BitVec 2} (h : Issues g s)
include h

/-- GCHUNK of a task takes the counter's next chunk, `k` iterations. -/
theorem gchunk_puts {t : Task} {k : Nat} (ht : (here s).task.bind (taskOf s) = some t) (heven : rd.toNat % 2 = 0)
    (hk : chunkOf (ctrAt t n) = k) :
    let x := ctrAt t n
    ∃ u, exec (.gchunk g pd rd n) s = .next u ∧ SameButFront s u ∧ OthersSame s u
      ∧ here u = { ((((here s).setReg rd x.next).setReg (rd + 1) (BitVec.ofNat 64 k)).setPred pd (0 < k)) with
          pc := (here s).pc + 8, refused := 0 }
      ∧ PutsCounter s u t n { x with next := x.next + BitVec.ofNat 64 k, remain := x.remain - BitVec.ofNat 64 k } := by
  have hodd : ¬ regOdd rd = true := mt (regOdd_iff rd).1 (by omega)
  subst hk
  refine puts_of_body h (exec_gchunk g pd rd n s) ?_ rfl rfl
  simp only [ht, if_neg hodd]
  rfl

theorem gchunk_odd_traps (hodd : rd.toNat % 2 = 1) :
    Traps (.gchunk g pd rd n) s ⟨.operand, BitVec.ofNat 64 rd.toNat, .none, 0⟩ :=
  traps_of_body h (exec_gchunk g pd rd n s) (by simp only [if_pos ((regOdd_iff rd).2 hodd)]; rfl)

theorem gchunk_taskless_traps (ht : (here s).task.bind (taskOf s) = none) : TrapsWith (.gchunk g pd rd n) s .operand := by
  by_cases hodd : rd.toNat % 2 = 1
  · exact ⟨_, rfl, gchunk_odd_traps h hodd⟩
  · exact operand_of_body h (exec_gchunk g pd rd n s) (by simp only [ht, if_neg (mt (regOdd_iff rd).1 hodd)]; rfl)

end

theorem iterationCounters : IterationCounters := by
  intro g n pd rd ra rb rc s h w good puts
  refine ⟨fun t ht => ⟨fun ⟨hp, hminc, htop⟩ => gchunkInit_puts h ht hp hminc htop,
    fun heven => gchunk_puts h ht heven (chunkOf_eq _)⟩, fun hbad => ?initTraps, gchunk_odd_traps h,
    gchunk_taskless_traps h⟩
  case initTraps =>
    have hcases : (here s).task.bind (taskOf s) = none ∨ bits w.toNat 0 16 = 0 ∨ bits w.toNat 16 32 = 0
        ∨ bits w.toNat 48 16 ≠ 0 := by
      by_contra hno
      simp only [not_or, not_not] at hno
      obtain ⟨htask, hgood⟩ := hno
      exact hbad.elim (absurd hgood) htask
    obtain ⟨k, htrap⟩ := gchunkInit_traps (n := n) (ra := ra) (rb := rb) h hcases
    exact ⟨⟨operand k, rfl, htrap⟩, _, htrap, takeTrap_tasks ..⟩

/-- Settles O8: the release takes every listed waiter that is free to go, once; a counter changes with its task, and a trap
changes no task. -/
theorem alignAndCounters : Obligations.AlignAndCounters := by
  unfold Obligations.AlignAndCounters
  exact ⟨Align.alignHoldsAndReleases, iterationCounters⟩

end Sys2Proof.Proofs.IterationCounters
end
